-- ==== Sys2Proof/Word.lean ====
section
/-!
DEFINITION. The word types of the Luval D16, the plainest arithmetic on them, and the one sparse map in which the model
holds every large array (memory, register files, tables). Bit numbering is that of R2: bit 0 is least significant.
-/
namespace Sys2Proof

/-- One byte (R79: memory is little-endian). -/
abbrev Byte := BitVec 8
/-- One 32-bit slot word, lane or array word (R50, R79). -/
abbrev W32 := BitVec 32
/-- One 64-bit k register, address or count (R173). -/
abbrev W64 := BitVec 64

/-- Bits `[lo + n - 1 : lo]` of a number (the notation `x[hi:lo]` of R4, on exact naturals). -/
def fld (w lo n : Nat) : Nat := w / 2 ^ lo % 2 ^ n

/-- Bit `i` of a number. -/
def bitOf (w i : Nat) : Bool := w / 2 ^ i % 2 == 1

/-- 1 for true, 0 for false. -/
def bit (b : Bool) : Nat := if b then 1 else 0

/-- The signed value of the low `n` bits of `x` (R2, R79). -/
def signedOf (n x : Nat) : Int :=
  let y := x % 2 ^ n
  if y < 2 ^ (n - 1) then (y : Int) else (y : Int) - 2 ^ n

/-- The low `n` bits of an integer, as a natural (two's complement, R79). -/
def wrapTo (n : Nat) (x : Int) : Nat := (x % (2 ^ n : Int)).toNat

/-- `SignExtend(x[n-1:0], m)` of R4. -/
def sext (n m x : Nat) : Nat := wrapTo m (signedOf n x)

/-- Little-endian bytes of a number, `n` of them (R79). -/
def leBytes : Nat → Nat → List Byte
  | 0, _ => []
  | n + 1, x => BitVec.ofNat 8 x :: leBytes n (x / 256)

/-- The number whose little-endian bytes are given (R79). -/
def ofLE : List Byte → Nat
  | [] => 0
  | b :: bs => b.toNat + 256 * ofLE bs

/-- A map from naturals in which all but finitely many keys hold a default value: (key, value) pairs, keys strictly
rising, no pair holding the default. One canonical form, so equal maps are equal data. -/
abbrev Sparse (α : Type) := List (Nat × α)

/-- The value at key `k`; the default `d` where nothing is listed. -/
def Sparse.get {α : Type} (d : α) (m : Sparse α) (k : Nat) : α :=
  match m with
  | [] => d
  | (j, a) :: r => if j = k then a else Sparse.get d r k

/-- The map without key `k`. -/
def Sparse.erase {α : Type} (m : Sparse α) (k : Nat) : Sparse α :=
  match m with
  | [] => []
  | (j, a) :: r => if j = k then Sparse.erase r k else (j, a) :: Sparse.erase r k

/-- The map with (k, v) listed at its place, whatever `v` is. -/
def Sparse.insert {α : Type} (m : Sparse α) (k : Nat) (v : α) : Sparse α :=
  match m with
  | [] => [(k, v)]
  | (j, a) :: r =>
    if k < j then (k, v) :: (j, a) :: r
    else if k = j then (k, v) :: r
    else (j, a) :: Sparse.insert r k v

/-- Write: list the value, or drop the key when the value is the default. -/
def Sparse.set {α : Type} [DecidableEq α] (d : α) (m : Sparse α) (k : Nat) (v : α) : Sparse α :=
  if v = d then Sparse.erase m k else Sparse.insert m k v

/-- The listed keys. -/
def Sparse.keys {α : Type} (m : Sparse α) : List Nat := m.map (·.1)

/-- Every listed key is greater than `b`, keys rise strictly, and no listed value is the default. -/
def Sparse.wfFrom {α : Type} [DecidableEq α] (d : α) (b : Option Nat) (m : Sparse α) : Bool :=
  match m with
  | [] => true
  | (j, a) :: r => (match b with | none => true | some x => decide (x < j)) && decide (a ≠ d) && Sparse.wfFrom d (some j) r

/-- The canonical form. -/
def Sparse.wf {α : Type} [DecidableEq α] (d : α) (m : Sparse α) : Bool := Sparse.wfFrom d none m

/-- Write several (key, value) pairs, the first of the list first. -/
def Sparse.setAll {α : Type} [DecidableEq α] (d : α) (m : Sparse α) (ws : List (Nat × α)) : Sparse α :=
  ws.foldl (fun m w => Sparse.set d m w.1 w.2) m

/-- A block of words that all hold `base` but for the listed ones: the partial sums and accumulators, which one MCLR
sets as a whole (R318). -/
structure Filled (α : Type) where
  base : α
  diff : Sparse α
  deriving DecidableEq, Repr

/-- The word at index `i`. -/
def Filled.get {α : Type} (f : Filled α) (i : Nat) : α := Sparse.get f.base f.diff i

/-- Write the word at index `i`. -/
def Filled.set {α : Type} [DecidableEq α] (f : Filled α) (i : Nat) (x : α) : Filled α :=
  { f with diff := Sparse.set f.base f.diff i x }

/-- Every word holds `x`. -/
def Filled.all {α : Type} (x : α) : Filled α := { base := x, diff := [] }

/-- The element of a list at an index, if there is one. -/
def nth? {α : Type} : List α → Nat → Option α
  | [], _ => none
  | a :: _, 0 => some a
  | _ :: r, n + 1 => nth? r n

/-- The list without the element at an index. -/
def dropNth {α : Type} : List α → Nat → List α
  | [], _ => []
  | _ :: r, 0 => r
  | a :: r, n + 1 => a :: dropNth r n

/-- The list with the element at an index replaced. -/
def setNth {α : Type} : List α → Nat → α → List α
  | [], _, _ => []
  | _ :: r, 0, x => x :: r
  | a :: r, n + 1, x => a :: setNth r n x

/-- The numbers from `a`, `n` of them. -/
def upFrom (a n : Nat) : List Nat := (List.range n).map (a + ·)

/-- The positions of the 1 bits of a mask below `n`, ascending. -/
def bitsOf (n m : Nat) : List Nat := (List.range n).filter (bitOf m)

/-- The mask with bit `i` set to `b`. -/
def setBit (m i : Nat) (b : Bool) : Nat :=
  if bitOf m i then (if b then m else m - 2 ^ i) else (if b then m + 2 ^ i else m)

/-- The first `n` elements, filled with `d`. -/
def padTo {α : Type} (d : α) (n : Nat) (l : List α) : List α := l.take n ++ List.replicate (n - l.length) d

end Sys2Proof
end

