-- ==== Sys2Proof/Syntax.lean ====
section
/-!
DEFINITION. The instruction set Farou of the Luval D16 and the events of the package: one constructor of `Instr` for each
row of spec/opcode_table.json. A row with an encoding carries its decoded operands (R55 to R57 and the engine chapters); a
row without one is a step of the package itself and carries what names its occurrence.
-/
namespace Sys2Proof

abbrev KReg := Fin 64
abbrev VReg := Fin 64
abbrev PReg := Fin 16
/-- The lane-predicate field P of VA, VI, MEM, MA and SC (R56). -/
abbrev LPred := Fin 4
abbrev TReg := Fin 32
abbrev AReg := Fin 16
abbrev SReg := Fin 16
abbrev FReg := Fin 4

/-- The two core kinds (R6, R63 KIND). -/
inductive CoreKind | shading | tensor
  deriving DecidableEq, Repr

/-- The opcode maps of R57: slots 2 and 3 share one, slot 6 has one for each core kind. -/
inductive SlotMap | ctl | scl | vec | mem | mtx | str | scn | xfm
  deriving DecidableEq, Repr

/-- Field B of VA, MEM, MO, MA and SC (R56): a v register, or a k register broadcast to every lane. -/
inductive VK
  | v (n : VReg)
  | k (n : KReg)
  deriving DecidableEq, Repr

/-- Operand width .D or .W of the scalar engine (R176). -/
inductive KWidth | d | w
  deriving DecidableEq, Repr

/-- The conditions of KCMP (R181). -/
inductive KCond | eq | ne | lt | ge | ltu | geu | le | gt | leu | gtu
  deriving DecidableEq, Repr

/-- The condition of BRC (R56, R149). -/
inductive BrCond | any | all | none
  deriving DecidableEq, Repr

/-- Lane types T (R56). -/
inductive LaneType | i32 | u32 | f32 | f16x2 | bf16x2 | i16x2 | i8x4 | f8x4
  deriving DecidableEq, Repr

/-- Lane types of the integer instructions (R231). -/
inductive IntType | i32 | u32 | i16x2 | i8x4
  deriving DecidableEq, Repr

/-- Lane types of VNEG and VABS (R231). -/
inductive SIntType | i32 | i16x2 | i8x4
  deriving DecidableEq, Repr

/-- Lane types of the float instructions (R231). -/
inductive FltType | f32 | f16x2 | bf16x2
  deriving DecidableEq, Repr

/-- Lane types of VRED and VSCAN (R253). -/
inductive RedType | i32 | u32 | f32
  deriving DecidableEq, Repr

/-- The four directed or nearest roundings of R89. -/
inductive RM | rne | rtz | rdn | rup
  deriving DecidableEq, Repr

/-- The rounding modes of the conversions, with stochastic rounding (R89). -/
inductive RMode | det (r : RM) | sr
  deriving DecidableEq, Repr

/-- Conditions of VCMP (R237). -/
inductive ICond | eq | ne | lt | le | gt | ge
  deriving DecidableEq, Repr

/-- Conditions of VFCMP (R237). -/
inductive FCond | eq | ne | lt | le | gt | ge | un | ord
  deriving DecidableEq, Repr

/-- Operations of VRED and VSCAN (R253). -/
inductive RedOp | add | min | max | and | or | xor
  deriving DecidableEq, Repr

/-- Kinds of VMOVI (R238). -/
inductive MoviKind | sx | t32 | t16
  deriving DecidableEq, Repr

/-- Kinds of VSHUF (imm) (R252). -/
inductive ShufKind | rot | xor | rev
  deriving DecidableEq, Repr

/-- Kinds of VVOTE (R254). -/
inductive VoteKind | any | all | uni
  deriving DecidableEq, Repr

/-- Kinds of VACTIVE (R254). -/
inductive ActKind | rank | count | lo | hi
  deriving DecidableEq, Repr

/-- Element formats of VQMX and VDQMX (R249). -/
inductive QFmt | e4m3 | e5m2 | e2m3 | e3m2 | e2m1 | f1 | f2 | f3
  deriving DecidableEq, Repr

/-- Widths of memory accesses (R193). -/
inductive MWidth | b | sb | h | sh | w | sw | d
  deriving DecidableEq, Repr

/-- Widths of stores (R194). -/
inductive SWidth | b | h | w | d
  deriving DecidableEq, Repr

/-- Widths of LDA (R194). -/
inductive AcqWidth | w | sw | d
  deriving DecidableEq, Repr

/-- Hints of loads (R193). -/
inductive Hint | none | na | ro | ef
  deriving DecidableEq, Repr

/-- Hints of stores: .RO is for loads only (R194). -/
inductive SHint | none | na | ef
  deriving DecidableEq, Repr

/-- Scopes (R28). -/
inductive Scope | group | gang | core | die | pkg | sys
  deriving DecidableEq, Repr

/-- Integer atomic operations (R213). -/
inductive AtomOp | add | min | max | and | or | xor | exch
  deriving DecidableEq, Repr

/-- Atomic widths (R213). -/
inductive AtomW | w | uw | d | ud
  deriving DecidableEq, Repr

/-- Float atomic operations (R214). -/
inductive AtomFOp | fadd | fmin | fmax
  deriving DecidableEq, Repr

/-- Float atomic types (R214). -/
inductive AtomFW | f32 | f16x2 | bf16x2
  deriving DecidableEq, Repr

/-- Widths of CAS (R215). -/
inductive CasW | w | d
  deriving DecidableEq, Repr

/-- Operations of ATOMU: those of ATOM, or compare and swap (R216). -/
inductive AtomUOp | op (o : AtomOp) | cas
  deriving DecidableEq, Repr

/-- Levels of PREF (R221). -/
inductive PrefLevel | l1 | l2 | msc
  deriving DecidableEq, Repr

/-- Kinds of FILLHINT (R401). -/
inductive FillHint | reset | start | drop
  deriving DecidableEq, Repr

/-- Spans of PTINV (R172) and of the translation-update command (R424). -/
inductive InvSpan | p64 | p2m | all
  deriving DecidableEq, Repr

/-- A cell row or slot of the array, explicit or by pointer (R304). -/
inductive MIdx | at (m : Fin 128) | nx
  deriving DecidableEq, Repr

/-- The values ZQRY returns (R364). -/
inductive ZKind | pos | z | cov | prim
  deriving DecidableEq, Repr

/-- The direction DEPW declares (R365). -/
inductive DepDir | none | ge | le
  deriving DecidableEq, Repr

/-- What VEMIT writes (R358). -/
inductive EmitKind | pos | attr (k : Fin 4)
  deriving DecidableEq, Repr

/-- The modes of TRACE (R375). -/
inductive TraceMode | plain | any | step
  deriving DecidableEq, Repr

/-- The operand of XMOVT (R338). -/
inductive XBind | t (n : TReg) | s (n : SReg)
  deriving DecidableEq, Repr

/-- Data and trigger ports that XMOV writes (R337). -/
inductive XPort | src | dst | len | go (n : Fin 4)
  deriving DecidableEq, Repr

/-- Bind ports (R337). -/
inductive XBindPort | inp | out | tab
  deriving DecidableEq, Repr

/-- The transform units (R336). -/
inductive XUnit | dcz | spx | exc | mxq
  deriving DecidableEq, Repr

/-- Which bytes of which cache an eviction drops (R190, R260): an L1, a die L2, the read-only copies of a core (R201), or
the cached translations of a die. -/
inductive EvictWhat | l1 | l2 | ro | tlb
  deriving DecidableEq, Repr

/-- Where a soft error strikes (R24, R448): a memory byte, a v register word, a k register, a scratchpad word. -/
inductive SoftWhere | memory | vreg | kreg | spad
  deriving DecidableEq, Repr

/-- What the baseboard controller reads (R444). -/
inductive MgmtItem | temperature (die : Nat) | coolant | power | bootstat | fwdig | corrected (die : Nat) | uncorrected (die : Nat)
  deriving DecidableEq, Repr

/-- Operations of a host AtomicOp (R418). -/
inductive HostAtomOp | fetchAdd | swap | cas
  deriving DecidableEq, Repr

/-- The instructions and events of the part, one constructor for each row of the opcode table. -/
inductive Instr
  -- slot 0, control engine (R147, R148, R408); `stop` is the S bit of R51
  | nopSlot0 (stop : Bool)
  | nop
  | br (stop : Bool) (p : PReg) (off : BitVec 19)
  | brc (stop : Bool) (p : PReg) (c : BrCond) (off : BitVec 19)
  | brx (stop : Bool) (a : KReg)
  | call (stop : Bool) (off : BitVec 19)
  | callx (stop : Bool) (a b : KReg)
  | ret (stop : Bool) (a : KReg)
  | merge (stop : Bool)
  | bara (stop : Bool) (n : Fin 8)
  | barw (stop : Bool) (n : Fin 8)
  | bar (stop : Bool) (n : Fin 8)
  | semsig (stop : Bool) (a : KReg) (n : Fin 16) (c : Fin 256)
  | semwait (stop : Bool) (a : KReg) (n : Fin 16) (c : Fin 256)
  | semtry (stop : Bool) (a b : KReg) (n : Fin 16) (c : Fin 256)
  | yield (stop : Bool)
  | spawn (stop : Bool) (a b : KReg)
  | spawng (stop : Bool) (a b : KReg)
  | done (stop : Bool)
  | joinw (stop : Bool) (a b : KReg) (bind : Bool)
  | timehint (stop : Bool) (a : KReg)
  | trap (stop : Bool) (c : Fin 256)
  | tret (stop : Bool)
  | tmask (stop : Bool)
  | tunmask (stop : Bool)
  | ckpt (stop : Bool)
  | timerset (stop : Bool) (a : KReg) (arm : Bool)
  | sleep (stop : Bool) (a : KReg)
  | halt (stop : Bool) (c : Fin 256)
  | govarm (stop : Bool) (a b : KReg)
  | govstep (stop : Bool) (a b : KReg)
  | govq (stop : Bool) (a b : KReg) (n : Fin 8)
  | winld (stop : Bool) (a b : KReg)
  | csld (stop : Bool) (a b : KReg)
  | ptinv (stop : Bool) (a : KReg) (n : InvSpan)
  -- slot 1, scalar engine (R177)
  | kmov (d a : KReg)
  | kmovi (d : KReg) (i : BitVec 20)
  | khi (d : KReg) (i : BitVec 20)
  | kadd (f : KWidth) (d a b : KReg)
  | kaddi (d a : KReg) (i : BitVec 14)
  | ksub (f : KWidth) (d a b : KReg)
  | kmul (f : KWidth) (d a b : KReg)
  | kmulh (d a b : KReg) (u : Bool)
  | kmad (f : KWidth) (d a b : KReg)
  | kdivs (d a b : KReg)
  | kand (d a b : KReg)
  | kor (d a b : KReg)
  | kxor (d a b : KReg)
  | knot (d a : KReg)
  | kshl (f : KWidth) (d a b : KReg)
  | kshr (f : KWidth) (d a b : KReg)
  | ksar (f : KWidth) (d a b : KReg)
  | krot (f : KWidth) (d a b : KReg)
  | kandImm (d a : KReg) (i : BitVec 14)
  | korImm (d a : KReg) (i : BitVec 14)
  | kxorImm (d a : KReg) (i : BitVec 14)
  | kshlImm (w : KWidth) (d a : KReg) (n : Fin 64)
  | kshrImm (w : KWidth) (d a : KReg) (n : Fin 64)
  | ksarImm (w : KWidth) (d a : KReg) (n : Fin 64)
  | krotImm (w : KWidth) (d a : KReg) (n : Fin 64)
  | kmin (f : KWidth) (d a b : KReg) (u : Bool)
  | kmax (f : KWidth) (d a b : KReg) (u : Bool)
  | kcmp (f : KWidth) (d a b : KReg) (x : KCond)
  | ksel (d a b x : KReg)
  | kpopc (f : KWidth) (d a : KReg)
  | kclz (f : KWidth) (d a : KReg)
  | kctz (f : KWidth) (d a : KReg)
  | kbfe (s : Bool) (d a : KReg) (pos len : Fin 64)
  | kbfi (d a : KReg) (pos len : Fin 64)
  | krfl (u : Bool) (d : KReg) (a : VReg)
  | krdl (u : Bool) (d : KReg) (a : VReg) (b : KReg)
  | krds (d : KReg) (sp : Fin 64)
  | kwrs (sp : Fin 64) (b : KReg)
  | pand (d a b : PReg) (na nb : Bool)
  | por (d a b : PReg) (na nb : Bool)
  | pxor (d a b : PReg) (na nb : Bool)
  | pnot (d a : PReg)
  | pmovk (d : PReg) (a : KReg)
  | kmovp (d : KReg) (a : PReg)
  -- slots 2 and 3, vector engine (R231)
  | vadd (t : IntType) (sat u : Bool) (p : LPred) (d a : VReg) (b : VK)
  | vsub (t : IntType) (sat u : Bool) (p : LPred) (d a : VReg) (b : VK)
  | vmul (t : IntType) (sat u : Bool) (p : LPred) (d a : VReg) (b : VK)
  | vmulh (t : IntType) (u : Bool) (p : LPred) (d a : VReg) (b : VK)
  | vmad (t : IntType) (sat u : Bool) (p : LPred) (d a : VReg) (b : VK)
  | vneg (t : SIntType) (sat : Bool) (p : LPred) (d a : VReg)
  | vabs (t : SIntType) (sat : Bool) (p : LPred) (d a : VReg)
  | vmin (t : IntType) (u : Bool) (p : LPred) (d a : VReg) (b : VK)
  | vmax (t : IntType) (u : Bool) (p : LPred) (d a : VReg) (b : VK)
  | vand (p : LPred) (d a : VReg) (b : VK)
  | vor (p : LPred) (d a : VReg) (b : VK)
  | vxor (p : LPred) (d a : VReg) (b : VK)
  | vnot (p : LPred) (d a : VReg)
  | vshl (t : IntType) (p : LPred) (d a : VReg) (b : VK)
  | vshr (t : IntType) (p : LPred) (d a : VReg) (b : VK)
  | vsar (t : IntType) (p : LPred) (d a : VReg) (b : VK)
  | vbfe (s : Bool) (p : LPred) (d a : VReg) (b : VK)
  | vbfi (p : LPred) (d a : VReg) (b : VK)
  | vpopc (t : IntType) (p : LPred) (d a : VReg)
  | vclz (t : IntType) (p : LPred) (d a : VReg)
  | vcmp (u : Bool) (c : ICond) (p : LPred) (d : PReg) (a : VReg) (b : VK)
  | vsel (p : LPred) (d a : VReg) (b : VK)
  | vmov (p : LPred) (d : VReg) (b : VK)
  | vmovAcc (p : LPred) (d : VReg) (hi : Bool) (a : AReg)
  | vmovi (m : MoviKind) (p : LPred) (d : VReg) (i : BitVec 13)
  | vfadd (t : FltType) (m : RM) (p : LPred) (d a : VReg) (b : VK)
  | vfsub (t : FltType) (m : RM) (p : LPred) (d a : VReg) (b : VK)
  | vfmul (t : FltType) (m : RM) (p : LPred) (d a : VReg) (b : VK)
  | vfma (t : FltType) (m : RM) (p : LPred) (d a : VReg) (b : VK)
  | vfms (t : FltType) (m : RM) (p : LPred) (d a : VReg) (b : VK)
  | vfmin (t : FltType) (p : LPred) (d a : VReg) (b : VK)
  | vfmax (t : FltType) (p : LPred) (d a : VReg) (b : VK)
  | vfcmp (c : FCond) (p : LPred) (d : PReg) (a : VReg) (b : VK)
  | vfrcp (t : FltType) (m : RM) (p : LPred) (d a : VReg)
  | vfrsq (t : FltType) (m : RM) (p : LPred) (d a : VReg)
  | vfdivs (t : FltType) (m : RM) (p : LPred) (d a : VReg) (b : VK)
  | vfexp2 (t : FltType) (m : RM) (p : LPred) (d a : VReg)
  | vflog2 (t : FltType) (m : RM) (p : LPred) (d a : VReg)
  | vfrnd (t : FltType) (m : RM) (p : LPred) (d a : VReg)
  | vfclass (t : FltType) (p : LPred) (d a : VReg)
  | vcvt (t : LaneType) (r : RMode) (s : LaneType) (p : LPred) (d a : VReg)
  | vcvtn (t : LaneType) (r : RMode) (s : LaneType) (g : Fin 4) (p : LPred) (d a : VReg)
  | vcvtw (t : LaneType) (r : RMode) (s : LaneType) (g : Fin 4) (p : LPred) (d a : VReg)
  | vcvtf (t : FltType) (r : RMode) (f : FReg) (src : Bool) (g : Fin 8) (p : LPred) (d a : VReg)
  | vqmx (t : QFmt) (s : Fin 4) (c : Fin 4) (d a : VReg) (sr : Bool) (x : VReg)
  | vdqmx (t : QFmt) (s : Fin 4) (c : Fin 4) (d a : VReg) (rtz : Bool) (x : VReg)
  | vshuf (p : LPred) (d a b : VReg)
  | vshufImm (k : ShufKind) (p : LPred) (d : VReg) (n : Fin 64)
  | vbcast (p : LPred) (d a : VReg) (b : KReg)
  | vbfly (p : LPred) (d a : VReg) (b : VK)
  | vred (t : RedType) (m : RM) (o : RedOp) (p : LPred) (d a : VReg)
  | vscan (t : RedType) (m : RM) (o : RedOp) (p : LPred) (d a : VReg)
  | vballot (hi : Bool) (p : LPred) (d : VReg) (a : PReg)
  | vvote (m : VoteKind) (p : LPred) (d : PReg) (a : PReg)
  | vactive (m : ActKind) (p : LPred) (d : VReg)
  | vftwos (p : LPred) (d a : VReg) (b : VK)
  | vftwop (p : LPred) (d a : VReg) (b : VK)
  -- slot 4, memory engine (R194, R398)
  | ld (w : MWidth) (h : Hint) (p : LPred) (d : VReg) (a : KReg) (b : VK)
  | st (w : SWidth) (h : SHint) (p : LPred) (d : VReg) (a : KReg) (b : VK)
  | ldu (w : MWidth) (h : Hint) (d a b : KReg)
  | stu (w : SWidth) (h : SHint) (d a b : KReg)
  | lda (w : AcqWidth) (sc : Scope) (d a b : KReg)
  | stl (d64 : Bool) (sc : Scope) (d a b : KReg)
  | ldt (h : Hint) (t : TReg) (a b : KReg)
  | stt (h : SHint) (t : TReg) (a b : KReg)
  | ldta (k : KReg) (h : Hint) (t : TReg) (a b : KReg)
  | stta (k : KReg) (h : SHint) (t : TReg) (a b : KReg)
  | spld (w : MWidth) (p : LPred) (d : VReg) (a : KReg) (b : VK)
  | spst (w : SWidth) (p : LPred) (d : VReg) (a : KReg) (b : VK)
  | spldt (t : TReg) (a b : KReg)
  | spstt (t : TReg) (a b : KReg)
  | atom (o : AtomOp) (w : AtomW) (p : LPred) (d : VReg) (a : KReg) (b : VK)
  | atomf (o : AtomFOp) (w : AtomFW) (p : LPred) (d : VReg) (a : KReg) (b : VK)
  | cas (w : CasW) (p : LPred) (d : VReg) (a : KReg) (b : VK)
  | atomu (o : AtomUOp) (w : AtomW) (d a b : KReg)
  | rwb (a b : KReg)
  | rinv (a b : KReg)
  | rflush (a b : KReg)
  | pref (w : PrefLevel) (p : LPred) (a : KReg) (b : VK)
  | fence (sc : Scope)
  | fencesc
  | nodest (d : VReg) (a b : KReg)
  | filldone (a : KReg)
  | fillfail (a b : KReg)
  | fillq (d a : KReg)
  | fillhint (w : FillHint) (a : KReg)
  | l1q (d : KReg)
  -- slot 5, matrix engine (R305)
  | mpush (r : SReg) (m : MIdx)
  | mpushTile (r : SReg) (t : TReg) (m : MIdx)
  | mshift (n : Fin 128)
  | macc (m : MIdx)
  | mdrain (a : AReg) (keep : Bool) (m : MIdx)
  | mlds (skip : Bool) (r : SReg) (m : MIdx)
  | mldsTile (skip : Bool) (r : SReg) (t : TReg) (m : MIdx)
  | mswap
  | mopImm (e w x : Fin 16) (f : FReg) (ws xs : Bool)
  | mopReg (k : KReg)
  | mclr
  | mstat (k : KReg)
  | mwait
  | mrda (a : AReg) (t : TReg) (n : Fin 16)
  | mwra (a : AReg) (t : TReg) (p : Bool) (n : Fin 16) (m : Fin 128)
  | mfreeze (off : Bool)
  | mscan (inp : Bool) (k : KReg)
  -- slot 6 of a tensor tile, stream engine (R278)
  | sbind (s : SReg) (a : KReg) (e : Fin 7) (wrap : Bool) (wr : Bool)
  | spat (s : SReg) (a b : KReg) (n : Fin 4)
  | spatRing (a b : KReg)
  | srst (s : SReg) (stopStream : Bool)
  | sstat (s : SReg) (a : KReg)
  | sdrain (s : SReg)
  | speek (s : SReg) (t : TReg) (n : Fin 32)
  | mcast (t : TReg) (a b : KReg)
  | mcastSp (a b : KReg)
  | mcsem (a : KReg) (n : Fin 16)
  | gtake (a : KReg)
  | grls
  -- slot 6 of a shading core, scene engine (R355)
  | pemit (hi : Bool) (p : LPred) (a : VReg)
  | vemit (m : EmitKind) (p : LPred) (a : VReg)
  | mend
  | rkick (b : KReg)
  | zqry (m : ZKind) (p : LPred) (d : VReg)
  | depw (m : DepDir) (p : LPred) (a : VReg)
  | kill (p : LPred)
  | interp (flat : Bool) (n : Fin 16) (p : LPred) (d : VReg)
  | tex (l : Bool) (p : LPred) (d a : VReg) (b : KReg)
  | texl (l : Bool) (p : LPred) (d a : VReg) (b : KReg)
  | texg (c : Fin 4) (l : Bool) (p : LPred) (d a : VReg) (b : KReg)
  | texq (p : LPred) (d a : VReg) (b : KReg)
  | trace (m : TraceMode) (p : LPred) (d a : VReg) (b : KReg)
  | tqry (p : LPred) (d : VReg)
  | tacc (p : LPred) (d a : VReg) (b : KReg)
  | gexp (p : LPred) (a b : VReg)
  | gflush (b : KReg)
  | gbind (b : KReg)
  -- slot 7, transform engine (R338)
  | xmov (u : XUnit) (p : XPort) (a : KReg)
  | xmovt (u : XUnit) (p : XBindPort) (b : XBind)
  | xget (u : XUnit) (d : KReg)
  | xgets (u : XUnit) (d : KReg)
  | xcfg (u : XUnit) (a : KReg)
  | xstat (u : XUnit) (d : KReg)
  | xwait (u : XUnit)
  | xrst (u : XUnit)
  -- events of the engines of a core
  | transformComplete (grp : Nat) (u : XUnit)
  | matrixRetire (grp : Nat)
  | tileTransferComplete (grp idx : Nat)
  | reply (idx : Nat)
  | transferUnit (grp : Nat) (s : SReg)
  | multicastLand (idx : Nat)
  | mcsemIncrement (idx : Nat)
  | guideDelivery (die dest : Nat)
  | guidePortPlace (die : Nat)
  | creditIncrement (idx : Nat)
  | stagingReplay (grp split : Nat)
  | meshletRaster (die : Nat)
  | fragmentGroupStart (die : Nat)
  | fragmentResolve (die idx : Nat)
  | donecntIncrement (idx : Nat)
  | intersectionRun (grp split : Nat)
  -- events of the scheduler
  | queueWindowWrite (q off : Nat) (data : List Byte)
  | recordCheck (q : Nat)
  | dispatch
  | gangRetire (gang : Nat)
  | joinDecrement (idx : Nat)
  | continuationPush (idx : Nat)
  | quantumEnd (gang : Nat)
  | priorityTrigger
  | drainLimit (gang : Nat)
  | checkpoint (gang : Nat)
  | restore (gang : Nat)
  | recordReappend (idx : Nat)
  | handlerBudget (grp split : Nat)
  | orderedCommit (grp : Nat)
  | timerTrap (grp : Nat)
  | sleepWake (grp split : Nat)
  | semwaitRetry (grp split : Nat)
  -- events of memory, translation and fills
  | pulsarTick (die : Nat)
  | parkedReplay (grp split : Nat)
  | parkedRetryPeriod (grp split : Nat)
  | copyOnWrite (ctx va : Nat)
  | migration (idx : Nat)
  | thrashPinEnd (region : Nat)
  | fillStart (range block : Nat)
  | mergeStep (line : Nat)
  | cacheEviction (what : EvictWhat) (unit addr len : Nat)
  | scrub (w : SoftWhere) (unit addr : Nat)
  | flitRetransmit (src dst pa : Nat)
  | errorRingWrite
  -- events of the host interface
  | msixMessage (vector : Nat)
  | commandWindowWrite (win off : Nat) (data : List Byte)
  | build (win : Nat)
  | destroy (win : Nat)
  | seal (win : Nat)
  | registerWrite (win : Nat)
  | plainRegisterWrite (off value size : Nat)
  | catalogueLoad (win : Nat)
  | translationUpdate (win : Nat)
  /-- Without `job`, the window's next command starts as a copy; else its copy of that position moves one line (R426). -/
  | copy (win : Nat) (job : Option Nat)
  | attest (win : Nat)
  | quantum (value : Nat)
  | frame64 (q value : Nat)
  | frame2m (q value : Nat)
  | rframe (q : Nat)
  | rtcount (value : Nat)
  | rangeLoad (idx : Nat)
  | rangeRemove (idx : Nat)
  | resync (link mask : Nat)
  | hostRead (pa n : Nat)
  | hostWrite (pa : Nat) (data : List Byte)
  | unlistedAccess (off : Nat) (write : Bool)
  -- events of the links
  | linkFrame (link channel fmt : Nat) (coded : Bool) (seq pa : Nat) (body : List Byte)
  | linkAck (link seq : Nat) (refused : Bool)
  | resyncFrame (link mask : Nat)
  | linkRetrain (link : Nat)
  -- events of the platform
  | reset
  | powerLimit (die : Nat)
  | thermalTrip
  | managementRead (item : MgmtItem)
  | managementReset
  | sealCompletion (idx : Nat)
  | remoteWriteApply (die idx : Nat)
  | softError (w : SoftWhere) (unit addr : Nat) (bits : Nat)
  | idleIssueEnd (die : Nat)
  | linkDown (link : Nat)
  | msixTableWrite (off : Nat) (data : List Byte)
  | hostAtomicop (op : HostAtomOp) (wide : Bool) (pa x y : Nat)
  deriving DecidableEq, Repr

end Sys2Proof
end

