-- ==== Sys2Proof/Machine/Numbers.lean ====
section
/-!
DEFINITION. Numbers (R79 to R102): formats, exact values, the five rounding modes, IEEE arithmetic with one rounding, the exact
elementary functions of R242, the conversions of R247, and MX blocks (R94 to R97).
-/
namespace Sys2Proof.Machine

/-- The value of a float code: NaN, an infinity, or (-1)^neg × m × 2^e with zeros signed. -/
inductive Val
  | nan
  | inf (neg : Bool)
  | fin (neg : Bool) (m : Nat) (e : Int)
  deriving DecidableEq, Repr

/-- Codes that are not finite (R81, R84, R87). -/
inductive NanP | none | ieee | maxcode
  deriving DecidableEq, Repr

/-- What a magnitude above the largest finite one gives: R90, R86, or R88 with its SAT bit. -/
inductive Ovf | std | narrow | prog (sat : Bool)
  deriving DecidableEq, Repr

/-- A float format: sign bit, exponent and mantissa widths, bias (R81, R84, R87). -/
structure Fmt where
  sg : Bool
  e : Nat
  m : Nat
  bias : Int
  nanp : NanP
  ovf : Ovf
  deriving DecidableEq, Repr

def f32 : Fmt := ⟨true, 8, 23, 127, .ieee, .std⟩
def f16 : Fmt := ⟨true, 5, 10, 15, .ieee, .std⟩
def bf16 : Fmt := ⟨true, 8, 7, 127, .ieee, .std⟩
def e4m3 : Fmt := ⟨true, 4, 3, 7, .maxcode, .narrow⟩
def e5m2 : Fmt := ⟨true, 5, 2, 15, .ieee, .narrow⟩
def e2m3 : Fmt := ⟨true, 2, 3, 1, .none, .narrow⟩
def e3m2 : Fmt := ⟨true, 3, 2, 3, .none, .narrow⟩
def e2m1 : Fmt := ⟨true, 2, 1, 1, .none, .narrow⟩

/-- The format of a record of R65. -/
def fmtOfRecord (r : Nat) : Fmt :=
  { sg := bitOf r 23, e := fld r 28 4, m := fld r 24 4, bias := signedOf 8 r,
    nanp := (match fld r 21 2 with | 1 => .ieee | 2 => .maxcode | _ => .none), ovf := .prog (bitOf r 20) }

/-- Width of a record's class: 4, 6 or 8 bits, none when unused (R65). -/
def recordWidth (r : Nat) : Option Nat := match fld r 16 2 with | 0 => some 4 | 1 => some 6 | 2 => some 8 | _ => none

namespace Fmt

def width (f : Fmt) : Nat := bit f.sg + f.e + f.m
/-- The highest finite magnitude code. -/
def maxCode (f : Fmt) : Nat :=
  match f.nanp with
  | .none => 2 ^ (f.e + f.m) - 1
  | .ieee => (2 ^ f.e - 1) * 2 ^ f.m - 1
  | .maxcode => 2 ^ (f.e + f.m) - 2
/-- The exponent of the least quantum. -/
def qmin (f : Fmt) : Int := 1 - f.bias - f.m
/-- Whether the format has a NaN code. -/
def hasNan (f : Fmt) : Bool := match f.nanp with | .none => false | .ieee => f.m != 0 | .maxcode => true
/-- The canonical NaN, or code 0 when the format has none (R82, R86, R88). -/
def nanCode (f : Fmt) : Nat :=
  if f.hasNan then (match f.nanp with | .ieee => (2 ^ f.e - 1) * 2 ^ f.m + 2 ^ (f.m - 1) | _ => 2 ^ (f.e + f.m) - 1) else 0
def signBit (f : Fmt) (neg : Bool) : Nat := if neg && f.sg then 2 ^ (f.e + f.m) else 0
def infCode (f : Fmt) (neg : Bool) : Nat := f.signBit neg + (2 ^ f.e - 1) * 2 ^ f.m
def maxOf (f : Fmt) (neg : Bool) : Nat := f.signBit neg + f.maxCode

/-- The value of a code. -/
def decode (f : Fmt) (c : Nat) : Val :=
  let mag := c % 2 ^ (f.e + f.m)
  let neg := f.sg && bitOf c (f.e + f.m)
  let ef := mag / 2 ^ f.m
  let mf := mag % 2 ^ f.m
  if f.nanp = .ieee ∧ ef = 2 ^ f.e - 1 then (if mf = 0 then .inf neg else .nan)
  else if f.nanp = .maxcode ∧ mag = 2 ^ (f.e + f.m) - 1 then .nan
  else if ef = 0 then .fin neg mf f.qmin
  else .fin neg (2 ^ f.m + mf) (f.qmin + (ef - 1 : Nat))

/-- Whether a code is subnormal: exponent field 0, mantissa not 0. -/
def isSub (f : Fmt) (c : Nat) : Bool := let mag := c % 2 ^ (f.e + f.m); mag / 2 ^ f.m == 0 && mag != 0

end Fmt

/-- A rounding mode of R89; `sr` carries the 24-bit draw. -/
inductive Rnd | det (r : RM) | sr (draw : Nat)
  deriving DecidableEq, Repr

/-- Whether the magnitude n + rem/2^s (0 < s) goes up to n + 1 (R89, R91). -/
def roundsUp (m : Rnd) (neg : Bool) (n rem s : Nat) : Bool :=
  match m with
  | .det .rne => decide (2 ^ (s - 1) < rem) || (rem == 2 ^ (s - 1) && n % 2 == 1)
  | .det .rtz => false
  | .det .rdn => neg && rem != 0
  | .det .rup => !neg && rem != 0
  | .sr d => rem != 0 && decide (d < rem * 2 ^ 24 / 2 ^ s)

/-- m × 2^e rounded to a multiple of 2^q: the multiple. -/
def roundAt (mo : Rnd) (neg : Bool) (m : Nat) (e q : Int) : Nat :=
  if q ≤ e then m * 2 ^ (e - q).toNat
  else
    let s := (q - e).toNat
    let n := m / 2 ^ s
    if roundsUp mo neg n (m % 2 ^ s) s then n + 1 else n

/-- The magnitude code of m × 2^e in a format whose exponents have no upper bound. -/
def roundMag (f : Fmt) (mo : Rnd) (neg : Bool) (m : Nat) (e : Int) : Nat :=
  if m = 0 then 0
  else
    let q := max ((Nat.log2 m : Int) + e - f.m) f.qmin
    (q - f.qmin).toNat * 2 ^ f.m + roundAt mo neg m e q

/-- Whether R90 gives an infinity for the mode and sign. -/
def ovfToInf (mo : Rnd) (neg : Bool) : Bool :=
  match mo with
  | .det .rne => true | .sr _ => true | .det .rtz => false | .det .rdn => neg | .det .rup => !neg

/-- The code of a finite magnitude above the largest finite one (R86, R88, R90). -/
def overflow (f : Fmt) (mo : Rnd) (neg : Bool) : Nat :=
  match f.ovf with
  | .narrow => f.maxOf neg
  | .prog true => f.maxOf neg
  | .std => if ovfToInf mo neg then f.infCode neg else f.maxOf neg
  | .prog false =>
    if ovfToInf mo neg then (if f.nanp = .ieee then f.infCode neg else f.nanCode) else f.maxOf neg

/-- What a negative value gives in a format without a sign bit (R88). -/
def negUnsigned (f : Fmt) : Nat := match f.ovf with | .prog false => f.nanCode | _ => 0

/-- `Round(x, mode)` into a format (R86, R88, R90). -/
def encode (f : Fmt) (mo : Rnd) (v : Val) : Nat :=
  match v with
  | .nan => f.nanCode
  | .inf neg =>
    if neg && !f.sg then negUnsigned f
    else match f.ovf with
      | .std => f.infCode neg
      | .narrow => if f.nanp = .ieee then f.infCode neg else f.maxOf neg
      | .prog true => f.maxOf neg
      | .prog false => if f.nanp = .ieee then f.infCode neg else f.nanCode
  | .fin neg m e =>
    let c := roundMag f mo neg m e
    if neg && !f.sg then (if c = 0 then 0 else negUnsigned f)
    else if f.maxCode < c then overflow f mo neg
    else f.signBit neg + c

/-- Round as `encode`, but saturate every finite overflow (R97). -/
def encodeSat (f : Fmt) (mo : Rnd) (v : Val) : Nat :=
  match v with
  | .fin neg m e =>
    let c := roundMag f mo neg m e
    if f.maxCode < c ∧ ¬(neg = true ∧ f.sg = false) then f.maxOf neg else encode f mo v
  | _ => encode f mo v

-- ## Exact arithmetic on values (R240, R241)

namespace Val

def neg : Val → Val
  | .nan => .nan | .inf s => .inf (!s) | .fin s m e => .fin (!s) m e

/-- The signed mantissa at exponent `q`, where q ≤ e. -/
def mantAt (s : Bool) (m : Nat) (e q : Int) : Int :=
  let x : Int := (m * 2 ^ (e - q).toNat : Nat)
  if s then -x else x

/-- Exact sum; an exact zero is +0, or -0 under RDN, but equal signed zeros keep their sign (R82). -/
def add (rdn : Bool) (a b : Val) : Val :=
  match a, b with
  | .nan, _ => .nan
  | _, .nan => .nan
  | .inf s, .inf t => if s = t then .inf s else .nan
  | .inf s, .fin _ _ _ => .inf s
  | .fin _ _ _, .inf t => .inf t
  | .fin s m e, .fin t n f =>
    let q := min e f
    let x := mantAt s m e q + mantAt t n f q
    if x = 0 then .fin (if m = 0 ∧ n = 0 ∧ s = t then s else rdn) 0 q
    else .fin (decide (x < 0)) x.natAbs q

def mul (a b : Val) : Val :=
  match a, b with
  | .nan, _ => .nan
  | _, .nan => .nan
  | .inf s, .inf t => .inf (s != t)
  | .inf s, .fin t n _ => if n = 0 then .nan else .inf (s != t)
  | .fin s m _, .inf t => if m = 0 then .nan else .inf (s != t)
  | .fin s m e, .fin t n f => .fin (s != t) (m * n) (e + f)

/-- Extra quotient bits: enough for every format's rounding, with a sticky bit below them. -/
def divBits : Nat := 64

/-- Quotient, as a truncated mantissa with a sticky last bit (R240's table). -/
def div (a b : Val) : Val :=
  match a, b with
  | .nan, _ => .nan
  | _, .nan => .nan
  | .inf _, .inf _ => .nan
  | .inf s, .fin t _ _ => .inf (s != t)
  | .fin s _ _, .inf t => .fin (s != t) 0 0
  | .fin s m e, .fin t n f =>
    if n = 0 then (if m = 0 then .nan else .inf (s != t))
    else
      let k := divBits + Nat.log2 n
      let x := m * 2 ^ k
      .fin (s != t) (2 * (x / n) + bit (x % n != 0)) (e - f - k - 1)

/-- a < b on numbers, with -0 below +0 when `signedZero`. -/
def lt (signedZero : Bool) (a b : Val) : Bool :=
  match a, b with
  | .nan, _ => false
  | _, .nan => false
  | .inf s, .inf t => s && !t
  | .inf s, .fin _ _ _ => s
  | .fin _ _ _, .inf t => !t
  | .fin s m e, .fin t n f =>
    let q := min e f
    let x := mantAt s m e q
    let y := mantAt t n f q
    decide (x < y) || (signedZero && x == 0 && y == 0 && s && !t)

/-- The lesser or greater of two codes, NaN giving way to a number (R241). -/
def minCode (f : Fmt) (a b : Nat) : Nat :=
  match f.decode a, f.decode b with
  | .nan, .nan => f.nanCode
  | .nan, _ => b
  | _, .nan => a
  | x, y => if y.lt true x then b else a
def maxCode (f : Fmt) (a b : Nat) : Nat :=
  match f.decode a, f.decode b with
  | .nan, .nan => f.nanCode
  | .nan, _ => b
  | _, .nan => a
  | x, y => if x.lt true y then b else a

end Val

-- ## Elementary functions (R242): truncated mantissas with a sticky last bit

/-- ⌊√n⌋ by bits, from bit `k - 1` down. -/
def isqrtFrom (n : Nat) : Nat → Nat → Nat
  | 0, r => r
  | k + 1, r => let r' := r + 2 ^ k; isqrtFrom n k (if r' * r' ≤ n then r' else r)
def isqrt (n : Nat) : Nat := isqrtFrom n (Nat.log2 n / 2 + 1) 0

/-- 1/√(m × 2^e) for m > 0. -/
def rsqrtVal (m : Nat) (e : Int) : Val :=
  let odd := e % 2 ≠ 0
  let m' := if odd then 2 * m else m
  let e' := if odd then e - 1 else e
  let k := 96 + Nat.log2 m'
  let r := isqrt (2 ^ (2 * k) / m')
  .fin false (2 * r + bit (r * r * m' != 2 ^ (2 * k))) (-(e' / 2) - k - 1)

/-- Fixed-point fraction bits of the series below: every F32, F16 and BF16 result lies further from a rounding boundary than their
error. -/
def serBits : Nat := 320
def one : Nat := 2 ^ serBits

/-- ln 2 in fixed point, from below: the sum of 1/(k·2^k). -/
def ln2 : Nat := (List.range serBits).foldl (fun a i => a + one / ((i + 1) * 2 ^ (i + 1))) 0

/-- e^x for a fixed-point x below 1, from below. -/
def expSer (x : Nat) : Nat :=
  ((List.range 90).foldl (fun (p : Nat × Nat) i => let t := p.2 * x / ((i + 1) * one); (p.1 + t, t)) (one, one)).1

/-- ln y for a fixed-point y from 1 to below 2: 2·atanh((y - 1)/(y + 1)). -/
def lnSer (y : Nat) : Nat :=
  let z := (y - one) * one / (y + one)
  let z2 := z * z / one
  2 * ((List.range 110).foldl (fun (p : Nat × Nat) i => (p.1 + p.2 / (2 * i + 1), p.2 * z2 / one)) (0, z)).1

/-- 2^(m × 2^e), the exponent's magnitude bounded so that the result is a number or a sure overflow or underflow. -/
def exp2Val (neg : Bool) (m : Nat) (e : Int) : Val :=
  if m = 0 then .fin false 1 0
  else if 12 ≤ (Nat.log2 m : Int) + e then (if neg then .fin false 1 (-4096) else .fin false 1 4096)
  else if 0 ≤ e then
    let n : Int := (m * 2 ^ e.toNat : Nat)
    .fin false 1 (if neg then -n else n)
  else
    let s := (-e).toNat
    let q : Int := (m / 2 ^ s : Nat)
    let r := m % 2 ^ s
    if r = 0 then .fin false 1 (if neg then -q else q)
    else
      -- fraction in (0, 1), floored integer part
      let fl : Int := if neg then -q - 1 else q
      let num := if neg then 2 ^ s - r else r
      let x := num * ln2 / 2 ^ s
      .fin false (2 * expSer x + 1) (fl - serBits - 1)

/-- log2 (m × 2^e) for m > 0. -/
def log2Val (m : Nat) (e : Int) : Val :=
  let l := Nat.log2 m
  let n : Int := l + e
  if m = 2 ^ l then .fin (decide (n < 0)) n.natAbs 0
  else
    let y := m * one / 2 ^ l
    let x : Int := n * (one : Int) + ((lnSer y * one / ln2 : Nat) : Int)
    .fin (decide (x < 0)) (2 * x.natAbs + 1) (-(serBits : Int) - 1)

/-- VFRCP, VFRSQ, VFEXP2 and VFLOG2 on values (R242). -/
def rcpVal (v : Val) : Val := Val.div (.fin false 1 0) v
def rsqVal : Val → Val
  | .nan => .nan
  | .inf true => .nan
  | .inf false => .fin false 0 0
  | .fin neg m e => if m = 0 then .inf neg else if neg then .nan else rsqrtVal m e
def exp2Of : Val → Val
  | .nan => .nan
  | .inf true => .fin false 0 0
  | .inf false => .inf false
  | .fin neg m e => exp2Val neg m e
def log2Of : Val → Val
  | .nan => .nan
  | .inf true => .nan
  | .inf false => .inf false
  | .fin neg m e => if m = 0 then .inf true else if neg then .nan else log2Val m e

/-- VFRSQ of -0 gives -Inf (R242's table); VFRCP of ±0 gives Inf of its sign through the quotient. VFRND (R243): an integral value
in mode `mo`, a zero keeping the sign. -/
def rndVal (mo : Rnd) : Val → Val
  | .fin neg m e => if 0 ≤ e then .fin neg m e else .fin neg (roundAt mo neg m e 0) 0
  | v => v

/-- VFCLASS (R243). -/
def classOf (f : Fmt) (c : Nat) : Nat :=
  match f.decode c with
  | .nan => 256
  | .inf true => 1
  | .inf false => 128
  | .fin neg m _ =>
    if m = 0 then (if neg then 8 else 16)
    else if f.isSub c then (if neg then 4 else 32)
    else if neg then 2 else 64

-- ## Integers and conversions (R80, R247)

/-- Clamp into `w` bits (R80). -/
def clampInt (w : Nat) (signed : Bool) (x : Int) : Int :=
  if signed then max (-(2 ^ (w - 1) : Int)) (min (2 ^ (w - 1) - 1 : Int) x) else max 0 (min (2 ^ w - 1 : Int) x)

/-- Float to integer (R80). -/
def toInt (w : Nat) (signed : Bool) (mo : Rnd) : Val → Int
  | .nan => 0
  | .inf neg => clampInt w signed (if neg then -(2 ^ 80) else 2 ^ 80)
  | .fin neg m e =>
    let n : Int := (if 96 ≤ (Nat.log2 m : Int) + e ∧ m ≠ 0 then 2 ^ 96 else roundAt mo neg m e 0 : Nat)
    clampInt w signed (if neg then -n else n)

/-- An integer as a value. -/
def ofInt (x : Int) : Val := .fin (decide (x < 0)) x.natAbs 0

-- ## Stochastic rounding (R91, R92)

/-- One step of a lane's LFSR. -/
def lfsrStep (s : W32) : W32 := if s.getLsbD 0 then (s >>> 1) ^^^ 0x80200003#32 else s >>> 1
/-- The draw of a state: its bits [31:8]. -/
def lfsrDraw (s : W32) : Nat := s.toNat / 256

/-- n steps of the LFSR. -/
def lfsrSteps : Nat → W32 → W32
  | 0, s => s
  | n + 1, s => lfsrSteps n (lfsrStep s)

/-- The seed of lane `l` of group `g` of gang index `G` under base `b` (R92). -/
def seedLane (b G g l : Nat) : W32 :=
  let h : W32 := BitVec.ofNat 32 (fld b 0 32 ^^^ fld b 32 32 ^^^ (G * 0x9E3779B9 % 2 ^ 32) ^^^ (g * 2 ^ 16 % 2 ^ 32) ^^^ l)
  lfsrSteps 32 (if h = 0 then 1#32 else h)

-- ## MX blocks (R94 to R97)

/-- The factor of an E8M0 code. -/
def scaleVal (c : Nat) : Val := if c = 0xFF then .nan else .fin false 1 ((c : Int) - 127)

/-- R96: an element under a scale, rounded once. -/
def mxDecode (elem dst : Fmt) (mo : Rnd) (code scale : Nat) : Nat :=
  if scale = 0xFF then dst.nanCode
  else match elem.decode code with
    | .fin neg m e => encode dst mo (.fin neg m (e + scale - 127))
    | v => encode dst mo v

/-- ⌊log2⌋ of a non-zero finite magnitude. -/
def floorLog2 (m : Nat) (e : Int) : Int := (Nat.log2 m : Int) + e

/-- The exponent of the largest finite code (R84, R87). -/
def Fmt.emax (f : Fmt) : Int :=
  match f.decode f.maxCode with | .fin _ m e => if m = 0 then 0 else floorLog2 m e | _ => 0

def isNumber : Val → Bool
  | .fin _ _ _ => true
  | _ => false

/-- The greater of two magnitudes (mantissa, exponent). -/
def maxMag (a b : Nat × Int) : Nat × Int :=
  let q := min a.2 b.2
  if a.1 * 2 ^ (a.2 - q).toNat < b.1 * 2 ^ (b.2 - q).toNat then b else a

/-- R97: the scale code of a block, and the power of two by which its elements are multiplied; none when an element is no
number. -/
def mxScale (elem : Fmt) (xs : List Val) : Option (Nat × Int) :=
  if xs.all isNumber then
    let a := xs.foldl (fun a v => match v with | .fin _ m e => maxMag a (m, e) | _ => a) (0, 0)
    if a.1 = 0 then some (0x7F, 0)
    else
      let e := floorLog2 a.1 a.2 - elem.emax
      if e < -127 then some (0, 127) else some ((e + 127).toNat, -e)
  else none

/-- One element of a block (R97). -/
def mxElem (elem : Fmt) (mo : Rnd) (sc : Option (Nat × Int)) (v : Val) : Nat :=
  match sc, v with
  | some (_, k), .fin neg m e => encodeSat elem mo (.fin neg m (e + k))
  | _, _ => 0

def mxScaleCode (sc : Option (Nat × Int)) : Nat := match sc with | some (c, _) => c | none => 0xFF

end Sys2Proof.Machine
end

