-- ==== Sys2Proof/Machine/Flags.lean ====
section
/-!
DEFINITION. Conditions: what the compares, selects, branches and votes decide (R149, R181, R237, R254). Farou has no flag
register; a comparison writes a p or k register.
-/
namespace Sys2Proof.Machine

/-- KCMP on two numbers of `n` bits (R181). -/
def kcond (c : KCond) (n a b : Nat) : Bool :=
  let x := a % 2 ^ n
  let y := b % 2 ^ n
  match c with
  | .eq => x == y
  | .ne => x != y
  | .lt => decide (signedOf n x < signedOf n y)
  | .ge => decide (signedOf n y ≤ signedOf n x)
  | .le => decide (signedOf n x ≤ signedOf n y)
  | .gt => decide (signedOf n y < signedOf n x)
  | .ltu => decide (x < y)
  | .geu => decide (y ≤ x)
  | .leu => decide (x ≤ y)
  | .gtu => decide (y < x)

/-- VCMP on two lanes (R237). -/
def icond (c : ICond) (u : Bool) (a b : W32) : Bool :=
  let lt := fun (x y : W32) => if u then decide (x.toNat < y.toNat) else decide (x.toInt < y.toInt)
  match c with
  | .eq => a == b
  | .ne => a != b
  | .lt => lt a b
  | .le => !lt b a
  | .gt => lt b a
  | .ge => !lt a b

/-- VFCMP on two F32 codes (R237): −0 equals +0, and every compare with a NaN is false but .NE and .UN. -/
def fcond (c : FCond) (a b : Nat) : Bool :=
  let x := f32.decode a
  let y := f32.decode b
  let un := x == .nan || y == .nan
  let lt := Val.lt false x y
  let gt := Val.lt false y x
  match c with
  | .eq => !un && !lt && !gt
  | .ne => un || lt || gt
  | .lt => lt
  | .le => !un && !gt
  | .gt => gt
  | .ge => !un && !lt
  | .un => un
  | .ord => !un

/-- BRC over a split's mask (R149): `lanes` are the mask's lanes whose predicate bit is 1. -/
def brcond (c : BrCond) (mask lanes : Nat) : Bool :=
  match c with
  | .any => lanes != 0
  | .all => lanes == mask
  | .none => lanes == 0

/-- VVOTE (R254): `act` the lanes that vote, `on` those whose operand bit is 1. -/
def votes (m : VoteKind) (act on : Nat) : Bool :=
  match m with
  | .any => on != 0
  | .all => on == act
  | .uni => on == act || on == 0

end Sys2Proof.Machine
end

