-- ==== Sys2Proof/Config.lean ====
section
/-!
DEFINITION. What the spec leaves to each part or implementation: opaque constants, of which nothing in Lean can evaluate or
prove a value. Each is named in the assumption log.
-/
namespace Sys2Proof.Config

/-- A value the spec leaves open, fresh for each value of the state's counter (log entry 10). -/
opaque freeValue : Nat → BitVec 64
/-- The part's fused device public key hash and the other fused values of R435, by word (log entry 11). -/
opaque fused : Nat → BitVec 64
/-- Whether the boot checks of R443 pass for a given boot number: fuses, self-test, firmware signature (log entry 11). -/
opaque bootPasses : Nat → Bool
/-- Ed25519 verification of a message under a public key (R436, R437), the bytes as little-endian naturals (log entry 12). -/
opaque verifies : Nat → Nat → Nat → Bool
/-- The Ed25519 signature of a message by the device key (R439) (log entry 12). -/
opaque signature : Nat → BitVec 512
end Sys2Proof.Config
end

