-- ==== Sys2Proof/Machine/State.lean ====
section
/-!
DEFINITION. The state of the package as plain data: everything the spec gives the machine, and the model's own fields (the
turn list, the issuing context, the counters), which say which agent acts next. Each field names the rule that gives it.
-/
namespace Sys2Proof.Machine

/-- A fault: the model stops. -/
inductive Fault
  /-- Raised by `step`, by no instruction, when a bundle of a sealed page holds a word that no sealing accepts: R58 and R72
  reject such a word before a core can fetch it, and the spec gives it no effect; safe. -/
  | unsealableWord (slot word : Nat)
  deriving DecidableEq, Repr

/-- A refusal: no meaning. -/
inductive Refusal
  /-- Raised by an arm of `exec` that has no meaning yet; safe. -/
  | notModelled (mnemonic : String)
  deriving DecidableEq, Repr

/-- Trap classes (R162). -/
inductive TrapClass
  | unsealed | window | decode | fill | recurse | mop | machineCheck | align | perm | page | software | timer | illegal
  deriving DecidableEq, Repr

/-- A register of a group, as the scoreboard and R54 name it. -/
inductive RegId
  | k (n : Nat) | v (n : Nat) | p (n : Nat) | t (n : Nat) | a (n : Nat) | s (n : Nat) | f (n : Nat)
  deriving DecidableEq, Repr

/-- One checked word of a register (R24, R25): the unit of a poison mark. -/
inductive RegWord
  | k (n : Nat) | v (n lane : Nat) | t (n word : Nat) | a (n word : Nat)
  deriving DecidableEq, Repr

/-- The registers of a group that the checkpoint image of R135 holds, but for its PC. Lane l of vn is key 64n + l. -/
structure Regs where
  /-- k0 to k63 (R61, R173). -/
  k : Sparse W64
  /-- v0 to v63 by lane (R61, R226). -/
  v : Sparse W32
  /-- p1 to p15, bit l for lane l; p0 is not stored (R186). -/
  p : Sparse W64
  /-- t0 to t31, whole registers as bytes; unlisted is all zeros (R61, R207). -/
  t : Sparse (List Byte)
  /-- f0 to f3 (R61, R87). -/
  f : Sparse W32
  /-- a0 to a15, word j of aN at 128N + j (R61, R302). -/
  acc : Filled W32
  /-- LFSR state of each lane (R91, R92). -/
  lfsr : Sparse W32
  /-- %srseed (R92). -/
  srseed : W64
  /-- FZ16 of %nmode (R83). -/
  fz16 : Bool
  /-- Timer compare (R160). -/
  tcmp : W64
  /-- Timer armed (R160). -/
  arm : Bool
  deriving DecidableEq, Repr

/-- An atomic operation with its captured operands (R213 to R216). -/
inductive AtomReq
  | int (o : AtomOp) (w : AtomW) (x : Nat)
  | flt (o : AtomFOp) (w : AtomFW) (x : Nat)
  | cas (wide : Bool) (cmp new : Nat)
  deriving DecidableEq, Repr

/-- Where the value of a load or atomic goes. -/
inductive LoadDst
  | none
  /-- Lane of vD, or of the pair vD, vD+1 when `wide`; `sx` sign-extends from the access size. -/
  | lane (d lane : Nat) (wide sx : Bool)
  | kreg (d : Nat) (sx : Bool)
  /-- 64-byte line n of a tile register: row n/2 (R207). -/
  | row (t n : Nat)
  deriving DecidableEq, Repr

/-- What one lane, row or uniform access does. -/
inductive AccOp
  | load (n : Nat) (hint : Hint) (dst : LoadDst)
  /-- `stl` is the scope of an STL. -/
  | store (data : List Byte) (poison : Bool) (na : Bool) (stl : Option Scope)
  | atomic (r : AtomReq) (dst : LoadDst)
  deriving DecidableEq, Repr

/-- One access with its captured address and data (R198). -/
structure Access where
  lane : Nat
  va : Nat
  op : AccOp
  deriving DecidableEq, Repr

/-- Why a requester is parked (R261, R263, R392). -/
inductive ParkWhy
  | notResident | cow | migrating
  /-- A procedural block: range slot and block number (R391). -/
  | block (range blk : Nat)
  /-- A GEXP that waits for staging tiles (R383). -/
  | staging
  deriving DecidableEq, Repr

/-- The replay buffer of a parked split (R134, R198, R209). -/
structure Replay where
  /-- The bundle and slot of the parked instruction. -/
  pc : Nat
  slot : Nat
  /-- The unfinished accesses, at their captured addresses. -/
  todo : List Access
  /-- A collective tile load: its register and the completed rows (REPLAYT). -/
  tile : Option Nat
  rows : List (LoadDst × List Byte × List Nat)
  /-- The page (or block) each parked access waits for, with the reason. -/
  why : List (Nat × ParkWhy)
  /-- When the split parked (R263). -/
  since : Nat
  /-- The scene instruction parked here, if it is one. -/
  instr : Option Instr
  /-- An event of R263 has called for a retry. -/
  woken : Bool
  deriving DecidableEq, Repr

/-- What a split waits for while it is parked (R121, R154, R161, R198). -/
inductive Wait
  | mem (r : Replay)
  /-- SEMWAIT on the word at this physical address, parked at this cycle; `ready` once a retry may issue (R154). -/
  | sem (pa since : Nat) (ready : Bool)
  | sleep (til : Nat)
  /-- BAR has arrived at barrier n, and the phase is not complete (R153). -/
  | bar (n : Nat)
  /-- DONE has issued beside a memory instruction that parked: the split ends when that is performed (R157). -/
  | ending
  deriving DecidableEq, Repr

/-- The progress of a FENCESC (R42). -/
inductive Fsc
  | idle
  /-- The drain completed at this sidereal count. -/
  | drained (at_ : Nat)
  /-- Tick number taken. -/
  | taken (n : Nat)
  deriving DecidableEq, Repr

/-- One split of a group (R117), with the trap registers that a shading core keeps per split (R164). -/
structure Split where
  pc : Nat
  mask : Nat
  /-- The cycle in which the split last issued or came to be; its issue age counts from here (R122). -/
  age : Nat
  /-- Deferred stack, top first: (address, mask) (R119). -/
  stack : List (Nat × Nat)
  /-- The split has just arrived by a taken branch, or stands at a MERGE (R121). -/
  arrived : Bool
  tlev : Bool
  tmsk : Bool
  tepc : Nat
  taddr : Nat
  tbad : Nat
  tcause : Nat
  /-- What the split is parked on; it issues when nothing is listed. -/
  waits : List Wait
  /-- The BARW at `pc` has begun to wait, so a FENCE follows its phase (R153). -/
  barred : Bool
  /-- The rows of R120 have been applied for the MERGE at `pc`, whose bundle is held. -/
  acted : Bool
  fsc : Fsc
  /-- Handler-budget cycles used since the pending pre-emption request (R125, R127). -/
  budget : Nat
  deriving DecidableEq, Repr

/-- A window of a tensor tile (R269). -/
structure Win where
  vbase : Nat
  len : Nat
  pbase : Nat
  perm : Nat
  deriving DecidableEq, Repr

/-- An entry of the store-withholding buffer (R33, R136). -/
inductive SwbEnt
  /-- A withheld store of bytes at a physical address; `stl` carries its scope. -/
  | store (pa : Nat) (data : List Byte) (poison : Bool) (lane : Nat) (stl : Option Scope)
  | atomic (pa : Nat) (r : AtomReq) (lane : Nat) (dst : LoadDst)
  /-- A FENCE boundary (R205). -/
  | boundary (sc : Scope)
  deriving DecidableEq, Repr

/-- The deferred push of a tile (R159, R167). -/
inductive DPush
  | none
  | spawn (queue : Nat) (rec_ : List Byte)
  | spawng (queue : Nat) (rec_ : List Byte) (n : Nat)
  /-- Virtual and physical address, delta. -/
  | joinw (va pa delta : Nat) (bind : Bool)
  deriving DecidableEq, Repr

/-- Direction of a stream (R282). -/
inductive StreamDir | unbound | rd | wr
  deriving DecidableEq, Repr

/-- A stream register (R277, R280 to R286). -/
structure Stream where
  dir : StreamDir
  wrap : Bool
  /-- ESZ: the element size is 2^(esz+2) bytes. -/
  esz : Nat
  base : Nat
  c : List Nat
  d : List Int
  /-- Elements consumed (read) or produced (write) by instructions since the stream was bound or reset; CONS is this number, modulo
  TOTAL on a WRAP stream (R283). -/
  cons : Nat
  /-- How often the stream has been bound or reset: the model's own, to tell the elements of R298. -/
  epoch : Nat
  /-- Buffered bytes, oldest first, each with the poison mark of its word (R284). -/
  buf : List (Byte × Bool)
  deriving DecidableEq, Repr

/-- The guide slot ring of a tile (R292). -/
structure GRing where
  rbase : Nat
  rslots : Nat
  rsem : Nat
  take : Nat
  rel : Nat
  relpend : Nat
  deliv : Nat
  /-- The ring takes no delivery before the next CKPT (R292). -/
  locked : Bool
  /-- Delivered slots not yet returned, oldest first: the exporting context and its CREDIT word (R385). -/
  credits : List (Nat × Nat)
  deriving DecidableEq, Repr

/-- The systolic array of a tile (R302). Cell (i, j) is key 128i + j; slot m column j is key 128m + j. -/
structure Mat where
  aw : Sparse Nat
  aws : Filled Nat
  ask : Sparse Nat
  sw : Sparse Nat
  sws : Filled Nat
  ssk : Sparse Nat
  xw : Sparse Nat
  xsc : Filled Nat
  xf : Sparse Nat
  ps : Filled W32
  mopw : Nat
  lp : Nat
  pp : Nat
  dp : Nat
  frozen : Bool
  deriving DecidableEq, Repr

/-- A triggered transform operation or its completion word (R340, R343). -/
structure XOp where
  n : Nat
  opt : Nat
  src : Nat
  dst : Nat
  len : Nat
  inp : Option XBind
  out : Option XBind
  /-- The captured code table (first 128 bytes of the TAB tile). -/
  tab : List Byte
  /-- The captured configuration register; for MXQ the fN record, for EXC the channels to reset first (R350, R351). -/
  cfg : Nat
  /-- Captured input bytes of a tile or the scratchpad, each with the poison mark of its word. -/
  data : List (Byte × Bool)
  /-- The completion word once done, and the decode position for the error record. -/
  done : Option Nat
  pos : Nat
  deriving DecidableEq, Repr

/-- One transform unit of a group (R337, R345). -/
structure XUnitSt where
  src : Nat
  dst : Nat
  len : Nat
  inp : Option XBind
  out : Option XBind
  tab : Option TReg
  cfg : Nat
  queue : List XOp
  deriving DecidableEq, Repr

/-- A channel of the exponent coder (R350): counts by exponent and the 16-entry table. -/
structure ExcChan where
  h : Sparse Nat
  tbl : List Nat
  deriving DecidableEq, Repr

/-- An asynchronous tile transfer in flight (R208). -/
structure Xfer where
  split : Nat
  token : Nat
  tile : Nat
  isLoad : Bool
  /-- 64-byte lines not moved yet (whole rows on a tile), in row order, with their rows as lanes. -/
  todo : List Access
  rows : List (LoadDst × List Byte × List Nat)
  /-- STATUS and ROW once the transfer has stopped (R208). -/
  stopped : Option (Nat × Nat)
  deriving DecidableEq, Repr

/-- A multicast or MCSEM on its way to one destination (R288 to R290). -/
inductive Cast
  /-- Scratchpad address, data, and the numbers of its poisoned words. -/
  | data (addr : Nat) (bytes : List Byte) (bad : List Nat)
  | sem (n : Nat)
  deriving DecidableEq, Repr

/-- One cast: source and destination group keys, and the number of its multicast. -/
structure CastRec where
  src : Nat
  dst : Nat
  no : Nat
  what : Cast
  deriving DecidableEq, Repr

/-- What a tensor tile holds beside its register image (R111, R135, R169). -/
structure Tile where
  spad : Sparse Byte
  /-- Poisoned 32-bit scratchpad words, by word number: the bytes not rewritten since (R25). -/
  spadPoison : Sparse Nat
  semCount : Sparse Nat
  semDelta : Sparse Int
  wins : List Win
  swb : List SwbEnt
  /-- Journal: (line, old bytes, old poison of its words), newest first (R169). -/
  journal : List (Nat × List Byte × List Nat)
  dpush : DPush
  /-- Barrier arrivals in the interval, and replay credits (R169, R170). -/
  arrivals : Sparse Nat
  credit : Sparse Nat
  /-- The checkpoint image and its PC, %ckpt (R164, R168). -/
  ck : Regs
  ckpc : Nat
  ckPoison : List RegWord
  /-- The timer was raised during the interval (R137). -/
  raised : Bool
  ring : GRing
  ckRing : GRing
  streams : Sparse Stream
  ckStreams : Sparse Stream
  mat : Mat
  ckMat : Mat
  ckXfm : Sparse XUnitSt
  ckExc : Sparse ExcChan
  exc : Sparse ExcChan
  /-- MCSEM entries issued and not yet performed, oldest first: rectangle and semaphore (R290). -/
  mcsems : List (Nat × Nat)
  /-- Cycles at which issued slot-5 instructions retire, oldest first (R328). -/
  matBusy : List Nat
  deriving DecidableEq, Repr

/-- A held operation of ordered mode (R43, R218). -/
inductive HeldOp
  | store (pa : Nat) (data : List Byte)
  | atomic (pa : Nat) (r : AtomReq) (dst : LoadDst)
  deriving DecidableEq, Repr

/-- A float atomic held until its ordered job ends (R43). -/
structure HeldAtomf where
  queue : Nat
  job : Nat
  gidx : Nat
  group : Nat
  lane : Nat
  src : Nat
  pa : Nat
  op : AtomFOp
  w : AtomFW
  x : Nat
  deriving DecidableEq, Repr

/-- A draw latched by RKICK: the descriptor's address and bytes, and the number of the RKICK (R359). -/
structure Draw where
  at_ : Nat
  desc : List Byte
  no : Nat
  deriving DecidableEq, Repr

/-- A guide record that GEXP holds until its fragment is resolved (R384): the target's descriptor address and bytes, the pixel, and the
16 bytes. -/
structure HeldRec where
  at_ : Nat
  desc : List Byte
  x : Nat
  y : Nat
  data : List Byte
  deriving DecidableEq, Repr

/-- One pixel quad of a fragment group (R363); lists run over its four pixels. -/
structure Quad where
  x : Nat
  y : Nat
  /-- Pixels covered, discarded by KILL or by a failed early test, and whose depth has been written early. -/
  cov : Nat
  dead : Nat
  early : Nat
  prim : Nat
  /-- The three vertices, 20 words each: position, then attributes. -/
  tri : List (List Nat)
  /-- E0, E1 and E2 at each pixel, and their sum (R361). -/
  es : List (List Int)
  sum : Int
  /-- What DEPW wrote. -/
  depw : List (Option Nat)
  /-- The records that GEXP holds at each pixel until resolution, oldest first (R384). -/
  recs : List (List HeldRec)
  deriving DecidableEq, Repr

/-- A fragment group, from its formation to the resolution of its fragments (R363 to R370). -/
structure FragGroup where
  die : Nat
  cluster : Nat
  meshlet : Nat
  draw : Draw
  ctx : Nat
  /-- The mesh gang's record: PRIO and JOBTAG. -/
  rec_ : List Byte
  quads : List Quad
  /-- The gang that runs it; its group has ended or was killed. -/
  gang : Option Nat
  ended : Bool
  deriving DecidableEq, Repr

/-- A meshlet in a render die's input queue, or rasterized and not resolved (R360, R370). -/
structure Meshlet where
  die : Nat
  no : Nat
  draw : Draw
  ctx : Nat
  rec_ : List Byte
  verts : Sparse W32
  prims : Sparse Nat
  rastered : Bool
  deriving DecidableEq, Repr

/-- Bounds of a depth buffer in the hierarchical-depth units of a die (R368): by 8×8 region, the number of the last draw. -/
structure HzBuf where
  die : Nat
  ctx : Nat
  depth : Nat
  bounds : Sparse Nat
  deriving DecidableEq, Repr

/-- A guide tile in staging (R382, R383): pixels whose record differs from the initial one. -/
structure Staged where
  die : Nat
  ctx : Nat
  /-- Virtual address of the descriptor. -/
  at_ : Nat
  idx : Nat
  px : Sparse (List Byte)
  deriving DecidableEq, Repr

/-- A GFLUSH whose tiles are not all in the export port (R385). -/
structure Flush where
  die : Nat
  ctx : Nat
  grp : Nat
  at_ : Nat
  desc : List Byte
  next : Nat
  stop : Nat
  deriving DecidableEq, Repr

/-- A guide tile in an export port (R385). -/
structure PortTile where
  die : Nat
  ctx : Nat
  /-- Source number of the destination tile. -/
  dest : Nat
  credit : Nat
  bytes : List Byte
  deriving DecidableEq, Repr

/-- A DONECNT or CREDIT increment under way (R370, R385). -/
structure Inc where
  ctx : Nat
  va : Nat
  src : Nat
  credit : Bool
  deriving DecidableEq, Repr

/-- The scene-engine state of a group (R358, R359, R375, R382). -/
structure Scene where
  /-- Meshlet buffer: vertex i word w at 20i + w. -/
  verts : Sparse W32
  prims : Sparse Nat
  draw : Option Draw
  /-- The guide target bound by GBIND: descriptor address and bytes. -/
  guide : Option (Nat × List Byte)
  /-- The number of the fragment group that runs here. -/
  frag : Option Nat
  /-- TQRY word of each lane. -/
  tqry : Sparse W32
  deriving DecidableEq, Repr

/-- One group (R103, R111): a group slot of a shading core or the thread of a tensor tile. -/
structure Group where
  gang : Nat
  idx : Nat
  kind : CoreKind
  /-- Source number of the core or tile, and the group slot on a shading core (R9, R115). -/
  core : Nat
  slot : Nat
  r : Regs
  splits : Sparse Split
  tvec : Nat
  /-- %cyc and %timer at the cycle `since` (R137). -/
  cyc : Nat
  timer : Nat
  since : Nat
  /-- TIMER trap pending (R137). -/
  timerPend : Bool
  /-- Arrived flags of barriers 0 to 7, and the lanes that have contributed (R153). -/
  barFlags : Nat
  barLanes : Sparse Nat
  /-- Registers that the scoreboard holds: a reader or writer waits (R52, R68). -/
  busy : List RegId
  /-- Vector registers written by the last eight bundles of the group, newest bundle first: the forwarding window (R123). -/
  fwd : List (List Nat)
  /-- Destinations of withheld atomics on a tile (R171). -/
  withheld : List RegId
  /-- Poisoned register words (R25, R202). -/
  poison : List RegWord
  xfers : List Xfer
  xfm : Sparse XUnitSt
  scene : Scene
  /-- Ordered mode: bundles retired in the quantum and operations held (R43, R141). -/
  retired : Nat
  /-- Quanta committed. -/
  quanta : Nat
  held : List HeldOp
  /-- Waiting for the ordered commit of a value-returning atomic (R218). -/
  commitWait : Bool
  tile : Tile
  deriving DecidableEq, Repr

/-- What the header of a gang's image says (R63). -/
structure Image where
  base : Nat
  kind : CoreKind
  flags : Nat
  nv : Nat
  nk : Nat
  nt : Nat
  na : Nat
  ns : Nat
  lat : List Nat
  fmt : List Nat
  entries : List Nat
  codeOff : Nat
  codeLen : Nat
  winOff : Nat
  winCnt : Nat
  fused : Bool
  shape0 : Nat
  shape1 : Nat
  deriving DecidableEq, Repr

/-- A resident or saved gang (R103, R109, R129). -/
structure Gang where
  ctx : Nat
  queue : Nat
  /-- The 64-byte continuation record (R109). -/
  rec_ : List Byte
  image : Image
  ngroups : Nat
  /-- Core of a shading gang; lower corner tile of a tensor gang (R115, R116). -/
  core : Nat
  x0 : Nat
  y0 : Nat
  /-- Groups not yet ended (R113). -/
  alive : Nat
  /-- EST in microseconds, when it was set, the dispatch time and the quantum's end (R129, R130). -/
  est : Nat
  estAt : Nat
  dispatched : Nat
  quantumEnd : Nat
  /-- The time of a drain decision (R131). -/
  drain : Option Nat
  /-- The time of a checkpoint or kill (true) that has been decided and has not taken effect (R127, R131). -/
  preempt : Option (Nat × Bool)
  /-- The ordered job of its queue that it belongs to (R139). -/
  job : Nat
  /-- Depth of a fill generator and the block it fills (R393, R395); 0 and none for other gangs. -/
  depth : Nat
  fillOf : Option (Nat × Nat)
  /-- Blocks that this gang ended itself (R399). -/
  ended : List (Nat × Nat)
  /-- When a saved gang was saved, and its save areas (R114, R133). -/
  saved : Option Nat
  areas : List Nat
  deriving DecidableEq, Repr

/-- A hardware queue that a context owns (R105, R106, R139). -/
structure Queue where
  owner : Nat
  ring : Nat
  logcap : Nat
  kind : CoreKind
  head : Nat
  tail : Nat
  drops : Nat
  /-- Append time of each waiting record, oldest first (R114), and the block a generator record is to fill (R393). -/
  waiting : List (Nat × Option (Nat × Nat))
  jobtag : Nat
  gcount : Nat
  nextGidx : Nat
  /-- Ordered jobs started since the build, and gangs of each that have retired (R43). -/
  jobNo : Nat
  jobDone : Sparse Nat
  deriving DecidableEq, Repr

/-- A context (R143) with its special registers (R184), interrupt register and command window (R421, R422). -/
structure Ctx where
  ptroot : Nat
  qfirst : Nat
  qcount : Nat
  errRing : Nat
  errLog2 : Nat
  errCount : Nat
  savePool : Nat
  saveSize : Nat
  cssel : List Nat
  thrn : W64
  thrwin : W64
  thrpin : W64
  /-- Pages for which a SERVICE record stands (R261). -/
  serviced : List Nat
  /-- The context's copy of the intersection store (R377). -/
  store : Option (List Nat)
  /-- Interrupt register (R421). -/
  irq : Nat
  /-- Save areas in use (R133), and physical pages that the build has pinned (R144). -/
  areas : List Nat
  pins : List Nat
  deriving DecidableEq, Repr

/-- A byte held in an L1 or die L2 for a software-managed page (R189, R190). -/
structure CByte where
  val : Byte
  dirty : Bool
  /-- Poison mark (R25). -/
  bad : Bool
  ctx : Nat
  deriving DecidableEq, Repr

/-- A store waiting in the input queue of its line's slice (R44). -/
structure PStore where
  time : Nat
  src : Nat
  seq : Nat
  lane : Nat
  pa : Nat
  data : List Byte
  poison : Bool
  /-- Issuing group key and split (R30, R204). -/
  grp : Nat
  split : Nat
  deriving DecidableEq, Repr

/-- A write that has been applied at its home and not yet at every die (R36). -/
structure WRec where
  die : Nat
  clock : List Nat
  pa : Nat
  old : List Byte
  new : List Byte
  /-- Dies that have not applied it. -/
  waiting : List Nat
  deriving DecidableEq, Repr

/-- A cached translation (R260). -/
structure Tlb where
  die : Nat
  ctx : Nat
  va : Nat
  big : Bool
  leaf : Nat
  deriving DecidableEq, Repr

/-- A copy-on-write copy or migration under way (R264, R267). -/
structure PageMove where
  ctx : Nat
  va : Nat
  big : Bool
  quadrant : Nat
  /-- Physical address of the leaf entry, and the entry as it stood. -/
  leafAt : Nat
  leaf : Nat
  src : Nat
  dst : Nat
  cow : Bool
  deriving DecidableEq, Repr

/-- The migration pool of a quadrant (R266). -/
structure Pool where
  free64 : List Nat
  free2m : List Nat
  thresh : Nat
  rem : Bool
  en : Bool
  /-- Returned frames: (PA, 2 MiB). -/
  ret : List (Nat × Bool)
  migcnt : Nat
  deriving DecidableEq, Repr

/-- The history of a region in the thrash detector and the rebalance counters (R265, R268). -/
structure Region where
  starts : List Nat
  pinnedTil : Option Nat
  count : Sparse Nat
  deriving DecidableEq, Repr

/-- An error record not yet written by the ring writer (R274, R276). -/
structure ErrRec where
  /-- None for the device ring. -/
  ctx : Option Nat
  time : Nat
  src : Nat
  cls : Nat
  flags : Nat
  sub : Nat
  lane : Nat
  vaddr : Nat
  paddr : Nat
  synd : Nat
  jobtag : Nat
  gidx : Nat
  pc : Nat
  deriving DecidableEq, Repr

/-- A register write that has not returned over the fabric (R21, R66). -/
structure Reply where
  grp : Nat
  /-- Destination, bytes, and the numbers of their poisoned 32-bit words. -/
  writes : List (LoadDst × List Byte × List Nat)
  deriving DecidableEq, Repr

/-- A loaded procedural range (R388), and its entry's cached fields (R389). -/
structure Range where
  vbase : Nat
  len : Nat
  bsize : Nat
  prio : Nat
  ctx : Nat
  gen : Nat
  state : Nat
  limit : Nat
  queue : Nat
  deriving DecidableEq, Repr

/-- The fill states of a block (R391). -/
inductive BlockSt | empty | filling | filled | failed
  deriving DecidableEq, Repr

/-- One block of a range (R391). -/
structure Block where
  st : BlockSt
  dirty : Bool
  code : Nat
  use : Nat
  deriving DecidableEq, Repr

/-- An entry of the in-flight table (R393): a FILLING block, its generator gang once dispatched, its depth, and whether its
record has been appended. -/
structure InFlight where
  range : Nat
  blk : Nat
  gang : Option Nat
  depth : Nat
  pushed : Bool
  deriving DecidableEq, Repr

/-- A seal command in progress (R70, R74): its pages carry the sealing mark. -/
structure SealJob where
  win : Nat
  ctx : Nat
  vbase : Nat
  done : Nat
  pages : List Nat
  aborted : Bool
  status : Nat
  slot : Nat
  reason : Nat
  offset : Nat
  digest : List Byte
  quadrant : Nat
  deriving DecidableEq, Repr

/-- A record that a kill or a join holds until its queue has room (R113, R131). -/
structure HeldPush where
  ctx : Nat
  queue : Nat
  rec_ : List Byte
  src : Nat
  fill : Option (Nat × Nat)
  /-- The record of a killed task (R131), not a continuation. -/
  again : Bool
  deriving DecidableEq, Repr

/-- A join decrement that waits for its translation (R113). -/
structure HeldJoin where
  ctx : Nat
  addr : Nat
  src : Nat
  quadrant : Nat
  jobtag : Nat
  gidx : Nat
  deriving DecidableEq, Repr

/-- One step entry of a frame plan (R405). -/
structure PlanStep where
  est : Nat
  drop : Bool
  rank : Nat
  coef : Nat
  subst : Nat
  deriving DecidableEq, Repr

/-- A frame of the Meridian governor (R404 to R413). -/
structure Frame where
  gang : Nat
  ctx : Nat
  handle : Nat
  /-- Order of opening. -/
  no : Nat
  plan : Nat
  tag : Nat
  budget : Nat
  margin : Nat
  recaddr : Nat
  steps : List PlanStep
  armt : Nat
  closet : Nat
  deadline : Nat
  slack : Int
  dropped : Nat
  run : Nat
  next : Nat
  start : Nat
  open_ : Bool
  late : Bool
  ord : Bool
  abandoned : Bool
  /-- The answer at arm, and the answers to the reports by step. -/
  atArm : Nat
  answers : Sparse Nat
  deriving DecidableEq, Repr

/-- A command window (R422): pending commands, oldest first. -/
structure Window where
  pending : List (List Byte)
  accept : Nat
  done : Nat
  drops : Nat
  deriving DecidableEq, Repr

/-- A copy in progress (R426). -/
structure CopyJob where
  win : Nat
  cmd : List Byte
  /-- Source number of the engine, once one has taken the copy (R426). -/
  engine : Option Nat
  /-- Bytes copied, and whether a poisoned line was among them. -/
  at_ : Nat
  bad : Bool
  /-- Sequence numbers of its frames that the peer has not acknowledged, and the address of the first one refused (R432). -/
  sent : List Nat
  refused : Option Nat
  /-- Class and address of the line at which it stopped. -/
  stop : Option (Nat × Nat)
  deriving DecidableEq, Repr

/-- A frame of a link as sent (R429): sequence number, the mask of a resync frame, else channel, format, coded flag, address, the raw flit
and the body. -/
structure LinkFrame where
  seq : Nat
  mask : Option Nat
  channel : Nat
  fmt : Nat
  coded : Bool
  pa : Nat
  raw : List Byte
  body : List Byte
  deriving DecidableEq, Repr

/-- A Driwaent link (R429 to R434). -/
structure Link where
  /-- 0 down, 1 training, 2 up. -/
  st : Nat
  retrains : Nat
  txSeq : Nat
  rxSeq : Nat
  replay : List LinkFrame
  tx : Sparse ExcChan
  rx : Sparse ExcChan
  deriving DecidableEq, Repr

/-- A catalogue entry (R437): entry n of kind k is key 256k + n. -/
structure CatEntry where
  /-- A stock image, which the firmware loads; its bytes are the firmware's. -/
  stock : Bool
  bytes : List Byte
  deriving DecidableEq, Repr

/-- A bit error in a stored word that no check has met yet (R24, R448). -/
structure Flip where
  w : SoftWhere
  unit : Nat
  addr : Nat
  bits : Nat
  deriving DecidableEq, Repr

/-- What the agent whose turn it is to issue has done with the present slot. -/
inductive Status
  | ran | stalled | trapped | held | killed
  deriving DecidableEq, Repr

/-- The issuing context of a bundle: the model's own, beside the registers as they stood before the bundle (R52). -/
structure Cur where
  grp : Nat
  split : Nat
  slot : Nat
  view : Option Group
  status : Status
  jumped : Bool
  deriving DecidableEq, Repr

/-- What a bundle takes of a shading core in its cycle (R123): slots in use, and vector registers read at the banks. -/
structure Needs where
  slots : List Nat
  reads : List Nat
  deriving DecidableEq, Repr

/-- What a core has issued in a cycle (R122, R123). -/
structure IssueRec where
  cycle : Nat
  bundles : List Needs
  /-- Cycles before which a port stays held by a bundle that needs more than two reads of a bank. -/
  held : List Nat
  /-- No further split of the core can issue in the cycle: for the default turn alone. -/
  done : Bool
  deriving DecidableEq, Repr

/-- Which agent acts next: the model's own. -/
inductive Turn
  /-- The shading core or tile with this source number issues one bundle. -/
  | issue (core : Nat)
  /-- An event of the package takes place. -/
  | event (i : Instr)
  /-- Arithmetic cycles pass. -/
  | tick (n : Nat)
  deriving DecidableEq, Repr

/-- The package (R8 to R448). -/
structure State where
  /-- Arithmetic cycles since package reset (R18); the sidereal count is 20/21 of it (R19). -/
  cycle : Nat
  turns : List Turn
  /-- By core (R122). -/
  issued : Sparse IssueRec
  cur : Cur
  free : Nat
  replyLater : Bool
  groups : Sparse Group
  gangs : Sparse Gang
  nextGang : Nat
  ctxs : Sparse Ctx
  queues : Sparse Queue
  quantum : Nat
  drainlim : Nat
  mem : List Host.Cell
  pend : List PStore
  seqNo : Nat
  wlog : List WRec
  clocks : Sparse (List Nat)
  poison : Sparse Nat
  sealed_ : List Nat
  seals : List SealJob
  tlb : List Tlb
  moves : List PageMove
  pools : Sparse Pool
  regions : Sparse Region
  pinned : List Nat
  l1 : Sparse CByte
  l2 : Sparse CByte
  ro : Sparse Byte
  /-- Clean copies of host-memory lines in the memory-side caches, by line (R427). -/
  hostCopy : Sparse (List Byte)
  fusedClusters : List Nat
  /-- Multicasts and MCSEM increments in flight, in issue order (R289, R290), and the number of the next. -/
  casts : List CastRec
  castNo : Nat
  replies : List Reply
  errs : List ErrRec
  lastStamp : Sparse Nat
  heldPush : List HeldPush
  heldJoin : List HeldJoin
  ranges : Sparse Range
  /-- Block b of range r at key 2^40·r + b; an unlisted block of a loaded range is EMPTY. -/
  blocks : Sparse Block
  inflight : List InFlight
  /-- Failures that wait for a page of a STATE array: range, block, code (R391). -/
  heldFails : List (Nat × Nat × Nat)
  rtbase : Nat
  rtcount : Nat
  rtstatus : Nat
  rtlast : Nat
  fillcnt : Nat
  failcnt : Nat
  /-- Scene engine and guide export (R358 to R385): numbers of the next draw and fragment group, meshlets per die. -/
  meshlets : List Meshlet
  meshNo : Sparse Nat
  drawNo : Nat
  badDraws : List Nat
  frags : Sparse FragGroup
  fragNo : Nat
  hz : List HzBuf
  staged : List Staged
  flushes : List Flush
  port : List PortTile
  incs : List Inc
  /-- The context whose store each core's intersection sequencer holds, plus one (R377). -/
  coreStore : Sparse Nat
  atomfs : List HeldAtomf
  frames : List Frame
  frameNo : Nat
  /-- Command windows: context c is window c, the privileged window is 4,096 (R422). -/
  windows : Sparse Window
  copies : List CopyJob
  irqDev : Nat
  irqPriv : Nat
  irqIdle : Nat
  /-- Vectors of events whose message has not been sent; the vectors whose table entry is unmasked, and those pending (R421). -/
  msgs : List Nat
  msixOpen : List Nat
  msixPend : List Nat
  msixTable : Sparse Byte
  links : Sparse Link
  /-- ROUTE plus one, where it is not 15 (R433). -/
  route : Sparse Nat
  pwbase : Nat
  pwlimit : Nat
  /-- BOOTSTAT (R438), the number of boots, and whether a thermal trip or a boot failure holds the module in reset (R442, R443). -/
  bootstat : Nat
  boots : Nat
  inReset : Bool
  tripped : Bool
  catalogue : Sparse CatEntry
  /-- Records written to the device ring (R445). -/
  devCount : Nat
  /-- Dies that insert idle issue cycles (R442). -/
  idle : List Nat
  corrected : Sparse Nat
  uncorrected : Sparse Nat
  flips : List Flip
  /-- Failed retransmissions of the flit on a path, and its retrainings (R23). -/
  flitFails : Sparse Nat
  /-- The range command in progress: index, and whether it removes (R389). -/
  rtOp : Option (Nat × Bool)
  /-- What the last read by the host or the baseboard controller returned (R420, R428, R444). -/
  lastRead : List Byte
  deriving DecidableEq, Repr

/-- The machine after reset and bring-up (R443): memory is zero, nothing is built, every register is at the reset value of its table,
and the firmware has loaded the stock images as catalogue entry 0 of each kind. -/
def State.reset : State :=
  { cycle := 0, turns := [], issued := [], cur := { grp := 0, split := 0, slot := 0, view := none, status := .ran, jumped := false }, free := 0,
    replyLater := false, groups := [], gangs := [], nextGang := 0, ctxs := [], queues := [], quantum := 2000000, drainlim := 200,
    mem := [], pend := [], seqNo := 0, wlog := [], clocks := [], poison := [], sealed_ := [], seals := [], tlb := [], moves := [],
    pools := [], regions := [], pinned := [], l1 := [], l2 := [], ro := [], hostCopy := [], fusedClusters := [], casts := [],
    castNo := 0, replies := [], errs := [], lastStamp := [], heldPush := [], heldJoin := [], ranges := [], blocks := [], inflight := [],
    heldFails := [], rtbase := 0, rtcount := 0, rtstatus := 0, rtlast := 0, fillcnt := 0, failcnt := 0, meshlets := [], meshNo := [],
    drawNo := 0, badDraws := [], frags := [], fragNo := 0, hz := [], staged := [], flushes := [], port := [], incs := [],
    coreStore := [], atomfs := [], frames := [], frameNo := 0, windows := [], copies := [], irqDev := 0, irqPriv := 0, irqIdle := 0,
    msgs := [], msixOpen := [], msixPend := [], msixTable := [], links := [], route := [], pwbase := 0, pwlimit := 0, bootstat := 0,
    boots := 0, inReset := false, tripped := false,
    catalogue := [0, 256, 512, 768].map fun n => (n, { stock := true, bytes := [] }), devCount := 0, idle := [], corrected := [], uncorrected := [], flips := [],
    flitFails := [], rtOp := none, lastRead := [] }

end Sys2Proof.Machine
end

