-- ==== Sys2Proof/WellFormed.lean ====
section
/-!
DEFINITION. What the sealing engine requires of one slot word by itself (R56, R59, R72 and the encoding rules of each
engine): the operand values that a word of each core kind may carry. The checks that need the image's header (register
counts, format records, flags) stand with the sealing engine.
-/
namespace Sys2Proof

/-- Elements per lane of a lane type (R246). -/
def LaneType.elems : LaneType → Nat
  | .i32 | .u32 | .f32 => 1
  | .f16x2 | .bf16x2 | .i16x2 => 2
  | .i8x4 | .f8x4 => 4

/-- Whether the elements of a lane type are floats (R247). -/
def LaneType.isFloat : LaneType → Bool
  | .f32 | .f16x2 | .bf16x2 | .f8x4 => true
  | .i32 | .u32 | .i16x2 | .i8x4 => false

/-- The rounding field of the conversions: SR only into a float, 0 where neither side is a float (R247). -/
def cvtRoundOk (dst src : LaneType) (r : RMode) : Bool :=
  match r with
  | .sr => dst.isFloat
  | .det m => dst.isFloat || src.isFloat || m == .rne

/-- The ratio by which VCVTN packs or VCVTW spreads the elements: 2 or 4 (R246). -/
def cvtRatioOk (many few : Nat) (g : Nat) : Bool := (many == 2 * few && decide (g < 2)) || many == 4 * few

/-- Elements per lane of the built-in element formats of VQMX; a programmable one is checked with its record (R249). -/
def QFmt.elems? : QFmt → Option Nat
  | .e4m3 | .e5m2 | .e2m3 | .e3m2 => some 4
  | .e2m1 => some 8
  | .f1 | .f2 | .f3 => none

/-- The chunk field of VQMX and VDQMX: 0 to n/2 - 1 (R249). -/
def chunkOk (t : QFmt) (c : Nat) : Bool := match t.elems? with | some n => decide (2 * c < n) | none => true

/-- Special-register numbers that KRDS accepts (R184, R185). -/
def specialReadable (n : Nat) : Bool :=
  n ≤ 0x0E || (0x10 ≤ n && n ≤ 0x14) || (0x20 ≤ n && n ≤ 0x23)

/-- Special-register numbers that KWRS accepts: %nmode, %srseed, %tvec, %tepc, %thrn, %thrwin, %thrpin (R184, R185). -/
def specialWritable (n : Nat) : Bool :=
  n == 0x0D || n == 0x0E || n == 0x10 || n == 0x11 || n == 0x21 || n == 0x22 || n == 0x23

/-- The privileged special registers of KWRS (R184, R60). -/
def specialPrivileged (n : Nat) : Bool := 0x21 ≤ n && n ≤ 0x23

/-- VL of a core kind (R226). -/
def CoreKind.vl : CoreKind → Nat
  | .shading => 32
  | .tensor => 64

/-- The units a core kind has (R336). -/
def XUnit.present (k : CoreKind) : XUnit → Bool
  | .dcz | .spx => true
  | .exc | .mxq => k == .tensor

def MWidth.is64 : MWidth → Bool
  | .d => true
  | .b | .sb | .h | .sh | .w | .sw => false

def SWidth.is64 : SWidth → Bool
  | .d => true
  | .b | .h | .w => false

def AtomW.is64 : AtomW → Bool
  | .d | .ud => true
  | .w | .uw => false

/-- The semaphore operands of a control word: an address on a shading core, a number on a tile; count 1 to 255 (R148). -/
def semOk (k : CoreKind) (a n c : Nat) : Bool :=
  c != 0 && (match k with | .shading => n == 0 | .tensor => a == 0)

/-- Whether `i` may stand in a word of opcode map `m` in an image of kind `k`, by the word's own fields. -/
def wfSlot (k : CoreKind) (m : SlotMap) (i : Instr) : Bool :=
  match i with
  -- control
  | .nopSlot0 _ | .brx _ _ | .callx _ _ _ | .ret _ _ | .merge _ | .bara _ _ | .barw _ _ | .bar _ _ | .yield _ | .done _
  | .joinw _ _ _ _ | .timehint _ _ | .trap _ _ | .tret _ | .tmask _ | .tunmask _ | .ckpt _ | .sleep _ _ | .halt _ _
  | .govarm _ _ _ | .govstep _ _ _ | .govq _ _ _ _ | .winld _ _ _ | .csld _ _ _ | .brc _ _ _ _ | .call _ _ => m == .ctl
  | .nop => m != .ctl
  | .br _ p _ => m == .ctl && (p == 0 || k == .shading)
  | .semsig _ a n c | .semwait _ a n c => m == .ctl && semOk k a n c
  | .semtry _ a _ n c => m == .ctl && semOk k a n c
  | .spawn _ a _ | .spawng _ a _ => m == .ctl && a.val % 8 == 0
  | .timerset _ a arm => m == .ctl && (arm || a == 0)
  | .ptinv _ a n => m == .ctl && (n != .all || a == 0)
  -- scalar
  | .kmov _ _ | .kmovi _ _ | .khi _ _ | .kadd _ _ _ _ | .kaddi _ _ _ | .ksub _ _ _ _ | .kmul _ _ _ _ | .kmulh _ _ _ _
  | .kmad _ _ _ _ | .kdivs _ _ _ | .kand _ _ _ | .kor _ _ _ | .kxor _ _ _ | .knot _ _ | .kshl _ _ _ _ | .kshr _ _ _ _
  | .ksar _ _ _ _ | .krot _ _ _ _ | .kandImm _ _ _ | .korImm _ _ _ | .kxorImm _ _ _ | .kmin _ _ _ _ _ | .kmax _ _ _ _ _
  | .kcmp _ _ _ _ _ | .ksel _ _ _ _ | .kpopc _ _ _ | .kclz _ _ _ | .kctz _ _ _ | .kbfe _ _ _ _ _ | .kbfi _ _ _ _
  | .krfl _ _ _ | .krdl _ _ _ _ | .pand _ _ _ _ _ | .por _ _ _ _ _ | .pxor _ _ _ _ _ | .pnot _ _ | .pmovk _ _
  | .kmovp _ _ => m == .scl
  | .kshlImm w _ _ n | .kshrImm w _ _ n | .ksarImm w _ _ n | .krotImm w _ _ n => m == .scl && (w == .d || decide (n.val < 32))
  | .krds _ sp => m == .scl && specialReadable sp
  | .kwrs sp _ => m == .scl && specialWritable sp
  -- vector
  | .vadd _ _ _ _ _ _ _ | .vsub _ _ _ _ _ _ _ | .vmul _ _ _ _ _ _ _ | .vmulh _ _ _ _ _ _ | .vmad _ _ _ _ _ _ _
  | .vneg _ _ _ _ _ | .vabs _ _ _ _ _ | .vmin _ _ _ _ _ _ | .vmax _ _ _ _ _ _ | .vand _ _ _ _ | .vor _ _ _ _ | .vxor _ _ _ _
  | .vnot _ _ _ | .vshl _ _ _ _ _ | .vshr _ _ _ _ _ | .vsar _ _ _ _ _ | .vbfe _ _ _ _ _ | .vbfi _ _ _ _ | .vpopc _ _ _ _
  | .vclz _ _ _ _ | .vcmp _ _ _ _ _ _ | .vsel _ _ _ _ | .vmov _ _ _ | .vmovi _ _ _ _ | .vfadd _ _ _ _ _ _ | .vfsub _ _ _ _ _ _
  | .vfmul _ _ _ _ _ _ | .vfma _ _ _ _ _ _ | .vfms _ _ _ _ _ _ | .vfmin _ _ _ _ _ | .vfmax _ _ _ _ _ | .vfcmp _ _ _ _ _
  | .vfrcp _ _ _ _ _ | .vfrsq _ _ _ _ _ | .vfdivs _ _ _ _ _ _ | .vfexp2 _ _ _ _ _ | .vflog2 _ _ _ _ _ | .vfrnd _ _ _ _ _
  | .vfclass _ _ _ _ | .vcvtf _ _ _ _ _ _ _ _ | .vshuf _ _ _ _ | .vbcast _ _ _ _ | .vbfly _ _ _ _ | .vvote _ _ _ _ => m == .vec
  | .vmovAcc _ _ _ _ => m == .vec && k == .tensor
  | .vcvt t r s _ _ _ => m == .vec && t != s && t.elems == s.elems && cvtRoundOk t s r
  | .vcvtn t r s g _ _ _ => m == .vec && cvtRatioOk t.elems s.elems g && cvtRoundOk t s r
  | .vcvtw t r s g _ _ _ => m == .vec && cvtRatioOk s.elems t.elems g && cvtRoundOk t s r
  | .vqmx t _ c _ a _ _ => m == .vec && a.val % 2 == 0 && chunkOk t c
  | .vdqmx t _ c d _ _ _ => m == .vec && d.val % 2 == 0 && chunkOk t c
  | .vshufImm kd _ _ n => m == .vec && decide (n.val < k.vl) && (kd != .rev || n == 0)
  | .vred t r o _ _ _ | .vscan t r o _ _ _ =>
    m == .vec && (t != .f32 || o == .add || o == .min || o == .max) && (r == .rne || (t == .f32 && o == .add))
  | .vballot hi _ _ _ => m == .vec && (!hi || k == .tensor)
  | .vactive a _ _ => m == .vec && (a != .hi || k == .tensor)
  | .vftwos _ d _ _ | .vftwop _ d _ _ => m == .vec && d.val % 2 == 0
  -- memory
  | .ldu _ _ _ _ _ | .stu _ _ _ _ _ | .lda _ _ _ _ _ | .stl _ _ _ _ _ | .ldt _ _ _ _ | .stt _ _ _ _ | .ldta _ _ _ _ _
  | .stta _ _ _ _ _ | .atomu _ _ _ _ _ | .rwb _ _ | .rinv _ _ | .rflush _ _ | .pref _ _ _ _ | .fence _ | .fencesc
  | .filldone _ | .fillfail _ _ | .fillq _ _ | .fillhint _ _ => m == .mem
  | .ld w _ _ d _ _ => m == .mem && (!w.is64 || d.val % 2 == 0)
  | .st w _ _ d _ _ => m == .mem && (!w.is64 || d.val % 2 == 0)
  | .spld w _ d _ _ => m == .mem && k == .tensor && (!w.is64 || d.val % 2 == 0)
  | .spst w _ d _ _ => m == .mem && k == .tensor && (!w.is64 || d.val % 2 == 0)
  | .spldt _ _ _ | .spstt _ _ _ => m == .mem && k == .tensor
  | .atom _ w _ d _ _ => m == .mem && d.val % (if w.is64 then 4 else 2) == 0
  | .atomf _ _ _ d _ _ => m == .mem && d.val % 2 == 0
  | .cas w _ d _ _ => m == .mem && d.val % (if w == .d then 8 else 4) == 0
  | .nodest _ _ _ | .l1q _ => m == .mem && k == .shading
  -- matrix
  | .mpush _ _ | .mpushTile _ _ _ | .macc _ | .mdrain _ _ _ | .mlds _ _ _ | .mldsTile _ _ _ _ | .mswap | .mopReg _ | .mclr
  | .mstat _ | .mwait | .mrda _ _ _ | .mfreeze _ | .mscan _ _ => m == .mtx
  | .mshift n => m == .mtx && n != 0
  | .mopImm e w x _ _ _ => m == .mtx && decide (e.val < 12) && decide (w.val < 14) && decide (x.val < 14)
  | .mwra _ _ p _ s => m == .mtx && (p || s == 0)
  -- stream
  | .sbind _ _ _ _ _ | .spat _ _ _ _ | .spatRing _ _ | .srst _ _ | .sstat _ _ | .sdrain _ | .speek _ _ _ | .mcast _ _ _
  | .mcastSp _ _ | .mcsem _ _ | .gtake _ | .grls => m == .str
  -- scene
  | .pemit _ _ _ | .mend | .rkick _ | .zqry _ _ _ | .depw _ _ _ | .kill _ | .interp _ _ _ _ | .tqry _ _ | .gflush _
  | .gbind _ => m == .scn
  | .vemit _ _ a => m == .scn && a.val % 4 == 0
  | .tex _ _ d _ _ => m == .scn && d.val % 4 == 0
  | .texg _ _ _ d _ _ => m == .scn && d.val % 4 == 0
  | .texl _ _ d _ _ => m == .scn && d.val % 2 == 0
  | .texq _ d _ _ => m == .scn && d.val % 2 == 0
  | .trace _ _ _ a _ => m == .scn && a.val % 8 == 0
  | .tacc _ _ a _ => m == .scn && a.val % 8 == 0
  | .gexp _ a _ => m == .scn && a.val % 4 == 0
  -- transform
  | .xmov u p _ => m == .xfm && u.present k && (match p with | .src | .dst => k == .tensor | .len | .go _ => true)
  | .xmovt u p b =>
    m == .xfm && u.present k && (match b with | .t _ => true | .s _ => k == .tensor && p != .tab) && (p != .tab || u == .dcz)
  | .xget u _ | .xgets u _ | .xstat u _ => m == .xfm && u.present k
  | .xcfg u _ => m == .xfm && u.present k && u != .mxq
  | .xwait u | .xrst u => m == .xfm && u.present k
  -- events carry no word
  | .transformComplete _ _ | .matrixRetire _ | .tileTransferComplete _ _ | .reply _ | .transferUnit _ _ | .multicastLand _
  | .mcsemIncrement _ | .guideDelivery _ _ | .guidePortPlace _ | .creditIncrement _ | .stagingReplay _ _ | .meshletRaster _
  | .fragmentGroupStart _ | .fragmentResolve _ _ | .donecntIncrement _ | .intersectionRun _ _ | .queueWindowWrite _ _ _
  | .recordCheck _ | .dispatch | .gangRetire _ | .joinDecrement _ | .continuationPush _ | .quantumEnd _ | .priorityTrigger
  | .drainLimit _ | .checkpoint _ | .restore _ | .recordReappend _ | .handlerBudget _ _ | .orderedCommit _ | .timerTrap _
  | .sleepWake _ _ | .semwaitRetry _ _ | .pulsarTick _ | .parkedReplay _ _ | .parkedRetryPeriod _ _ | .copyOnWrite _ _
  | .migration _ | .thrashPinEnd _ | .fillStart _ _ | .mergeStep _ | .cacheEviction _ _ _ _ | .scrub _ _ _
  | .flitRetransmit _ _ _ | .errorRingWrite | .msixMessage _ | .commandWindowWrite _ _ _ | .build _ | .destroy _ | .seal _
  | .registerWrite _ | .plainRegisterWrite _ _ _ | .catalogueLoad _ | .translationUpdate _ | .copy _ _ | .attest _ | .quantum _
  | .frame64 _ _ | .frame2m _ _ | .rframe _ | .rtcount _ | .rangeLoad _ | .rangeRemove _ | .resync _ _ | .hostRead _ _
  | .hostWrite _ _ | .unlistedAccess _ _ | .linkFrame _ _ _ _ _ _ _ | .linkAck _ _ _ | .resyncFrame _ _ | .linkRetrain _ | .reset
  | .powerLimit _ | .thermalTrip | .managementRead _ | .managementReset | .sealCompletion _ | .remoteWriteApply _ _
  | .softError _ _ _ _ | .idleIssueEnd _ | .linkDown _ | .msixTableWrite _ _ | .hostAtomicop _ _ _ _ _ => false

end Sys2Proof
end

