-- ==== Sys2Proof/Machine/Basic.lean ====
section
/-!
DEFINITION. Reset values of the parts of a group (R111), and the one way to read and to write the registers of the issuing
group: reads see the registers as they stood before the bundle (R52), writes go to the present ones.
-/
namespace Sys2Proof.Machine

/-- The F32 ⊕-identity of constellation entry 0 (R311). -/
def negZero32 : W32 := 0x80000000#32

/-- Registers at a group's first bundle, before k0 to k3, the formats and the seeds (R111). -/
def Regs.zero : Regs :=
  { k := [], v := [], p := [], t := [], f := [], acc := Filled.all negZero32, lfsr := [], srseed := 0, fz16 := false, tcmp := 0,
    arm := false }

def Stream.zero : Stream :=
  { dir := .unbound, wrap := false, esz := 0, base := 0, c := [1, 1, 1, 1], d := [0, 0, 0, 0], cons := 0, epoch := 0, buf := [] }

def GRing.zero : GRing :=
  { rbase := 0, rslots := 0, rsem := 0, take := 0, rel := 0, relpend := 0, deliv := 0, locked := false, credits := [] }

/-- The array at dispatch: both planes zero, scales 0x7F, partial sums the identity of entry 0 (R111, R302). -/
def Mat.zero : Mat :=
  { aw := [], aws := Filled.all 0x7F, ask := [], sw := [], sws := Filled.all 0x7F, ssk := [], xw := [], xsc := Filled.all 0x7F,
    xf := [], ps := Filled.all negZero32, mopw := 0, lp := 0, pp := 0, dp := 0, frozen := false }

/-- A transform unit at reset (R345, R347, R349). -/
def XUnitSt.zero (u : XUnit) : XUnitSt :=
  { src := 0, dst := 0, len := 0, inp := none, out := none, tab := none, cfg := (match u with | .dcz => 0x40 | _ => 0), queue := [] }

/-- A channel of EXC at reset (R350). -/
def ExcChan.zero : ExcChan :=
  { h := (upFrom 120 16).map fun e => (e, 1), tbl := upFrom 120 16 }

def Tile.zero : Tile :=
  { spad := [], spadPoison := [], semCount := [], semDelta := [], wins := [], swb := [], journal := [], dpush := .none,
    arrivals := [], credit := [], ck := Regs.zero, ckpc := 0, ckPoison := [], raised := false, ring := GRing.zero, ckRing := GRing.zero, streams := [],
    ckStreams := [], mat := Mat.zero, ckMat := Mat.zero, ckXfm := [], ckExc := [], exc := [], mcsems := [],
    matBusy := [] }

def Scene.zero : Scene :=
  { verts := [], prims := [], draw := none, guide := none, frag := none, tqry := [] }

def Split.zero : Split :=
  { pc := 0, mask := 0, age := 0, stack := [], arrived := false, tlev := false, tmsk := false, tepc := 0, taddr := 0, tbad := 0,
    tcause := 0, waits := [], barred := false, acted := false, fsc := .idle, budget := 0 }

def Group.zero : Group :=
  { gang := 0, idx := 0, kind := .shading, core := 0, slot := 0, r := Regs.zero, splits := [], tvec := 0, cyc := 0, timer := 0,
    since := 0, timerPend := false, barFlags := 0, barLanes := [], busy := [], fwd := [], withheld := [], poison := [], xfers := [],
    xfm := [], scene := Scene.zero, retired := 0, quanta := 0, held := [], commitWait := false, tile := Tile.zero }

def Image.zero : Image :=
  { base := 0, kind := .shading, flags := 0, nv := 64, nk := 64, nt := 32, na := 0, ns := 0, lat := [], fmt := [], entries := [],
    codeOff := 0x100, codeLen := 0, winOff := 0, winCnt := 0, fused := false, shape0 := 1, shape1 := 0 }

def Gang.zero : Gang :=
  { ctx := 0, queue := 0, rec_ := [], image := Image.zero, ngroups := 1, core := 0, x0 := 0, y0 := 0, alive := 1, est := 0,
    estAt := 0, dispatched := 0, quantumEnd := 0, drain := none, preempt := none, job := 0, depth := 0, fillOf := none, ended := [],
    saved := none, areas := [] }

/-- A context with the reset values of R184. -/
def Ctx.zero : Ctx :=
  { ptroot := 0, qfirst := 0, qcount := 0, errRing := 0, errLog2 := 6, errCount := 0, savePool := 0, saveSize := 0, cssel := [],
    thrn := 8, thrwin := 1048576, thrpin := 16777216, serviced := [], store := none, irq := 0, areas := [], pins := [] }

/-- A migration pool at reset (R266). -/
def Pool.zero : Pool :=
  { free64 := [], free2m := [], thresh := 256, rem := false, en := true, ret := [], migcnt := 0 }

def Region.zero : Region := { starts := [], pinnedTil := none, count := [] }

-- ## Numbers of the package

/-- Key of a group among all groups: a gang holds at most 128 (R116). -/
def groupKey (gang idx : Nat) : Nat := 128 * gang + idx

/-- Die and unit of a source number (R9). -/
def dieOf (src : Nat) : Nat := src / 128
def unitOf (src : Nat) : Nat := src % 128
def srcOf (die unit : Nat) : Nat := 128 * die + unit

/-- The quadrant that holds a die (R8). -/
def quadrantOf (die : Nat) : Nat := if die < 8 then die / 2 else if die < 16 then (die - 8) / 2 else die - 16

/-- The source number of the tile at (x, y) (R9, R11). -/
def tileSrc (x y : Nat) : Nat := srcOf (8 + 4 * (y / 4) + x / 4) (4 * (y % 4) + x % 4)

/-- Mesh position of a tile (R11). -/
def tileX (src : Nat) : Nat := 4 * ((dieOf src - 8) % 4) + unitOf src % 4
def tileY (src : Nat) : Nat := 4 * ((dieOf src - 8) / 4) + unitOf src / 4

-- ## Register writes of a group: a clean write clears the poison mark it covers (R25)

def Group.putK (g : Group) (n : Nat) (x : W64) : Group :=
  { g with r := { g.r with k := Sparse.set 0 g.r.k n x }, poison := g.poison.filter (· != .k n) }
def Group.putV (g : Group) (n lane : Nat) (x : W32) : Group :=
  { g with r := { g.r with v := Sparse.set 0 g.r.v (64 * n + lane) x }, poison := g.poison.filter (· != .v n lane) }
def Group.putT (g : Group) (n : Nat) (x : List Byte) : Group :=
  { g with r := { g.r with t := Sparse.insert g.r.t n x },
           poison := g.poison.filter fun w => match w with | .t m _ => m != n | _ => true }
def Group.mark (g : Group) (w : RegWord) : Group := { g with poison := w :: g.poison.filter (· != w) }

namespace State

/-- The sidereal count: nanoseconds at 1.05 GHz (R18, R19). -/
def sid (s : State) : Nat := s.cycle * 20 / 21

-- ## Groups and gangs

def group (s : State) (key : Nat) : Group := Sparse.get Group.zero s.groups key
def setGroup (s : State) (key : Nat) (g : Group) : State := { s with groups := Sparse.insert s.groups key g }
def gang (s : State) (n : Nat) : Gang := Sparse.get Gang.zero s.gangs n
def setGang (s : State) (n : Nat) (g : Gang) : State := { s with gangs := Sparse.insert s.gangs n g }
def ctx (s : State) (n : Nat) : Ctx := Sparse.get Ctx.zero s.ctxs n
def setCtx (s : State) (n : Nat) (c : Ctx) : State := { s with ctxs := Sparse.insert s.ctxs n c }

/-- The issuing group, now and as it stood before the bundle. -/
def cg (s : State) : Group := s.group s.cur.grp
def rg (s : State) : Group := match s.cur.view with | some g => g | none => s.cg
def setCg (s : State) (g : Group) : State := s.setGroup s.cur.grp g
def modG (s : State) (f : Group → Group) : State := s.setCg (f s.cg)
def modR (s : State) (f : Regs → Regs) : State := s.modG fun g => { g with r := f g.r }
def modT (s : State) (f : Tile → Tile) : State := s.modG fun g => { g with tile := f g.tile }
def modScene (s : State) (f : Scene → Scene) : State := s.modG fun g => { g with scene := f g.scene }

/-- The gang and the context of the issuing group. -/
def gg (s : State) : Gang := s.gang s.cg.gang
def setGg (s : State) (g : Gang) : State := s.setGang s.cg.gang g
def cc (s : State) : Ctx := s.ctx s.gg.ctx

def kind (s : State) : CoreKind := s.rg.kind
def vl (s : State) : Nat := s.kind.vl
def src (s : State) : Nat := s.rg.core
def die (s : State) : Nat := dieOf s.src
/-- Rows of a tile register (R207). -/
def rows (s : State) : Nat := match s.kind with | .shading => 32 | .tensor => 64

/-- The issuing split, now and before the bundle. -/
def split (s : State) : Split := Sparse.get Split.zero s.cg.splits s.cur.split
def rsplit (s : State) : Split := Sparse.get Split.zero s.rg.splits s.cur.split
def setSplit (s : State) (x : Split) : State := s.modG fun g => { g with splits := Sparse.insert g.splits s.cur.split x }
def modSplit (s : State) (f : Split → Split) : State := s.setSplit (f s.split)
def mask (s : State) : Nat := s.rsplit.mask
/-- The address of the issuing bundle. -/
def pc (s : State) : Nat := s.rsplit.pc

-- ## Outcomes of a slot

/-- The bundle cannot issue in this cycle (R52): nothing of it happens. -/
def stall (s : State) : State := { s with cur := { s.cur with status := .stalled } }
/-- The bundle does not issue, and the split keeps what this state records of its wait (R121, R42). -/
def hold (s : State) : State := { s with cur := { s.cur with status := .held } }
/-- The split goes on at `a` instead of the following bundle (R149). -/
def jump (s : State) (a : Nat) : State :=
  let s' := s.modSplit fun x => { x with pc := a, arrived := true }
  { s' with cur := { s'.cur with jumped := true } }

/-- A fresh value that the spec leaves open (log entry 10). -/
def freeVal (s : State) : W64 := Config.freeValue s.free
def nextFree (s : State) : State := { s with free := s.free + 1 }

-- ## k registers (R173 to R175)

def k (s : State) (n : KReg) : W64 := Sparse.get 0 s.rg.r.k n
def setK (s : State) (n : KReg) (x : W64) : State := s.modG fun g => g.putK n x

-- ## p registers (R186): p0 reads all ones, and a write to it is ignored

def allOnes (s : State) : Nat := 2 ^ s.vl - 1
def p (s : State) (n : Nat) : Nat := if n = 0 then s.allOnes else (Sparse.get 0 s.rg.r.p n).toNat
/-- Write lanes `lanes` of pN, of those below VL, with the bits of `x`. -/
def setP (s : State) (n : Nat) (lanes x : Nat) : State :=
  if n = 0 then s
  else s.modR fun r =>
    let m := BitVec.ofNat 64 (lanes &&& s.allOnes)
    { r with p := Sparse.set 0 r.p n ((Sparse.get 0 r.p n &&& ~~~m) ||| (BitVec.ofNat 64 x &&& m)) }

/-- Lanes of the split's mask whose predicate bit is 1 (R56, R227), as a mask and as a list. -/
def active (s : State) (q : LPred) : Nat := s.mask &&& s.p q.val
def lanes (s : State) (q : LPred) : List Nat := bitsOf s.vl (s.active q)
def maskLanes (s : State) : List Nat := bitsOf s.vl s.mask

-- ## v registers (R226)

def v (s : State) (n lane : Nat) : W32 := Sparse.get 0 s.rg.r.v (64 * n + lane)
def setV (s : State) (n lane : Nat) (x : W32) : State := s.modG fun g => g.putV n lane x
/-- The value that field B gives lane `l` (R56). -/
def vk (s : State) (b : VK) (l : Nat) : W32 := match b with | .v n => s.v n l | .k n => (s.k n).truncate 32
/-- Write `f l` to the listed lanes of vN. -/
def setLanes (s : State) (n : Nat) (ls : List Nat) (f : Nat → W32) : State := ls.foldl (fun s' l => s'.setV n l (f l)) s

-- ## t registers (R207)

def tileBytes (s : State) : Nat := 128 * s.rows
def t (s : State) (n : Nat) : List Byte := padTo 0 s.tileBytes (Sparse.get [] s.rg.r.t n)
def setT (s : State) (n : Nat) (x : List Byte) : State := s.modG fun g => g.putT n x

-- ## Accumulators (R61): word j of aN

def acc (s : State) (n j : Nat) : W32 := s.rg.r.acc.get (128 * n + j)
def setAcc (s : State) (n j : Nat) (x : W32) : State :=
  s.modR fun r => { r with acc := r.acc.set (128 * n + j) x }

/-- Mark or clear register words (R25). -/
def poisonReg (s : State) (w : RegWord) : State := s.modG fun g => { g with poison := w :: g.poison.filter (· != w) }
def regPoisoned (s : State) (w : RegWord) : Bool := s.rg.poison.elem w

/-- Scoreboard marks (R52, R208). -/
def setBusy (s : State) (r : RegId) : State := s.modG fun g => { g with busy := r :: g.busy.filter (· != r) }
def clearBusy (s : State) (r : RegId) : State := s.modG fun g => { g with busy := g.busy.filter (· != r) }

end State
end Sys2Proof.Machine
end

