-- ==== Sys2Proof/Machine/Memory.lean ====
section
/-!
DEFINITION. Physical memory: the map and homes of R14 to R17, stores that wait for their merge step (R44), the writes that
dies have not applied yet (R36), poison marks (R25), sealed marks (R75) and the stamping of records (R49).
-/
namespace Sys2Proof.Machine

/-- The targets of the physical map (R14). -/
inductive PaKind | first | second | host | device | reserved
  deriving DecidableEq, Repr

def paKind (pa : Nat) : PaKind :=
  if pa < 0x008000000000 then .first
  else if 0x010000000000 ≤ pa ∧ pa < 0x020000000000 then .second
  else if 0x400000000000 ≤ pa ∧ pa < 0x400100000000 then .device
  else if 0x800000000000 ≤ pa ∧ pa < 0x1000000000000 then .host
  else .reserved

/-- Whether an address has a home: memory of a tier or of the host (R14, R17). -/
def paHasHome (pa : Nat) : Bool := match paKind pa with | .first | .second | .host => true | .device | .reserved => false

/-- The quadrant of an address's home (R15, R16, R17). -/
def homeOf (pa : Nat) : Nat :=
  match paKind pa with
  | .first => fld pa 37 2
  | .second => fld pa 38 2
  | .host => fld pa 12 2
  | .device | .reserved => 0

/-- Channel index, stack and pseudo-channel line of a first-tier address (R15). -/
def channelOf (pa : Nat) : Nat := fld pa 6 10 ^^^ fld pa 16 10 ^^^ fld pa 26 10
def stackOf (pa : Nat) : Nat := 2 * fld pa 37 2 + channelOf pa / 512
def pseudoChannelOf (pa : Nat) : Nat := channelOf pa % 512
def channelLineOf (pa : Nat) : Nat := fld pa 16 21
/-- The second-tier controller of an address within its quadrant (R16). -/
def lpddrControllerOf (pa : Nat) : Nat := fld pa 8 2 ^^^ fld pa 16 2

/-- The 64-byte line of an address. -/
def lineOf (a : Nat) : Nat := a / 64 * 64
/-- The 64 KiB page of a physical address. -/
def pageOf (a : Nat) : Nat := a / 65536

/-- The check unit in which a physical byte rests: base and size (R24, R25). -/
def checkUnit (pa : Nat) : Nat × Nat := if paKind pa = .first then (lineOf pa, 64) else (pa / 8 * 8, 8)

/-- The addresses of a run of bytes. -/
def run (a n : Nat) : List Nat := upFrom a n

/-- The canonical form of memory: addresses strictly rising, no entry equal to what an unlisted address reads as, so that equal memories
are equal data. -/
def Memory.wf (m : List Host.Cell) : Bool := Sparse.wf 0 m

namespace State

-- ## Stamps and error records (R49, R274)

/-- The time a unit stamps on an event: the count, or its previous stamp plus one (R49). -/
def stamp (s : State) (src : Nat) : State × Nat :=
  let t := max s.sid (Sparse.get 0 s.lastStamp src)
  ({ s with lastStamp := Sparse.insert s.lastStamp src (t + 1) }, t)

/-- An event record on its way to the ring writer (R276). -/
def logErr (s : State) (r : ErrRec) : State :=
  let x := s.stamp r.src
  { x.1 with errs := x.1.errs ++ [{ r with time := x.2 }] }

/-- An interrupt register that is enabled asks for a message on its vector (R421). -/
def raiseMsg (s : State) (enabled : Bool) (reg : Nat) : State := if enabled then { s with msgs := s.msgs ++ [fld reg 0 11] } else s
/-- The same for an event of a context: bit 16 CMD, 17 ERR, 18 QDROP (R421). -/
def ctxMsg (s : State) (ctx b : Nat) : State := s.raiseMsg (bitOf (s.ctx ctx).irq b) (s.ctx ctx).irq

/-- JOBTAG and GIDX of a record (R109, R274). -/
def recJobtag (r : List Byte) : Nat := ofLE ((r.drop 0x30).take 4)
def recGidx (r : List Byte) : Nat := ofLE ((r.drop 0x14).take 4)

/-- A blank record of a unit for a context. -/
def errBase (ctx : Option Nat) (src cls : Nat) : ErrRec :=
  { ctx := ctx, time := 0, src := src, cls := cls, flags := 0, sub := 0, lane := 0, vaddr := 0, paddr := 0, synd := 0, jobtag := 0,
    gidx := 0, pc := 0 }

/-- A blank record of the issuing core for its gang. -/
def errHere (s : State) (cls : Nat) : ErrRec :=
  { errBase (some s.gg.ctx) s.src cls with jobtag := recJobtag s.gg.rec_, gidx := recGidx s.gg.rec_, pc := s.pc }

-- ## Memory bytes

/-- What memory holds; the scrubbers leave zero everywhere before service (R443). -/
def memByte (s : State) (pa : Nat) : Byte := Sparse.get 0 s.mem pa
/-- The clean copy of a host line in its memory-side cache, if one is held (R427). -/
def hostLine? (s : State) (pa : Nat) : Option (List Byte) := (s.hostCopy.find? (·.1 == lineOf pa)).map (·.2)
/-- What the home answers: memory, or the clean copy of a host line (R427). -/
def byteAt (s : State) (pa : Nat) : Byte :=
  match s.hostLine? pa with
  | some l => l.getD (pa - lineOf pa) 0
  | none => s.memByte pa
def bytesAt (s : State) (pa n : Nat) : List Byte := (run pa n).map s.byteAt
def wordAt (s : State) (pa n : Nat) : Nat := ofLE (s.bytesAt pa n)

/-- Whether a byte's check unit carries the poison mark (R25). -/
def poisoned (s : State) (pa : Nat) : Bool := Sparse.get 0 s.poison (checkUnit pa).1 != 0
/-- A device read of host memory leaves a clean copy of the line at its home (R427). -/
def noteHostRead (s : State) (pa : Nat) : State :=
  if paKind pa = .host ∧ (s.hostLine? pa).isNone then
    { s with hostCopy := Sparse.insert s.hostCopy (lineOf pa) ((run (lineOf pa) 64).map s.memByte) }
  else s
/-- A device write of host memory goes through, and the copy takes it too (R427). -/
def writeHostCopy (m : Sparse (List Byte)) (ws : List (Nat × Byte)) : Sparse (List Byte) :=
  m.map fun e => (e.1, (e.2.zipIdx).map fun x =>
    match ws.reverse.find? (fun w => w.1 == e.1 + x.2) with | some w => w.2 | none => x.1)
/-- An acquire or fence at SYS scope drops every clean host line (R427). -/
def dropHostCopies (s : State) : State := { s with hostCopy := [] }
def anyPoisoned (s : State) (pa n : Nat) : Bool := (run pa n).any s.poisoned

/-- A poisoned store marks the units it touches; a clean one rewrites its bytes, and a unit with every byte rewritten is clean
again (R25). -/
def poisonByte (m : Sparse Nat) (u off size : Nat) (bad : Bool) : Sparse Nat :=
  let cur := Sparse.get 0 m u
  if bad then Sparse.set 0 m u (2 ^ size - 1)
  else if cur = 0 then m
  else Sparse.set 0 m u (setBit cur off false)

def poisonStore (m : Sparse Nat) (pa n : Nat) (bad : Bool) : Sparse Nat :=
  (run pa n).foldl (fun m a => poisonByte m (checkUnit a).1 (a - (checkUnit a).1) (checkUnit a).2 bad) m

/-- The vector clock of a die (R36). -/
def clock (s : State) (die : Nat) : List Nat := Sparse.get (List.replicate 20 0) s.clocks die

/-- A write that reaches a sealed page clears its mark first, and one that reaches a page being sealed aborts that command
(R74, R75). -/
def touchPage (s : State) (pa : Nat) : State :=
  { s with sealed_ := s.sealed_.filter (· != pageOf pa)
           seals := s.seals.map fun j => if j.pages.elem (pageOf pa) then { j with aborted := true } else j }

/-- The home applies a write of die `die` (R34, R36): memory takes the bytes, and every other die has yet to apply them. -/
def applyWrite (s : State) (die pa : Nat) (data : List Byte) (bad : Bool) : State :=
  match data with
  | [] => s
  | _ =>
    let c := s.clock die
    let c' := setNth c die (c.getD die 0 + 1)
    let r : WRec :=
      { die := die, clock := c', pa := pa, old := s.bytesAt pa data.length, new := data,
        waiting := (List.range 20).filter (· != die) }
    let s := s.touchPage pa
    { s with mem := Sparse.setAll 0 s.mem ((run pa data.length).zip data)
             hostCopy := writeHostCopy s.hostCopy ((run pa data.length).zip data)
             poison := poisonStore s.poison pa data.length bad
             clocks := Sparse.insert s.clocks die c'
             wlog := s.wlog ++ [r] }

/-- Whether two runs of bytes share one. -/
def overlaps (a n b m : Nat) : Bool := decide (a < b + m) && decide (b < a + n)

/-- Die `e` may apply record `r` now (R36), and no write it has not applied precedes `r` on a common byte (R34). -/
def canApply (s : State) (e : Nat) (r : WRec) (before : List WRec) : Bool :=
  r.waiting.elem e
    && (List.range 20).all (fun i =>
      if i = r.die then (s.clock e).getD i 0 + 1 == r.clock.getD i 0 else decide (r.clock.getD i 0 ≤ (s.clock e).getD i 0))
    && before.all (fun b => !(b.waiting.elem e && overlaps b.pa b.new.length r.pa r.new.length))

/-- Records that no die has yet to apply are forgotten. -/
def pruneLog (s : State) : State := { s with wlog := s.wlog.filter fun r => r.waiting != [] }

/-- Die `e` applies the record at an index of the log. -/
def applyRemote (s : State) (e idx : Nat) : State :=
  match nth? s.wlog idx with
  | none => s
  | some r =>
    if s.canApply e r (s.wlog.take idx) then
      let c := s.clock e
      pruneLog { s with wlog := setNth s.wlog idx { r with waiting := r.waiting.filter (· != e) }
                        clocks := Sparse.insert s.clocks e (setNth c r.die (r.clock.getD r.die 0)) }
    else s

/-- Die `e` has applied every write that any home has performed: what an atomic, or a FENCESC that completes, needs. -/
def catchUp (s : State) (e : Nat) : State :=
  let c := s.wlog.foldl (fun c r => if r.waiting.elem e then setNth c r.die (max (c.getD r.die 0) (r.clock.getD r.die 0)) else c)
    (s.clock e)
  pruneLog { s with wlog := s.wlog.map fun r => { r with waiting := r.waiting.filter (· != e) }
                    clocks := Sparse.insert s.clocks e c }

-- ## Stores that wait for a merge step (R44)

/-- Whether the key of `a` is below the key of `b` (R44). -/
def storeBelow (a b : PStore) : Bool :=
  decide (a.time < b.time) || (a.time == b.time && (decide (a.src < b.src) || (a.src == b.src &&
    (decide (a.seq < b.seq) || (a.seq == b.seq && decide (a.lane ≤ b.lane))))))

/-- Insert by ascending key, after stores of equal key. -/
def insertStore (x : PStore) : List PStore → List PStore
  | [] => [x]
  | y :: r => if storeBelow y x then y :: insertStore x r else x :: y :: r

def sortStores (l : List PStore) : List PStore := l.foldl (fun a x => insertStore x a) []

/-- The bytes one merge step covers: the line, or the aligned 128 bytes when a NODEST waits there (R222). -/
def mergeSpan (s : State) (line : Nat) : Nat × Nat :=
  if s.pend.any (fun x => x.data.length == 128 && x.pa == line / 128 * 128) then (line / 128 * 128, 128) else (line, 64)

/-- One merge step: every store that waits for the line is applied, greatest key last (R44). -/
def mergeLine (s : State) (line : Nat) : State :=
  let sp := s.mergeSpan (lineOf line)
  let hit := fun x : PStore => overlaps x.pa x.data.length sp.1 sp.2
  let now := sortStores (s.pend.filter hit)
  now.foldl (fun s x => s.applyWrite (dieOf x.src) x.pa x.data x.poison) { s with pend := s.pend.filter fun x => !hit x }

/-- The lines a run of bytes touches. -/
def linesOf (pa n : Nat) : List Nat := if n = 0 then [] else (List.range ((pa + n - 1) / 64 - pa / 64 + 1)).map fun i => 64 * (pa / 64 + i)

def mergeRange (s : State) (pa n : Nat) : State := (linesOf pa n).foldl mergeLine s

/-- A number that orders the instructions of one unit (R44). -/
def nextSeq (s : State) : State := { s with seqNo := s.seqNo + 1 }

/-- A store leaves its unit for the slice's input queue, under the present sequence number. -/
def queueStore (s : State) (src grp split lane pa : Nat) (data : List Byte) (bad : Bool) : State :=
  if data = [] ∨ paHasHome pa = false then s
  else { s with pend := s.pend ++ [{ time := s.sid, src := src, seq := s.seqNo, lane := lane, pa := pa, data := data, poison := bad,
                                     grp := grp, split := split }] }

/-- A store of a device unit, performed at its home at once, with every store that waits for its lines (R44). -/
def storeNow (s : State) (src pa : Nat) (data : List Byte) (bad : Bool) : State :=
  ((s.nextSeq).queueStore src (2 ^ 40) 0 0 pa data bad).mergeRange pa data.length

/-- The stores of one split that are not performed at their homes yet (R204). -/
def ownPending (s : State) (grp split : Nat) : List PStore := s.pend.filter fun x => x.grp == grp && x.split == split

/-- What die `e` reads at a byte: its own waiting store of greatest key, else the last write it has applied (R30, R36). -/
def dieByte (s : State) (e pa : Nat) : Byte :=
  match (sortStores (s.pend.filter fun x => dieOf x.src == e && overlaps x.pa x.data.length pa 1)).getLast? with
  | some x => x.data.getD (pa - x.pa) 0
  | none =>
    match s.wlog.find? (fun r => r.waiting.elem e && overlaps r.pa r.new.length pa 1) with
    | some r => r.old.getD (pa - r.pa) 0
    | none => s.byteAt pa

def dieBytes (s : State) (e pa n : Nat) : List Byte := (run pa n).map (s.dieByte e)

-- ## Atomic read-modify-write at the home (R41, R44)

/-- One atomic by a unit: the waiting stores to the line are merged first, `f` gives the new value if it writes. Answers the old
value. -/
def atomicAt (s : State) (src pa n : Nat) (f : Nat → Option Nat) : State × Nat :=
  let s := (s.mergeRange pa n).catchUp (dieOf src)
  let old := s.wordAt pa n
  match f old with
  | none => (s, old)
  | some x => (s.applyWrite (dieOf src) pa (leBytes n x) (s.anyPoisoned pa n), old)

end State
end Sys2Proof.Machine
end

