-- ==== Sys2Proof/Machine/Translate.lean ====
section
/-!
DEFINITION. Translation (R256 to R273) and what an access to a procedural page meets (R387 to R394): page-table walks, cached
translations, windows of a tile, and the outcome of R261 for one access.
-/
namespace Sys2Proof.Machine

/-- What an access needs of its leaf (R259). -/
inductive Need | r | w | rw | x
  deriving DecidableEq, Repr

/-- Who asks for a translation: the context, the die whose caches and quadrant count, the gang and its generator depth. -/
structure Req where
  ctx : Nat
  die : Nat
  gang : Option Nat
  depth : Nat
  deriving DecidableEq, Repr

/-- The result of a walk (R259). -/
inductive Walk
  | bad (sub level reason : Nat)
  /-- Where the leaf entry stands, the entry, and whether it maps 2 MiB. -/
  | leaf (at_ e : Nat) (big : Bool)
  deriving DecidableEq, Repr

/-- The outcome for one access (R261). -/
inductive Xl
  | ok (pa : Nat) (sm : Bool) (blk : Option (Nat × Nat))
  | trap (cls : TrapClass) (sub level reason : Nat)
  | park (page : Nat) (why : ParkWhy)
  /-- A migration starts under R265, and the requester parks. -/
  | start (page leafAt leaf : Nat) (big : Bool)
  deriving DecidableEq, Repr

-- ## Leaf fields (R258)

def leafV (e : Nat) : Bool := bitOf e 0
def leafLeaf (e : Nat) : Bool := bitOf e 1
def leafR (e : Nat) : Bool := bitOf e 4
def leafW (e : Nat) : Bool := bitOf e 5
def leafCow (e : Nat) : Bool := bitOf e 6
def leafPres (e : Nat) : Bool := bitOf e 7
def leafSm (e : Nat) : Bool := bitOf e 8
def leafProc (e : Nat) : Bool := bitOf e 9
def leafRmt (e : Nat) : Bool := bitOf e 10
def leafPin (e : Nat) : Bool := bitOf e 11
def leafPfn (e : Nat) : Nat := 65536 * fld e 16 32

/-- Size of the page a leaf maps. -/
def pageSize (big : Bool) : Nat := if big then 2 ^ 21 else 65536
/-- The virtual page of an address. -/
def vpage (va : Nat) (big : Bool) : Nat := va / pageSize big * pageSize big
/-- The physical address a leaf gives (R259). -/
def leafPa (e va : Nat) (big : Bool) : Nat := leafPfn e + va % pageSize big

/-- Whether an entry is malformed at a level (R258, R387). -/
def malformed (level e : Nat) : Bool :=
  if leafLeaf e then
    decide (level < 2) || fld e 48 16 != 0 || fld e 12 4 != 0 || fld e 2 2 != 0
      || (level == 2 && fld e 16 5 != 0)
      || (match paKind (leafPfn e) with
          | .first | .second => false
          | .host => leafProc e
          | .device | .reserved => true)
  else
    let next := 256 * fld e 8 40
    level == 3 || fld e 48 16 != 0 || fld e 2 6 != 0 || (decide (level < 2) && next % 4096 != 0) || !paHasHome next

/-- The index of a level (R257). -/
def levelIndex (level va : Nat) : Nat :=
  match level with | 0 => fld va 39 13 | 1 => fld va 30 9 | 2 => fld va 21 9 | _ => fld va 16 5

namespace State

/-- The walk below a table, `fuel` levels left (R259). The walker reads entries at their home (R257). -/
def walkFrom (s : State) (va : Nat) : Nat → Nat → Nat → Walk
  | 0, level, _ => .bad 5 level 4
  | fuel + 1, level, table =>
    let at_ := table + 8 * levelIndex level va
    let e := s.wordAt at_ 8
    if !leafV e then .bad (1 + level) level 1
    else if malformed level e then .bad 5 level 4
    else if leafLeaf e then .leaf at_ e (level == 2)
    else s.walkFrom va fuel (level + 1) (256 * fld e 8 40)

def walk (s : State) (ctx va : Nat) : Walk := s.walkFrom va 4 0 (s.ctx ctx).ptroot

/-- The cached translation of a page, if the die holds one (R260). -/
def cached (s : State) (q : Req) (va : Nat) : Option Tlb :=
  s.tlb.find? fun t => t.die == q.die && t.ctx == q.ctx && t.va == vpage va t.big

/-- The leaf an access sees: a cached one, else the walk's. -/
def seeLeaf (s : State) (q : Req) (va : Nat) : Walk :=
  match s.cached q va with
  | some t => match s.walk q.ctx va with
    | .leaf a _ _ => .leaf a t.leaf t.big
    | .bad _ _ _ => .leaf 0 t.leaf t.big
  | none => s.walk q.ctx va

/-- A walk of a valid resident leaf may leave a cached copy (R260): the model keeps one, which an eviction may drop. -/
def cacheLeaf (s : State) (q : Req) (va e : Nat) (big : Bool) : State :=
  if (s.cached q va).isSome || !leafPres e then s
  else { s with tlb := { die := q.die, ctx := q.ctx, va := vpage va big, big := big, leaf := e } :: s.tlb }

/-- Remove cached translations of a context: one page, or all (R172, R424). -/
def dropTlb (s : State) (ctx : Nat) (span : InvSpan) (va : Nat) : State :=
  { s with tlb := s.tlb.filter fun t =>
      !(t.ctx == ctx && (match span with
        | .all => true
        | .p64 => t.va == vpage va t.big
        | .p2m => decide (t.va / 2 ^ 21 = va / 2 ^ 21))) }

/-- Parked splits of the groups `here`, for whose context and some page and reason `f` holds, are called to retry (R263). -/
def wakeIn (s : State) (here : Group → Bool) (f : Nat → Nat → ParkWhy → Bool) : State :=
  { s with groups := s.groups.map fun x =>
      let c := (s.gang x.2.gang).ctx
      if here x.2 then
        (x.1, { x.2 with splits := x.2.splits.map fun y =>
          (y.1, { y.2 with waits := y.2.waits.map fun w => match w with
            | .mem r => if r.why.any fun z => f c z.1 z.2 then .mem { r with woken := true } else w
            | _ => w }) })
      else x }
def wake (s : State) (f : Nat → Nat → ParkWhy → Bool) : State := s.wakeIn (fun _ => true) f
/-- A frame pushed into the pool of a quadrant calls the requesters there that wait for a copy (R263). -/
def wakeFrames (s : State) (q : Nat) : State := s.wakeIn (fun g => quadrantOf (dieOf g.core) == q) fun _ _ why => why == .cow

/-- Whether an invalidation of a span covers an address (R172, R424). -/
def spanCovers (span : InvSpan) (va a : Nat) : Bool :=
  match span with
  | .all => true
  | .p64 => a / 65536 == va / 65536
  | .p2m => a / 2 ^ 21 == va / 2 ^ 21
/-- The parked requesters of a context on covered pages retry. A page is held by its first address; one of 2 MiB is covered with any of
its 64 KiB pages. -/
def wakePage (s : State) (ctx : Nat) (span : InvSpan) (va : Nat) : State :=
  s.wake fun c a why => c == ctx && (spanCovers span va a || (span == .p64 && a % 2 ^ 21 == 0 && a / 2 ^ 21 == va / 2 ^ 21)
    || (match why with | .block _ _ => true | _ => false))

-- ## Procedural ranges (R387 to R394)

def blockKey (r b : Nat) : Nat := 2 ^ 40 * r + b
def Block.zero : Block := { st := .empty, dirty := false, code := 0, use := 0 }
def block (s : State) (r b : Nat) : Block := Sparse.get Block.zero s.blocks (blockKey r b)

/-- The loaded range of a context that covers an address, and the block there. -/
def rangeAt (s : State) (ctx va : Nat) : Option (Nat × Nat) :=
  match s.ranges.find? (fun x => x.2.ctx == ctx && decide (x.2.vbase ≤ va) && decide (va < x.2.vbase + x.2.len)) with
  | some x => some (x.1, (va - x.2.vbase) / 2 ^ x.2.bsize)
  | none => none

def inflightOf (s : State) (r b : Nat) : Option InFlight := s.inflight.find? fun f => f.range == r && f.blk == b

/-- Whether a gang is the generator of a block (R394). -/
def isGenerator (s : State) (gang : Option Nat) (r b : Nat) : Bool :=
  match s.inflightOf r b, gang with
  | some f, some g => f.gang == some g
  | _, _ => false

/-- The blocks on which a gang's splits are parked. -/
def parkedBlocks (s : State) (gang : Nat) : List (Nat × Nat) :=
  (s.groups.filter fun x => x.2.gang == gang).flatMap fun x => x.2.splits.flatMap fun y =>
    y.2.waits.flatMap fun w => match w with
      | .mem r => r.why.filterMap fun z => match z.2 with | .block a b => some (a, b) | _ => none
      | _ => []

/-- Whether the generator of (r, b) is parked, directly or through a chain of generators, on a block that `gang` fills (R394). -/
def fillCycle (s : State) (gang : Nat) : Nat → Nat → Nat → Bool
  | 0, _, _ => false
  | fuel + 1, r, b =>
    match s.inflightOf r b with
    | some f => match f.gang with
      | some g => (s.parkedBlocks g).any fun x => s.isGenerator (some gang) x.1 x.2 || s.fillCycle gang fuel x.1 x.2
      | none => false
    | none => false

/-- An access to a procedural page (R387, R392, R394). -/
def procOutcome (s : State) (q : Req) (va pa : Nat) : Xl :=
  match s.rangeAt q.ctx va with
  | none => .trap .page 6 0 0
  | some (r, b) =>
    let bl := s.block r b
    match bl.st with
    | .filled => .ok pa false (some (r, b))
    | .failed => .trap .fill bl.code 0 0
    | .empty =>
      if q.depth = 3 then .trap .recurse 1 0 0 else .park va (.block r b)
    | .filling =>
      if s.isGenerator q.gang r b then .ok pa false none
      else if q.depth = 3 then .trap .recurse 1 0 0
      else if (match q.gang with | some g => decide (0 < q.depth) && s.fillCycle g 8 r b | none => false) then .trap .recurse 2 0 0
      else .park va (.block r b)

-- ## Migration and pinning (R265, R268, R273)

def pool (s : State) (q : Nat) : Pool := Sparse.get Pool.zero s.pools q
def setPool (s : State) (q : Nat) (p : Pool) : State := { s with pools := Sparse.insert s.pools q p }
/-- The 2 MiB region of a physical address (R265). -/
def regionOf (pa : Nat) : Nat := pa / 2 ^ 21
def region (s : State) (n : Nat) : Region := Sparse.get Region.zero s.regions n
def setRegion (s : State) (n : Nat) (r : Region) : State := { s with regions := Sparse.insert s.regions n r }

/-- Whether a frame is named by a window table or by a withheld store of a tile (R273). -/
def windowNames (s : State) (frame size : Nat) : Bool :=
  s.groups.any fun x =>
    x.2.tile.wins.any (fun w => overlaps w.pbase w.len frame size)
      || x.2.tile.swb.any (fun e => match e with
          | .store pa d _ _ _ => overlaps pa d.length frame size
          | .atomic pa _ _ _ => overlaps pa 8 frame size
          | .boundary _ => false)

def framePages (frame size : Nat) : List Nat := upFrom (pageOf frame) (size / 65536)

/-- Whether hardware may move the page of a leaf at all (R265). -/
def movable (s : State) (e : Nat) (big : Bool) : Bool :=
  let f := leafPfn e
  !leafPin e && !leafRmt e && !leafProc e
    && !(framePages f (pageSize big)).any (fun p => s.sealed_.elem p || s.pinned.elem p || s.seals.any fun j => j.pages.elem p)
    && !s.windowNames f (pageSize big)
    && (match (s.region (regionOf f)).pinnedTil with | some t => decide (t ≤ s.sid) | none => true)

def hasFrame (p : Pool) (big : Bool) : Bool := if big then p.free2m != [] else p.free64 != []

/-- Whether an access from quadrant `q` starts a migration of the page (R265), the thrash detector apart. -/
def migrates (s : State) (q e : Nat) (big : Bool) : Bool :=
  let p := s.pool q
  let f := leafPfn e
  s.movable e big && hasFrame p big && decide (p.ret.length < 1024)
    && ((paKind f != .first && p.en)
      || (paKind f == .first && homeOf f != q && p.rem && decide (p.thresh ≤ Sparse.get 0 (s.region (regionOf f)).count q)))

/-- Whether a page is being copied or migrated (R261). -/
def moving (s : State) (ctx va : Nat) : Bool :=
  s.moves.any fun m => m.ctx == ctx && m.va == vpage va m.big

/-- The outcome of one paged access (R197 check 1, R259, R261). -/
def xlate (s : State) (q : Req) (va : Nat) (need : Need) : Xl :=
  if 2 ^ 52 ≤ va then .trap .perm 2 0 0
  else match s.seeLeaf q va with
    | .bad sub level reason => .trap .page sub level reason
    | .leaf at_ e big =>
      let okR := need == .w || leafR e
      let okW := need == .r || need == .x || leafW e
      let wr := need == .w || need == .rw
      if !(okR && okW) then .trap .perm 4 (if big then 2 else 3) 5
      else if leafProc e then s.procOutcome q va (leafPa e va big)
      else if !leafPres e then .park (vpage va big) .notResident
      else if wr && leafCow e then .park (vpage va big) .cow
      else if s.moving q.ctx va then .park (vpage va big) .migrating
      else if need != .x && s.migrates (quadrantOf q.die) e big then .start (vpage va big) at_ e big
      else .ok (leafPa e va big) (leafSm e) none

/-- Count an access for the rebalance rule: `q` gains one, and an access by the region's own quadrant clears the counts (R265). -/
def noteAccess (s : State) (q pa : Nat) : State :=
  if paKind pa = .first then
    let n := regionOf pa
    let r := s.region n
    if homeOf pa = q then (if r.count = [] then s else s.setRegion n { r with count := [] })
    else s.setRegion n { r with count := Sparse.insert r.count q (Sparse.get 0 r.count q + 1) }
  else s

-- ## What parking does (R261, R264, R265, R268)

def serviceRec (s : State) (q : Req) (src va reason level : Nat) : State :=
  let g := match q.gang with | some n => (s.gang n).rec_ | none => []
  s.logErr { errBase (some q.ctx) src 0x10 with vaddr := va, synd := level % 16 + 16 * reason, jobtag := recJobtag g, gidx := recGidx g }

/-- One SERVICE record per page and context while the page stays not resident (R261). -/
def noteService (s : State) (q : Req) (src page : Nat) : State :=
  let c := s.ctx q.ctx
  if c.serviced.elem page then s
  else (s.setCtx q.ctx { c with serviced := page :: c.serviced }).serviceRec q src page 2 3

def takeFrame (p : Pool) (big : Bool) : Pool × Option Nat :=
  if big then (match p.free2m with | [] => (p, none) | f :: r => ({ p with free2m := r }, some f))
  else (match p.free64 with | [] => (p, none) | f :: r => ({ p with free64 := r }, some f))

def giveFrame (p : Pool) (big : Bool) (f : Nat) : Pool :=
  if big then { p with free2m := p.free2m ++ [f] } else { p with free64 := p.free64 ++ [f] }

/-- Steps 1 and 2 of R264: take a frame and park the page's accesses; with no frame, a SERVICE record, which a retry does not
repeat (R263). -/
def startCow (s : State) (q : Req) (src page : Nat) (quiet : Bool) : State :=
  if s.moving q.ctx page then s
  else match s.seeLeaf q page with
    | .bad _ _ _ => s
    | .leaf at_ e big =>
      let qd := quadrantOf q.die
      match takeFrame (s.pool qd) big with
      | (_, none) => if quiet then s else s.serviceRec q src page 3 (if big then 2 else 3)
      | (p, some f) =>
        { s.setPool qd p with
            moves := s.moves ++ [{ ctx := q.ctx, va := page, big := big, quadrant := qd, leafAt := at_, leaf := e, src := leafPfn e,
                                   dst := f, cow := true }] }

/-- Starts of migrations in the region within the context's window (R268). -/
def recentStarts (s : State) (ctx n : Nat) : List Nat :=
  (s.region n).starts.filter fun t => decide (s.sid < t + (s.ctx ctx).thrwin.toNat)

/-- At most 4,096 regions are tracked on a base die; the one whose last migration is oldest loses its history (R268). -/
def trimRegions (s : State) (q : Nat) : State :=
  let mine := s.regions.filter fun x => homeOf (x.1 * 2 ^ 21) == q && x.2.starts != []
  if mine.length ≤ 4096 then s
  else
    let last := fun (x : Nat × Region) => x.2.starts.foldl max 0
    match mine with
    | [] => s
    | x :: r =>
      let o := r.foldl (fun o y => if last y < last o then y else o) x
      s.setRegion o.1 { o.2 with starts := [], pinnedTil := none }

/-- Step 1 of R267, or the pin of R268 with its THRASH record. Answers whether the migration started. -/
def startMigration (s : State) (q : Req) (src page at_ e : Nat) (big : Bool) : State × Bool :=
  let n := regionOf (leafPfn e)
  let c := s.ctx q.ctx
  let r := s.region n
  if c.thrn.toNat ≤ (s.recentStarts q.ctx n).length then
    let s := s.setRegion n { r with pinnedTil := some (s.sid + c.thrpin.toNat) }
    (s.logErr { errBase (some q.ctx) src 0x16 with vaddr := page, paddr := leafPfn e }, false)
  else
    let qd := quadrantOf q.die
    match takeFrame (s.pool qd) big with
    | (_, none) => (s, false)
    | (p, some f) =>
      let s := (s.setPool qd p).setRegion n { r with starts := r.starts ++ [s.sid], count := [] }
      let m : PageMove :=
        { ctx := q.ctx, va := page, big := big, quadrant := qd, leafAt := at_, leaf := e, src := leafPfn e, dst := f, cow := false }
      (State.trimRegions { s with moves := s.moves ++ [m] } (homeOf (leafPfn e)), true)

-- ## Reads and writes of device units through a context's tables

/-- A read of a unit that needs every page at once: nothing when some byte is not readable now. -/
def unitBytes (s : State) (q : Req) (va n : Nat) (need : Need) : Option (List Nat) :=
  (run va n).mapM fun a => match s.xlate q a need with | .ok pa _ _ => some pa | .start _ _ e big => some (leafPa e a big) | _ => none

def unitRead (s : State) (q : Req) (va n : Nat) : Option (List Byte) := (s.unitBytes q va n .r).map fun l => l.map s.byteAt

/-- Whether a page can take a unit's write at once: valid, resident, writable, not COW, PROC or SM, and not moving (R107, R276). -/
def ringWritable (s : State) (ctx va : Nat) : Option Nat :=
  match s.walk ctx va with
  | .leaf _ e big =>
    if leafW e && leafPres e && !leafCow e && !leafProc e && !leafSm e && !s.moving ctx va then some (leafPa e va big) else none
  | .bad _ _ _ => none

-- ## Windows (R270)

def winHits (w : Win) (a n : Nat) : Bool := w.len != 0 && decide (w.vbase ≤ a) && decide (a + n ≤ w.vbase + w.len)

/-- A tile's access (R270, R271): WINDOW outside every window, PERM 4 against the entry's permissions. -/
def winXlate (wins : List Win) (a n : Nat) (need : Need) : Xl :=
  if 2 ^ 52 ≤ a then .trap .window 0 0 0
  else match wins.find? (fun w => winHits w a n) with
    | none => .trap .window 0 0 0
    | some w =>
      let okR := need == .w || bitOf w.perm 0
      let okW := need == .r || need == .x || bitOf w.perm 1
      if okR && okW then .ok (w.pbase + (a - w.vbase)) false none else .trap .perm 4 0 5

end State
end Sys2Proof.Machine
end

