-- ==== Sys2Proof/Machine/Gov.lean ====
section
/-!
DEFINITION. The frames of the Meridian governor (R404 to R417): plans, decisions, the frame record and the close.
-/
namespace Sys2Proof.Machine

/-- The governor (R9, R412). -/
def govSrc : Nat := 0x813

/-- The step word (R406). -/
def stepWord (handle coef next : Nat) : Nat := handle * 2 ^ 40 + coef * 2 ^ 32 + next
def endWord (handle : Nat) : Nat := 2 ^ 63 + handle * 2 ^ 40 + 0xFF

/-- What a request to the governor gives. -/
inductive GovRes
  | trap (t : TrapClass) (sub : Nat) (addr : Nat)
  | word (s : State) (w : Nat)

-- ## Plans (R405)

def planStep (b : List Byte) : PlanStep :=
  { est := ofLE (b.take 4), drop := bitOf (ofLE ((b.drop 4).take 1)) 0, rank := ofLE ((b.drop 5).take 1)
    coef := ofLE ((b.drop 6).take 1), subst := ofLE ((b.drop 7).take 1) }
/-- The entry's reserved bits are 0, and a step that may not be dropped has rank 0. -/
def planStepOk (b : List Byte) : Bool :=
  decide (ofLE ((b.drop 4).take 1) < 2) && ofLE (b.drop 8) == 0 && ((planStep b).drop || (planStep b).rank == 0)

/-- Ranks are unique among droppable steps. -/
def ranksUnique : List PlanStep → Bool
  | [] => true
  | x :: r => (!x.drop || r.all fun y => !y.drop || y.rank != x.rank) && ranksUnique r

-- ## Deciding (R410)

/-- Σ EST over steps from b that are not dropped. -/
def planSum (steps : List PlanStep) (dropped b : Nat) : Nat :=
  ((steps.zipIdx).filter fun x => decide (b ≤ x.2) && !bitOf dropped x.2).foldl (fun a x => a + x.1.est) 0

/-- The droppable step of least rank from b that is not dropped. -/
def nextDrop (steps : List PlanStep) (dropped b : Nat) : Option (Nat × PlanStep) :=
  ((steps.zipIdx).filter fun x => decide (b ≤ x.2) && !bitOf dropped x.2 && x.1.drop).foldl
    (fun o x => match o with | none => some (x.2, x.1) | some y => if x.1.rank < y.2.rank then some (x.2, x.1) else o) none

/-- Drop steps while the slack is negative: DROPPED, the slack, and whether LATE is set. -/
def dropLoop (steps : List PlanStep) (b : Nat) : Nat → Nat → Int → Nat × Int × Bool
  | 0, d, sl => (d, sl, false)
  | fuel + 1, d, sl =>
    if 0 ≤ sl then (d, sl, false)
    else match nextDrop steps d b with
      | none => (d, sl, true)
      | some (i, st) => dropLoop steps b fuel (setBit d i true) (sl + st.est)

/-- Whether the answer closes the frame, and the answer. -/
def decideFrame (f : Frame) (b now : Nat) : Frame × Bool × Nat :=
  let sl : Int := (f.deadline : Int) - f.margin - now - planSum f.steps f.dropped b
  let r := dropLoop f.steps b 33 f.dropped sl
  let f := { f with dropped := r.1, slack := r.2.1, late := f.late || r.2.2 }
  match (upFrom b (f.steps.length - b)).find? fun n => !bitOf f.dropped n with
  | none => (f, true, endWord f.handle)
  | some n =>
    let st := f.steps.getD n { est := 0, drop := false, rank := 0, coef := 0, subst := 0 }
    let coef := if 0 < n ∧ bitOf f.dropped (n - 1) then st.subst else st.coef
    ({ f with run := setBit f.run n true, next := n, start := now }, false, stepWord f.handle coef n)

-- ## The frame record (R407)

def frameRecord (f : Frame) : List Byte :=
  leBytes 8 f.armt ++ leBytes 8 f.closet ++ leBytes 8 f.deadline ++ leBytes 8 (wrapTo 64 f.slack) ++ leBytes 4 f.dropped
    ++ leBytes 4 f.run ++ leBytes 1 f.steps.length ++ leBytes 1 f.next
    ++ leBytes 1 (bit f.open_ + 2 * bit f.late + 4 * bit f.ord + 8 * bit f.abandoned) ++ leBytes 1 f.handle ++ leBytes 2 f.tag
    ++ leBytes 18 0

/-- EST of each step at its place in the plan. -/
def estWrites (f : Frame) : List (Nat × List Byte) := (f.steps.zipIdx).map fun x => (f.plan + 0x40 + 16 * x.2, leBytes 4 x.1.est)

namespace State

/-- Whether a page is ordinary, resident, readable and writable (R405, R414). -/
def ordinary (s : State) (ctx va : Nat) : Option Nat :=
  match s.walk ctx va with
  | .leaf _ e _ => if leafR e then s.ringWritable ctx va else none
  | .bad _ _ _ => none

def putFrame (s : State) (f : Frame) : State :=
  { s with frames := s.frames.map fun g => if g.no == f.no then f else g }

/-- The writes of a close: all of them, or none and a PERM record with subcode 8 (R412). -/
def closeWrites (s : State) (f : Frame) : State :=
  let ws := (f.recaddr, frameRecord f) :: (if f.ord then [] else estWrites f)
  let pages := f.recaddr :: (estWrites f).map (·.1)
  if pages.all fun a => (s.ordinary f.ctx a).isSome then
    ws.foldl (fun s w => match s.ringWritable f.ctx w.1 with | some pa => s.storeNow govSrc pa w.2 false | none => s) s
  else
    let r := (s.gang f.gang).rec_
    s.logErr { errBase (some f.ctx) govSrc 0x09 with sub := 8, jobtag := recJobtag r, gidx := recGidx r }

/-- Close a frame (R412): `now` is CLOSET, `vnow` the now of SLACK (R415). -/
def closeFrame (s : State) (f : Frame) (now vnow : Nat) (abandoned write : Bool) : State :=
  let f := { f with open_ := false, closet := now, slack := (f.deadline : Int) - f.margin - vnow, abandoned := abandoned,
                    next := if abandoned then f.next else 0xFF }
  let s := s.putFrame f
  if write then s.closeWrites f else s

/-- The virtual now of ordered mode (R415). -/
def virtualNow (f : Frame) : Nat :=
  f.armt + (f.answers.foldl (fun a x => a + (f.steps.getD x.1 { est := 0, drop := false, rank := 0, coef := 0, subst := 0 }).est) 0)

/-- The open frames of a gang that ends close abandoned, and its frames are free (R417). -/
def dropFrames (s : State) (gang : Nat) (write : Bool) : State :=
  let mine := s.frames.filter fun f => f.gang == gang && f.open_
  let s := mine.foldl (fun s f => s.closeFrame f s.sid (if f.ord then virtualNow f else s.sid) true write) s
  { s with frames := s.frames.filter fun f => f.gang != gang }

/-- Record an answer: `at_` none is the arm's, else the report of that step. -/
def answer (s : State) (f : Frame) (at_ : Option Nat) (b now sidNow : Nat) : GovRes :=
  let r := decideFrame f b now
  let f := match at_ with
    | none => { r.1 with atArm := r.2.2 }
    | some st => { r.1 with answers := Sparse.insert r.1.answers st r.2.2 }
  let s := s.putFrame f
  .word (if r.2.1 then s.closeFrame f sidNow now false true else s) r.2.2

/-- A free place for a new frame of a gang: the oldest closed frame of a gang that keeps four makes room (R404). -/
def makePlace (s : State) (gang : Nat) : Option State :=
  let mine := s.frames.filter fun f => f.gang == gang
  if 4 ≤ mine.length then
    match mine.filter fun f => !f.open_ with
    | [] => none
    | f :: _ => some { s with frames := s.frames.filter fun g => g.no != f.no }
  else if 256 ≤ s.frames.length then none
  else some s

/-- GOVARM (R409, R414). -/
def govArm (s : State) (gang ctx ka now : Nat) (ord : Bool) : GovRes :=
  let p := fld ka 0 52
  let tag := fld ka 52 12
  if p % 64 ≠ 0 then .trap .align 4 p
  else match s.frames.find? fun f => f.gang == gang && f.plan == p && f.tag == tag with
    | some f => .word s f.atArm
    | none =>
      match s.ordinary ctx p with
      | none => .trap .perm 8 p
      | some pa =>
        let h := s.bytesAt pa 64
        let nstep := ofLE (h.take 1)
        let budget := ofLE ((h.drop 4).take 4)
        let recaddr := ofLE ((h.drop 0x10).take 8)
        let reserved := ofLE ((h.drop 1).take 3) + ofLE ((h.drop 0xC).take 4) + ofLE (h.drop 0x18)
        if nstep = 0 ∨ 32 < nstep ∨ budget = 0 ∨ reserved ≠ 0 ∨ recaddr % 64 ≠ 0 then .trap .illegal 18 0
        else
          let ents := (List.range nstep).map fun i => p + 0x40 + 16 * i
          let need := if recaddr ≤ p then recaddr :: ents else ents ++ [recaddr]
          match need.find? fun a => (s.ordinary ctx a).isNone with
          | some a => .trap .perm 8 a
          | none =>
            let raw := ents.map fun a => match s.ordinary ctx a with | some pa => s.bytesAt pa 16 | none => []
            if !(raw.all planStepOk && ranksUnique (raw.map planStep)) then .trap .illegal 18 0
            else match s.makePlace gang with
              | none => .trap .illegal 19 0
              | some s =>
                let handle := ((List.range 256).find? fun h => s.frames.all fun f => f.handle != h).getD 0
                let f : Frame :=
                  { gang := gang, ctx := ctx, handle := handle, no := s.frameNo, plan := p, tag := tag, budget := budget
                    margin := ofLE ((h.drop 8).take 4), recaddr := recaddr, steps := raw.map planStep, armt := now, closet := 0
                    deadline := now + budget, slack := 0, dropped := 0, run := 0, next := 0, start := now, open_ := true, late := false
                    ord := ord, abandoned := false, atArm := 0, answers := [] }
                State.answer { s with frames := s.frames ++ [f], frameNo := s.frameNo + 1 } f none 0 now now

/-- A kept frame by handle. -/
def keptFrame (s : State) (gang ka : Nat) : Option Frame := s.frames.find? fun f => f.gang == gang && f.handle == fld ka 40 8

/-- GOVSTEP (R411). -/
def govStep (s : State) (gang ka now : Nat) : GovRes :=
  match s.keptFrame gang ka with
  | none => .trap .illegal 19 0
  | some f =>
    let st := fld ka 0 8
    if bitOf ka 63 || !bitOf f.run st || decide (32 ≤ st) then .trap .illegal 20 0
    else match f.answers.find? (·.1 == st) with
      | some a => .word s a.2
      | none =>
        let m := min (now - f.start) (2 ^ 32 - 1)
        let f := if f.ord then f
          else { f with steps := (f.steps.zipIdx).map fun x => if x.2 = st then { x.1 with est := (7 * x.1.est + m) / 8 } else x.1 }
        let vnow := if f.ord then virtualNow { f with answers := Sparse.insert f.answers st 0 } else now
        s.answer f (some st) (st + 1) vnow now

/-- GOVQ (R413). -/
def govQuery (s : State) (gang ka n : Nat) : GovRes :=
  match s.keptFrame gang ka with
  | none => .trap .illegal 19 0
  | some f => .word s (ofLE (((frameRecord f).drop (8 * n)).take 8))

end State
end Sys2Proof.Machine
end

