-- ==== Sys2Proof/Decode.lean ====
section
/-!
DEFINITION. Reading one slot word (R50 to R59 and the encoding tables of the engine chapters), and after it the encoder.
A word that the sealing engine rejects by itself is an error carrying the reason code of R58 or R72. Where one word offends
several rules of one step of R70, reserved fields (0x2001) are reported before values (0x2007).
-/
namespace Sys2Proof

/-- A decoded value, or the reason code of R58 or R72. -/
abbrev Dec := Except Nat

/-- Low fields first: the fields of a word, given their widths. -/
def unpack : List Nat → Nat → List Nat
  | [], _ => []
  | n :: r, w => w % 2 ^ n :: unpack r (w / 2 ^ n)

/-- Low fields first: the word that holds the given (width, value) fields. -/
def pack : List (Nat × Nat) → Nat
  | [] => 0
  | (n, v) :: r => v + 2 ^ n * pack r

/-- Field widths of the forms of R55, from bit 0 up. -/
def wCB : List Nat := [19, 2, 4, 6, 1]
def wCG : List Nat := [8, 5, 6, 6, 6, 1]
def wKA : List Nat := [6, 6, 6, 6, 2, 6]
def wKI : List Nat := [14, 6, 6, 6]
def wKI20 : List Nat := [20, 6, 6]
def wVA : List Nat := [7, 6, 6, 2, 2, 3, 6]
def wVI : List Nat := [13, 6, 2, 2, 3, 6]
def wMO : List Nat := [7, 6, 6, 1, 3, 3, 6]
def wMT : List Nat := [6, 6, 5, 1, 2, 6, 6]
def wMX : List Nat := [12, 1, 5, 4, 4, 6]
def wST : List Nat := [5, 6, 6, 5, 4, 6]
def wSC : List Nat := [7, 6, 6, 2, 5, 6]
def wXF : List Nat := [6, 6, 6, 2, 6, 6]

-- ## Operand fields (R56)

def k6 (n : Nat) : KReg := Fin.ofNat 64 n
def v6 (n : Nat) : VReg := Fin.ofNat 64 n
def p4 (n : Nat) : PReg := Fin.ofNat 16 n
def p2 (n : Nat) : LPred := Fin.ofNat 4 n
def t5 (n : Nat) : TReg := Fin.ofNat 32 n
def a4 (n : Nat) : AReg := Fin.ofNat 16 n
def s4 (n : Nat) : SReg := Fin.ofNat 16 n

/-- Field B of R56: bit 6 selects a k register. -/
def VK.ofCode (n : Nat) : VK := if n < 64 then .v (v6 n) else .k (k6 n)
def VK.code : VK → Nat
  | .v n => n.val
  | .k n => 64 + n.val

def KWidth.ofCode? : Nat → Option KWidth
  | 0 => some .d | 1 => some .w | _ => none
def KWidth.code : KWidth → Nat
  | .d => 0 | .w => 1

def KCond.ofCode? : Nat → Option KCond
  | 0 => some .eq | 1 => some .ne | 2 => some .lt | 3 => some .ge | 4 => some .ltu | 5 => some .geu | 6 => some .le
  | 7 => some .gt | 8 => some .leu | 9 => some .gtu | _ => none
def KCond.code : KCond → Nat
  | .eq => 0 | .ne => 1 | .lt => 2 | .ge => 3 | .ltu => 4 | .geu => 5 | .le => 6 | .gt => 7 | .leu => 8 | .gtu => 9

def BrCond.ofCode? : Nat → Option BrCond
  | 0 => some .any | 1 => some .all | 2 => some .none | _ => Option.none
def BrCond.code : BrCond → Nat
  | .any => 0 | .all => 1 | .none => 2

def LaneType.ofCode? : Nat → Option LaneType
  | 0 => some .i32 | 1 => some .u32 | 2 => some .f32 | 3 => some .f16x2 | 4 => some .bf16x2 | 5 => some .i16x2
  | 6 => some .i8x4 | 7 => some .f8x4 | _ => none
def LaneType.code : LaneType → Nat
  | .i32 => 0 | .u32 => 1 | .f32 => 2 | .f16x2 => 3 | .bf16x2 => 4 | .i16x2 => 5 | .i8x4 => 6 | .f8x4 => 7

def IntType.ofCode? : Nat → Option IntType
  | 0 => some .i32 | 1 => some .u32 | 5 => some .i16x2 | 6 => some .i8x4 | _ => none
def IntType.code : IntType → Nat
  | .i32 => 0 | .u32 => 1 | .i16x2 => 5 | .i8x4 => 6

def SIntType.ofCode? : Nat → Option SIntType
  | 0 => some .i32 | 5 => some .i16x2 | 6 => some .i8x4 | _ => none
def SIntType.code : SIntType → Nat
  | .i32 => 0 | .i16x2 => 5 | .i8x4 => 6

def FltType.ofCode? : Nat → Option FltType
  | 2 => some .f32 | 3 => some .f16x2 | 4 => some .bf16x2 | _ => none
def FltType.code : FltType → Nat
  | .f32 => 2 | .f16x2 => 3 | .bf16x2 => 4

def RedType.ofCode? : Nat → Option RedType
  | 0 => some .i32 | 1 => some .u32 | 2 => some .f32 | _ => none
def RedType.code : RedType → Nat
  | .i32 => 0 | .u32 => 1 | .f32 => 2

def RM.ofCode? : Nat → Option RM
  | 0 => some .rne | 1 => some .rtz | 2 => some .rdn | 3 => some .rup | _ => none
def RM.code : RM → Nat
  | .rne => 0 | .rtz => 1 | .rdn => 2 | .rup => 3

def RMode.ofCode? : Nat → Option RMode
  | 0 => some (.det .rne) | 1 => some (.det .rtz) | 2 => some (.det .rdn) | 3 => some (.det .rup) | 4 => some .sr | _ => none
def RMode.code : RMode → Nat
  | .det r => r.code | .sr => 4

def ICond.ofCode? : Nat → Option ICond
  | 0 => some .eq | 1 => some .ne | 2 => some .lt | 3 => some .le | 4 => some .gt | 5 => some .ge | _ => none
def ICond.code : ICond → Nat
  | .eq => 0 | .ne => 1 | .lt => 2 | .le => 3 | .gt => 4 | .ge => 5

def FCond.ofCode? : Nat → Option FCond
  | 0 => some .eq | 1 => some .ne | 2 => some .lt | 3 => some .le | 4 => some .gt | 5 => some .ge | 6 => some .un
  | 7 => some .ord | _ => none
def FCond.code : FCond → Nat
  | .eq => 0 | .ne => 1 | .lt => 2 | .le => 3 | .gt => 4 | .ge => 5 | .un => 6 | .ord => 7

def RedOp.ofCode? : Nat → Option RedOp
  | 0 => some .add | 1 => some .min | 2 => some .max | 3 => some .and | 4 => some .or | 5 => some .xor | _ => none
def RedOp.code : RedOp → Nat
  | .add => 0 | .min => 1 | .max => 2 | .and => 3 | .or => 4 | .xor => 5

def MoviKind.ofCode? : Nat → Option MoviKind
  | 0 => some .sx | 1 => some .t32 | 2 => some .t16 | _ => none
def MoviKind.code : MoviKind → Nat
  | .sx => 0 | .t32 => 1 | .t16 => 2

def ShufKind.ofCode? : Nat → Option ShufKind
  | 0 => some .rot | 1 => some .xor | 2 => some .rev | _ => none
def ShufKind.code : ShufKind → Nat
  | .rot => 0 | .xor => 1 | .rev => 2

def VoteKind.ofCode? : Nat → Option VoteKind
  | 0 => some .any | 1 => some .all | 2 => some .uni | _ => none
def VoteKind.code : VoteKind → Nat
  | .any => 0 | .all => 1 | .uni => 2

def ActKind.ofCode? : Nat → Option ActKind
  | 0 => some .rank | 1 => some .count | 2 => some .lo | 3 => some .hi | _ => none
def ActKind.code : ActKind → Nat
  | .rank => 0 | .count => 1 | .lo => 2 | .hi => 3

def QFmt.ofCode? : Nat → Option QFmt
  | 0 => some .e4m3 | 1 => some .e5m2 | 2 => some .e2m3 | 3 => some .e3m2 | 4 => some .e2m1 | 5 => some .f1
  | 6 => some .f2 | 7 => some .f3 | _ => none
def QFmt.code : QFmt → Nat
  | .e4m3 => 0 | .e5m2 => 1 | .e2m3 => 2 | .e3m2 => 3 | .e2m1 => 4 | .f1 => 5 | .f2 => 6 | .f3 => 7

def MWidth.ofCode? : Nat → Option MWidth
  | 0 => some .b | 1 => some .sb | 2 => some .h | 3 => some .sh | 4 => some .w | 5 => some .sw | 6 => some .d | _ => none
def MWidth.code : MWidth → Nat
  | .b => 0 | .sb => 1 | .h => 2 | .sh => 3 | .w => 4 | .sw => 5 | .d => 6

def SWidth.ofCode? : Nat → Option SWidth
  | 0 => some .b | 2 => some .h | 4 => some .w | 6 => some .d | _ => none
def SWidth.code : SWidth → Nat
  | .b => 0 | .h => 2 | .w => 4 | .d => 6

def AcqWidth.ofCode? : Nat → Option AcqWidth
  | 4 => some .w | 5 => some .sw | 6 => some .d | _ => none
def AcqWidth.code : AcqWidth → Nat
  | .w => 4 | .sw => 5 | .d => 6

/-- STL takes .W and .D only (R194). -/
def stlWidth? : Nat → Option Bool
  | 4 => some false | 6 => some true | _ => none

def Hint.ofCode? : Nat → Option Hint
  | 0 => some .none | 1 => some .na | 2 => some .ro | 3 => some .ef | _ => Option.none
def Hint.code : Hint → Nat
  | .none => 0 | .na => 1 | .ro => 2 | .ef => 3

def SHint.ofCode? : Nat → Option SHint
  | 0 => some .none | 1 => some .na | 3 => some .ef | _ => Option.none
def SHint.code : SHint → Nat
  | .none => 0 | .na => 1 | .ef => 3

def Scope.ofCode? : Nat → Option Scope
  | 0 => some .group | 1 => some .gang | 2 => some .core | 3 => some .die | 4 => some .pkg | 5 => some .sys | _ => none
def Scope.code : Scope → Nat
  | .group => 0 | .gang => 1 | .core => 2 | .die => 3 | .pkg => 4 | .sys => 5

def AtomOp.ofCode? : Nat → Option AtomOp
  | 0 => some .add | 1 => some .min | 2 => some .max | 3 => some .and | 4 => some .or | 5 => some .xor | 6 => some .exch
  | _ => none
def AtomOp.code : AtomOp → Nat
  | .add => 0 | .min => 1 | .max => 2 | .and => 3 | .or => 4 | .xor => 5 | .exch => 6

def AtomW.ofCode? : Nat → Option AtomW
  | 0 => some .w | 1 => some .uw | 2 => some .d | 3 => some .ud | _ => none
def AtomW.code : AtomW → Nat
  | .w => 0 | .uw => 1 | .d => 2 | .ud => 3

def AtomFOp.ofCode? : Nat → Option AtomFOp
  | 0 => some .fadd | 1 => some .fmin | 2 => some .fmax | _ => none
def AtomFOp.code : AtomFOp → Nat
  | .fadd => 0 | .fmin => 1 | .fmax => 2

def AtomFW.ofCode? : Nat → Option AtomFW
  | 0 => some .f32 | 1 => some .f16x2 | 2 => some .bf16x2 | _ => none
def AtomFW.code : AtomFW → Nat
  | .f32 => 0 | .f16x2 => 1 | .bf16x2 => 2

def CasW.ofCode? : Nat → Option CasW
  | 0 => some .w | 2 => some .d | _ => none
def CasW.code : CasW → Nat
  | .w => 0 | .d => 2

def AtomUOp.ofCode? (n : Nat) : Option AtomUOp := if n = 7 then some .cas else (AtomOp.ofCode? n).map .op
def AtomUOp.code : AtomUOp → Nat
  | .op o => o.code | .cas => 7

def PrefLevel.ofCode? : Nat → Option PrefLevel
  | 0 => some .l1 | 1 => some .l2 | 2 => some .msc | _ => none
def PrefLevel.code : PrefLevel → Nat
  | .l1 => 0 | .l2 => 1 | .msc => 2

def FillHint.ofCode? : Nat → Option FillHint
  | 0 => some .reset | 1 => some .start | 2 => some .drop | _ => none
def FillHint.code : FillHint → Nat
  | .reset => 0 | .start => 1 | .drop => 2

def InvSpan.ofCode? : Nat → Option InvSpan
  | 0 => some .p64 | 1 => some .p2m | 2 => some .all | _ => none
def InvSpan.code : InvSpan → Nat
  | .p64 => 0 | .p2m => 1 | .all => 2

def ZKind.ofCode? : Nat → Option ZKind
  | 0 => some .pos | 1 => some .z | 2 => some .cov | 3 => some .prim | _ => none
def ZKind.code : ZKind → Nat
  | .pos => 0 | .z => 1 | .cov => 2 | .prim => 3

def DepDir.ofCode? : Nat → Option DepDir
  | 0 => some .none | 1 => some .ge | 2 => some .le | _ => Option.none
def DepDir.code : DepDir → Nat
  | .none => 0 | .ge => 1 | .le => 2

def EmitKind.ofCode? : Nat → Option EmitKind
  | 0 => some .pos | 1 => some (.attr 0) | 2 => some (.attr 1) | 3 => some (.attr 2) | 4 => some (.attr 3) | _ => none
def EmitKind.code : EmitKind → Nat
  | .pos => 0 | .attr k => k.val + 1

def TraceMode.ofCode? : Nat → Option TraceMode
  | 0 => some .plain | 1 => some .any | 2 => some .step | _ => none
def TraceMode.code : TraceMode → Nat
  | .plain => 0 | .any => 1 | .step => 2

def XUnit.ofCode (n : Nat) : XUnit :=
  match n with
  | 0 => .dcz | 1 => .spx | 2 => .exc | _ => .mxq
def XUnit.code : XUnit → Nat
  | .dcz => 0 | .spx => 1 | .exc => 2 | .mxq => 3

def XPort.ofCode? : Nat → Option XPort
  | 0 => some .src | 1 => some .dst | 2 => some .len | 8 => some (.go 0) | 9 => some (.go 1) | 10 => some (.go 2)
  | 11 => some (.go 3) | _ => none
def XPort.code : XPort → Nat
  | .src => 0 | .dst => 1 | .len => 2 | .go n => 8 + n.val

def XBindPort.ofCode? : Nat → Option XBindPort
  | 4 => some .inp | 5 => some .out | 6 => some .tab | _ => none
def XBindPort.code : XBindPort → Nat
  | .inp => 4 | .out => 5 | .tab => 6

/-- Field B of XMOVT (R338). -/
def XBind.ofCode? (n : Nat) : Option XBind :=
  if n < 32 then some (.t (t5 n)) else if n < 48 then some (.s (s4 n)) else none
def XBind.code : XBind → Nat
  | .t n => n.val | .s n => 32 + n.val

/-- NX and the slot or cell row under it (R304, R305); the number must be 0 with NX. -/
def MIdx.ofCode (n : Nat) : MIdx := if n < 128 then .at (Fin.ofNat 128 n) else .nx
def MIdx.code : MIdx → Nat
  | .at m => m.val | .nx => 128

-- ## Checks

/-- Reserved fields that must be 0 (R56). -/
def zero (l : List Nat) : Dec Unit := if l.all (· == 0) then .ok () else .error 0x2001
/-- A value the instruction must accept (R72). -/
def accept (b : Bool) : Dec Unit := if b then .ok () else .error 0x2007
/-- The meaning of a coded field, if it has one (R72). -/
def code? {α : Type} (o : Option α) : Dec α := match o with | some a => .ok a | none => .error 0x2007
/-- A field that must name a k register through B bit 6 (R194, R355). -/
def kOnly (b : Nat) : Dec KReg := if b < 64 then .error 0x2007 else .ok (k6 b)
/-- A predicate in a 6-bit field (R56). -/
def p6 (n : Nat) : Dec PReg := if n < 16 then .ok (p4 n) else .error 0x2007
/-- A scope field (R28, R72). -/
def scope? (n : Nat) : Dec Scope := match Scope.ofCode? n with | some s => .ok s | none => .error 0x2008
/-- A decoded instruction that must also pass the checks of `wfSlot`. -/
def checked (k : CoreKind) (m : SlotMap) (i : Instr) : Dec Instr := if wfSlot k m i then .ok i else .error 0x2007

/-- The reason code of an unassigned opcode in map number `m` (R58). -/
def unassigned (m op : Nat) : Dec Instr := .error (0x1000 + 64 * m + op)

-- ## The opcode maps (R57)

/-- Form CB (R147). -/
def decodeCB (kd : CoreKind) (op off c p s : Nat) : Dec Instr :=
  let o := BitVec.ofNat 19 off
  match op with
  | 0x01 => do accept (c == 0); checked kd .ctl (.br (s == 1) (p4 p) o)
  | 0x02 => match BrCond.ofCode? c with | some cc => .ok (.brc (s == 1) (p4 p) cc o) | none => .error 0x2006
  | _ => do accept (p == 0 && c == 0); .ok (.call (s == 1) o)

/-- Form CG (R148, R408). -/
def decodeCG (kd : CoreKind) (op imm n b a s : Nat) : Dec Instr :=
  let st := s == 1
  let n4 := Fin.ofNat 16 n
  let c8 := Fin.ofNat 256 imm
  let semF := match kd with | .shading => n | .tensor => a
  match op with
  | 0x03 => do zero [imm, n, b]; .ok (.brx st (k6 a))
  | 0x05 => do zero [imm, n]; .ok (.callx st (k6 a) (k6 b))
  | 0x06 => do zero [imm, n, b]; .ok (.ret st (k6 a))
  | 0x07 => do zero [imm, n, b, a]; .ok (.merge st)
  | 0x08 => do zero [imm, b, a]; accept (n < 8); .ok (.bara st (Fin.ofNat 8 n))
  | 0x09 => do zero [imm, b, a]; accept (n < 8); .ok (.barw st (Fin.ofNat 8 n))
  | 0x0A => do zero [imm, b, a]; accept (n < 8); .ok (.bar st (Fin.ofNat 8 n))
  | 0x0B => do zero [b, semF]; accept (n < 16); checked kd .ctl (.semsig st (k6 a) n4 c8)
  | 0x0C => do zero [b, semF]; accept (n < 16); checked kd .ctl (.semwait st (k6 a) n4 c8)
  | 0x0D => do zero [semF]; accept (n < 16); checked kd .ctl (.semtry st (k6 a) (k6 b) n4 c8)
  | 0x0E => do zero [imm, n, b, a]; .ok (.yield st)
  | 0x0F => do zero [imm, n]; checked kd .ctl (.spawn st (k6 a) (k6 b))
  | 0x10 => do zero [imm, n]; checked kd .ctl (.spawng st (k6 a) (k6 b))
  | 0x11 => do zero [imm, n, b, a]; .ok (.done st)
  | 0x12 => do zero [imm / 2, n]; .ok (.joinw st (k6 a) (k6 b) (imm == 1))
  | 0x13 => do zero [imm, n, b]; .ok (.timehint st (k6 a))
  | 0x14 => do zero [n, b, a]; .ok (.trap st c8)
  | 0x15 => do zero [imm, n, b, a]; .ok (.tret st)
  | 0x16 => do zero [imm, n, b, a]; .ok (.tmask st)
  | 0x17 => do zero [imm, n, b, a]; .ok (.tunmask st)
  | 0x18 => do zero [imm, n, b, a]; .ok (.ckpt st)
  | 0x19 => do zero [imm / 2, n, b, if imm = 1 then 0 else a]; .ok (.timerset st (k6 a) (imm == 1))
  | 0x1A => do zero [imm, n, b]; .ok (.sleep st (k6 a))
  | 0x1B => do zero [n, b, a]; .ok (.halt st c8)
  | 0x1C => do zero [imm, n]; .ok (.govarm st (k6 a) (k6 b))
  | 0x1D => do zero [imm, n]; .ok (.govstep st (k6 a) (k6 b))
  | 0x1E => do zero [imm]; accept (n < 8); .ok (.govq st (k6 a) (k6 b) (Fin.ofNat 8 n))
  | 0x1F => do zero [imm, n]; .ok (.winld st (k6 a) (k6 b))
  | 0x20 => do zero [imm, n]; .ok (.csld st (k6 a) (k6 b))
  | 0x21 => do zero [imm, b, if n = 2 then a else 0]; .ok (.ptinv st (k6 a) (← code? (InvSpan.ofCode? n)))
  | _ => unassigned 0 op

/-- Slot 0. -/
def decodeCtl (kd : CoreKind) (w : Nat) : Dec Instr :=
  let op := w / 2 ^ 25 % 64
  if op = 0 then (if w % 2 ^ 25 = 0 then .ok (.nopSlot0 (w / 2 ^ 31 % 2 == 1)) else .error 0x2002)
  else if op = 1 ∨ op = 2 ∨ op = 4 then
    match unpack wCB w with
    | [off, c, p, op, s] => decodeCB kd op off c p s
    | _ => unassigned 0 op
  else
    match unpack wCG w with
    | [imm, n, b, a, op, s] => decodeCG kd op imm n b a s
    | _ => unassigned 0 op

/-- Forms KI20 and KI (R177). -/
def decodeKI20 (op imm d : Nat) : Dec Instr :=
  if op = 2 then .ok (.kmovi (k6 d) (BitVec.ofNat 20 imm)) else .ok (.khi (k6 d) (BitVec.ofNat 20 imm))

/-- The immediate shifts (R177). -/
def decodeKShift (f : KWidth → KReg → KReg → Fin 64 → Instr) (imm a d : Nat) : Dec Instr := do
  zero [imm / 128]
  let wd : KWidth := if imm / 64 = 1 then .w else .d
  checked .shading .scl (f wd (k6 d) (k6 a) (Fin.ofNat 64 imm))

def decodeKI (op imm a d : Nat) : Dec Instr :=
  let i := BitVec.ofNat 14 imm
  match op with
  | 0x05 => .ok (.kaddi (k6 d) (k6 a) i)
  | 0x13 => .ok (.kandImm (k6 d) (k6 a) i)
  | 0x14 => .ok (.korImm (k6 d) (k6 a) i)
  | 0x15 => .ok (.kxorImm (k6 d) (k6 a) i)
  | 0x16 => decodeKShift .kshlImm imm a d
  | 0x17 => decodeKShift .kshrImm imm a d
  | 0x18 => decodeKShift .ksarImm imm a d
  | _ => decodeKShift .krotImm imm a d

/-- Form KA (R176, R177). -/
def decodeKA (op x b a d f : Nat) : Dec Instr :=
  let rd := k6 d
  let ra := k6 a
  let rb := k6 b
  match op with
  | 0x01 => do zero [x, b, f]; .ok (.kmov rd ra)
  | 0x04 => do zero [x]; .ok (.kadd (← code? (KWidth.ofCode? f)) rd ra rb)
  | 0x06 => do zero [x]; .ok (.ksub (← code? (KWidth.ofCode? f)) rd ra rb)
  | 0x07 => do zero [x]; .ok (.kmul (← code? (KWidth.ofCode? f)) rd ra rb)
  | 0x08 => do zero [x / 2, f]; .ok (.kmulh rd ra rb (x == 1))
  | 0x09 => do zero [x]; .ok (.kmad (← code? (KWidth.ofCode? f)) rd ra rb)
  | 0x0A => do zero [x, f]; .ok (.kdivs rd ra rb)
  | 0x0B => do zero [x, f]; .ok (.kand rd ra rb)
  | 0x0C => do zero [x, f]; .ok (.kor rd ra rb)
  | 0x0D => do zero [x, f]; .ok (.kxor rd ra rb)
  | 0x0E => do zero [x, b, f]; .ok (.knot rd ra)
  | 0x0F => do zero [x]; .ok (.kshl (← code? (KWidth.ofCode? f)) rd ra rb)
  | 0x10 => do zero [x]; .ok (.kshr (← code? (KWidth.ofCode? f)) rd ra rb)
  | 0x11 => do zero [x]; .ok (.ksar (← code? (KWidth.ofCode? f)) rd ra rb)
  | 0x12 => do zero [x]; .ok (.krot (← code? (KWidth.ofCode? f)) rd ra rb)
  | 0x1A => do zero [x / 2]; .ok (.kmin (← code? (KWidth.ofCode? f)) rd ra rb (x == 1))
  | 0x1B => do zero [x / 2]; .ok (.kmax (← code? (KWidth.ofCode? f)) rd ra rb (x == 1))
  | 0x1C => do let fw ← code? (KWidth.ofCode? f); .ok (.kcmp fw rd ra rb (← code? (KCond.ofCode? x)))
  | 0x1D => do zero [f]; .ok (.ksel rd ra rb (k6 x))
  | 0x1E => do zero [x, b]; .ok (.kpopc (← code? (KWidth.ofCode? f)) rd ra)
  | 0x1F => do zero [x, b]; .ok (.kclz (← code? (KWidth.ofCode? f)) rd ra)
  | 0x20 => do zero [x, b]; .ok (.kctz (← code? (KWidth.ofCode? f)) rd ra)
  | 0x21 => do accept (f < 2); .ok (.kbfe (f == 1) rd ra (Fin.ofNat 64 b) (Fin.ofNat 64 x))
  | 0x22 => do zero [f]; .ok (.kbfi rd ra (Fin.ofNat 64 b) (Fin.ofNat 64 x))
  | 0x23 => do zero [x, b]; accept (f < 2); .ok (.krfl (f == 1) rd (v6 a))
  | 0x24 => do zero [x]; accept (f < 2); .ok (.krdl (f == 1) rd (v6 a) rb)
  | 0x25 => do zero [x, b, f]; checked .shading .scl (.krds rd (Fin.ofNat 64 a))
  | 0x26 => do zero [x, d, f]; checked .shading .scl (.kwrs (Fin.ofNat 64 a) rb)
  | 0x27 => do zero [x / 4, f]; .ok (.pand (← p6 d) (← p6 a) (← p6 b) (x % 2 == 1) (x / 2 == 1))
  | 0x28 => do zero [x / 4, f]; .ok (.por (← p6 d) (← p6 a) (← p6 b) (x % 2 == 1) (x / 2 == 1))
  | 0x29 => do zero [x / 4, f]; .ok (.pxor (← p6 d) (← p6 a) (← p6 b) (x % 2 == 1) (x / 2 == 1))
  | 0x2A => do zero [x, b, f]; .ok (.pnot (← p6 d) (← p6 a))
  | 0x2B => do zero [x, b, f]; .ok (.pmovk (← p6 d) ra)
  | 0x2C => do zero [x, b, f]; .ok (.kmovp rd (← p6 a))
  | _ => unassigned 1 op

/-- Slot 1. -/
def decodeScl (w : Nat) : Dec Instr :=
  let op := w / 2 ^ 26 % 64
  if op = 0 then (if w = 0 then .ok .nop else .error 0x2002)
  else if op = 2 ∨ op = 3 then
    match unpack wKI20 w with
    | [imm, d, op] => decodeKI20 op imm d
    | _ => unassigned 1 op
  else if op = 5 ∨ (0x13 ≤ op ∧ op ≤ 0x19) then
    match unpack wKI w with
    | [imm, a, d, op] => decodeKI op imm a d
    | _ => unassigned 1 op
  else
    match unpack wKA w with
    | [x, b, a, d, f, op] => decodeKA op x b a d f
    | _ => unassigned 1 op

/-- Form VI (R238, R252). -/
def decodeVI (kd : CoreKind) (op imm d p m t : Nat) : Dec Instr :=
  if op = 0x19 then do
    zero [t]
    .ok (.vmovi (← code? (MoviKind.ofCode? m)) (p2 p) (v6 d) (BitVec.ofNat 13 imm))
  else do
    zero [t, m, imm / 64 % 32]
    checked kd .vec (.vshufImm (← code? (ShufKind.ofCode? (imm / 2 ^ 11))) (p2 p) (v6 d) (Fin.ofNat 64 imm))

/-- Form VA (R231); `mn` is the slot number of R58. -/
def decodeVA (kd : CoreKind) (mn op b a d p m t : Nat) : Dec Instr :=
  let pp := p2 p
  let rd := v6 d
  let ra := v6 a
  let bb := VK.ofCode b
  let it := code? (IntType.ofCode? t)
  let sit := code? (SIntType.ofCode? t)
  let ft := code? (FltType.ofCode? t)
  let rm := code? (RM.ofCode? m)
  let m0 := m % 2 == 1
  let m1 := m / 2 == 1
  match op with
  | 0x01 => do .ok (.vadd (← it) m0 m1 pp rd ra bb)
  | 0x02 => do .ok (.vsub (← it) m0 m1 pp rd ra bb)
  | 0x03 => do .ok (.vmul (← it) m0 m1 pp rd ra bb)
  | 0x04 => do zero [m % 2]; .ok (.vmulh (← it) m1 pp rd ra bb)
  | 0x05 => do .ok (.vmad (← it) m0 m1 pp rd ra bb)
  | 0x06 => do zero [m / 2, b]; .ok (.vneg (← sit) m0 pp rd ra)
  | 0x07 => do zero [m / 2, b]; .ok (.vabs (← sit) m0 pp rd ra)
  | 0x08 => do zero [m % 2]; .ok (.vmin (← it) m1 pp rd ra bb)
  | 0x09 => do zero [m % 2]; .ok (.vmax (← it) m1 pp rd ra bb)
  | 0x0A => do zero [t, m]; .ok (.vand pp rd ra bb)
  | 0x0B => do zero [t, m]; .ok (.vor pp rd ra bb)
  | 0x0C => do zero [t, m]; .ok (.vxor pp rd ra bb)
  | 0x0D => do zero [t, m, b]; .ok (.vnot pp rd ra)
  | 0x0E => do zero [m]; .ok (.vshl (← it) pp rd ra bb)
  | 0x0F => do zero [m]; .ok (.vshr (← it) pp rd ra bb)
  | 0x10 => do zero [m]; .ok (.vsar (← it) pp rd ra bb)
  | 0x11 => do zero [t, m / 2]; .ok (.vbfe m0 pp rd ra bb)
  | 0x12 => do zero [t, m]; .ok (.vbfi pp rd ra bb)
  | 0x13 => do zero [m, b]; .ok (.vpopc (← it) pp rd ra)
  | 0x14 => do zero [m, b]; .ok (.vclz (← it) pp rd ra)
  | 0x15 => do
    accept (t < 2)
    .ok (.vcmp (t == 1) (← code? (ICond.ofCode? (4 * m + d / 16))) pp (p4 d) ra bb)
  | 0x16 => do zero [t, m]; .ok (.vsel pp rd ra bb)
  | 0x17 => do zero [t, m, a]; .ok (.vmov pp rd bb)
  | 0x18 => match kd with
    | .shading => .error 0x2004
    | .tensor => do zero [t, m, b]; accept (a < 32); .ok (.vmovAcc pp rd (a / 16 == 1) (a4 a))
  | 0x1A => do .ok (.vfadd (← ft) (← rm) pp rd ra bb)
  | 0x1B => do .ok (.vfsub (← ft) (← rm) pp rd ra bb)
  | 0x1C => do .ok (.vfmul (← ft) (← rm) pp rd ra bb)
  | 0x1D => do .ok (.vfma (← ft) (← rm) pp rd ra bb)
  | 0x1E => do .ok (.vfms (← ft) (← rm) pp rd ra bb)
  | 0x1F => do zero [m]; .ok (.vfmin (← ft) pp rd ra bb)
  | 0x20 => do zero [m]; .ok (.vfmax (← ft) pp rd ra bb)
  | 0x21 => do
    accept (t == 2)
    .ok (.vfcmp (← code? (FCond.ofCode? (4 * m + d / 16))) pp (p4 d) ra bb)
  | 0x22 => do zero [b]; .ok (.vfrcp (← ft) (← rm) pp rd ra)
  | 0x23 => do zero [b]; .ok (.vfrsq (← ft) (← rm) pp rd ra)
  | 0x24 => do .ok (.vfdivs (← ft) (← rm) pp rd ra bb)
  | 0x25 => do zero [b]; .ok (.vfexp2 (← ft) (← rm) pp rd ra)
  | 0x26 => do zero [b]; .ok (.vflog2 (← ft) (← rm) pp rd ra)
  | 0x27 => do zero [b]; .ok (.vfrnd (← ft) (← rm) pp rd ra)
  | 0x28 => do zero [m, b]; .ok (.vfclass (← ft) pp rd ra)
  | 0x29 => do
    zero [m, b / 64]
    checked kd .vec (.vcvt (← code? (LaneType.ofCode? t)) (← code? (RMode.ofCode? (b / 8))) (← code? (LaneType.ofCode? (b % 8))) pp rd ra)
  | 0x2A => do
    zero [b / 64]
    checked kd .vec (.vcvtn (← code? (LaneType.ofCode? t)) (← code? (RMode.ofCode? (b / 8))) (← code? (LaneType.ofCode? (b % 8)))
      (Fin.ofNat 4 m) pp rd ra)
  | 0x2B => do
    zero [b / 64]
    checked kd .vec (.vcvtw (← code? (LaneType.ofCode? t)) (← code? (RMode.ofCode? (b / 8))) (← code? (LaneType.ofCode? (b % 8)))
      (Fin.ofNat 4 m) pp rd ra)
  | 0x2C => do
    .ok (.vcvtf (← ft) (← code? (RMode.ofCode? (b / 16))) (Fin.ofNat 4 (b / 4)) (b / 2 % 2 == 1) (Fin.ofNat 8 (m + 4 * (b % 2))) pp rd ra)
  | 0x2D => do
    checked kd .vec (.vqmx (← code? (QFmt.ofCode? t)) (Fin.ofNat 4 m) (Fin.ofNat 4 p) rd ra (b / 64 == 1) (v6 b))
  | 0x2E => do
    checked kd .vec (.vdqmx (← code? (QFmt.ofCode? t)) (Fin.ofNat 4 m) (Fin.ofNat 4 p) rd ra (b / 64 == 1) (v6 b))
  | 0x2F => do zero [t, m]; accept (b < 64); .ok (.vshuf pp rd ra (v6 b))
  | 0x31 => do zero [t, m]; .ok (.vbcast pp rd ra (← kOnly b))
  | 0x32 => do zero [t, m]; .ok (.vbfly pp rd ra bb)
  | 0x33 => do
    zero [b / 8, if t = 2 ∧ b = 0 then 0 else m]
    checked kd .vec (.vred (← code? (RedType.ofCode? t)) (← rm) (← code? (RedOp.ofCode? b)) pp rd ra)
  | 0x34 => do
    zero [b / 8, if t = 2 ∧ b = 0 then 0 else m]
    checked kd .vec (.vscan (← code? (RedType.ofCode? t)) (← rm) (← code? (RedOp.ofCode? b)) pp rd ra)
  | 0x35 => do
    zero [t, b]
    accept (m < 2)
    checked kd .vec (.vballot (m == 1) pp rd (← p6 a))
  | 0x36 => do zero [t, b]; .ok (.vvote (← code? (VoteKind.ofCode? m)) pp (← p6 d) (← p6 a))
  | 0x37 => do zero [t, b, a]; checked kd .vec (.vactive (← code? (ActKind.ofCode? m)) pp rd)
  | 0x38 => do zero [m]; accept (t == 2); checked kd .vec (.vftwos pp rd ra bb)
  | 0x39 => do zero [m]; accept (t == 2); checked kd .vec (.vftwop pp rd ra bb)
  | _ => unassigned mn op

/-- Slots 2 and 3. -/
def decodeVec (kd : CoreKind) (mn w : Nat) : Dec Instr :=
  let op := w / 2 ^ 26 % 64
  if op = 0 then (if w = 0 then .ok .nop else .error 0x2002)
  else if op = 0x19 ∨ op = 0x30 then
    match unpack wVI w with
    | [imm, d, p, m, t, op] => decodeVI kd op imm d p m t
    | _ => unassigned mn op
  else
    match unpack wVA w with
    | [b, a, d, p, m, t, op] => decodeVA kd mn op b a d p m t
    | _ => unassigned mn op

/-- Forms MEM and MA, which have one layout (R194, R213 to R216, R398). -/
def decodeMEM (kd : CoreKind) (op b a d p h wd : Nat) : Dec Instr :=
  let pp := p2 p
  let rd := v6 d
  let ka := k6 a
  let bb := VK.ofCode b
  let mw := code? (MWidth.ofCode? wd)
  let sw := code? (SWidth.ofCode? wd)
  match op with
  | 0x01 => do checked kd .mem (.ld (← mw) (← code? (Hint.ofCode? h)) pp rd ka bb)
  | 0x02 => do checked kd .mem (.st (← sw) (← code? (SHint.ofCode? h)) pp rd ka bb)
  | 0x03 => do zero [p]; .ok (.ldu (← mw) (← code? (Hint.ofCode? h)) (k6 d) ka (← kOnly b))
  | 0x04 => do zero [p]; .ok (.stu (← sw) (← code? (SHint.ofCode? h)) (k6 d) ka (← kOnly b))
  | 0x0B => match kd with
    | .shading => .error 0x2004
    | .tensor => do zero [h]; checked kd .mem (.spld (← mw) pp rd ka bb)
  | 0x0C => match kd with
    | .shading => .error 0x2004
    | .tensor => do zero [h]; checked kd .mem (.spst (← sw) pp rd ka bb)
  | 0x0F => do checked kd .mem (.atom (← code? (AtomOp.ofCode? wd)) (← code? (AtomW.ofCode? h)) pp rd ka bb)
  | 0x10 => do checked kd .mem (.atomf (← code? (AtomFOp.ofCode? wd)) (← code? (AtomFW.ofCode? h)) pp rd ka bb)
  | 0x11 => do accept (wd == 0); checked kd .mem (.cas (← code? (CasW.ofCode? h)) pp rd ka bb)
  | 0x12 => do
    zero [p]
    .ok (.atomu (← code? (AtomUOp.ofCode? wd)) (← code? (AtomW.ofCode? h)) (k6 d) ka (← kOnly b))
  | 0x13 => do zero [wd, h, p, d]; .ok (.rwb ka (← kOnly b))
  | 0x14 => do zero [wd, h, p, d]; .ok (.rinv ka (← kOnly b))
  | 0x15 => do zero [wd, h, p, d]; .ok (.rflush ka (← kOnly b))
  | 0x16 => do zero [h, d]; .ok (.pref (← code? (PrefLevel.ofCode? wd)) pp ka bb)
  | 0x19 => match kd with
    | .tensor => .error 0x2004
    | .shading => do zero [wd, h, p]; .ok (.nodest rd ka (← kOnly b))
  | 0x1A => do zero [wd, h, p, d, b]; .ok (.filldone ka)
  | 0x1B => do zero [wd, h, p, d]; .ok (.fillfail ka (← kOnly b))
  | 0x1C => do zero [wd, h, p, b]; .ok (.fillq (k6 d) ka)
  | 0x1D => do zero [h, p, d, b]; .ok (.fillhint (← code? (FillHint.ofCode? wd)) ka)
  | 0x1E => match kd with
    | .tensor => .error 0x2004
    | .shading => do zero [wd, h, p, a, b]; .ok (.l1q (k6 d))
  | _ => unassigned 4 op

/-- Form MO (R194). -/
def decodeMO (op b a d z sc wd : Nat) : Dec Instr :=
  match op with
  | 0x05 => do zero [z]; .ok (.lda (← code? (AcqWidth.ofCode? wd)) (← scope? sc) (k6 d) (k6 a) (← kOnly b))
  | 0x06 => do zero [z]; .ok (.stl (← code? (stlWidth? wd)) (← scope? sc) (k6 d) (k6 a) (← kOnly b))
  | 0x17 => do zero [z, wd, d, a, b]; .ok (.fence (← scope? sc))
  | _ => do zero [z, wd, d, a, b]; accept (sc == 4); .ok .fencesc

/-- Form MT (R194). -/
def decodeMT (kd : CoreKind) (op b a t z h kk : Nat) : Dec Instr :=
  let rt := t5 t
  let ka := k6 a
  let kb := k6 b
  match op with
  | 0x07 => do zero [z, kk]; .ok (.ldt (← code? (Hint.ofCode? h)) rt ka kb)
  | 0x08 => do zero [z, kk]; .ok (.stt (← code? (SHint.ofCode? h)) rt ka kb)
  | 0x09 => do zero [z]; .ok (.ldta (k6 kk) (← code? (Hint.ofCode? h)) rt ka kb)
  | 0x0A => do zero [z]; .ok (.stta (k6 kk) (← code? (SHint.ofCode? h)) rt ka kb)
  | _ => match kd with
    | .shading => .error 0x2004
    | .tensor => do zero [z, h, kk]; .ok (if op = 0x0D then .spldt rt ka kb else .spstt rt ka kb)

/-- Slot 4. -/
def decodeMem (kd : CoreKind) (w : Nat) : Dec Instr :=
  let op := w / 2 ^ 26 % 64
  if op = 0 then (if w = 0 then .ok .nop else .error 0x2002)
  else if op = 5 ∨ op = 6 ∨ op = 0x17 ∨ op = 0x18 then
    match unpack wMO w with
    | [b, a, d, z, sc, wd, op] => decodeMO op b a d z sc wd
    | _ => unassigned 4 op
  else if (7 ≤ op ∧ op ≤ 0x0A) ∨ op = 0x0D ∨ op = 0x0E then
    match unpack wMT w with
    | [b, a, t, z, h, kk, op] => decodeMT kd op b a t z h kk
    | _ => unassigned 4 op
  else
    match unpack wVA w with
    | [b, a, d, p, h, wd, op] => decodeMEM kd op b a d p h wd
    | _ => unassigned 4 op

/-- Form MX (R305). -/
def decodeMX (op imm sel tl sr acc : Nat) : Dec Instr :=
  let mi := MIdx.ofCode (imm % 256)
  -- the low 8 bits: NX, and the slot, which is 0 with NX
  let nxz := if imm % 256 < 128 then 0 else imm % 128
  let kk := k6 imm
  match op with
  | 0x01 => do
    zero [acc, imm / 256, nxz, if sel = 0 then tl else 0]
    .ok (if sel = 0 then .mpush (s4 sr) mi else .mpushTile (s4 sr) (t5 tl) mi)
  | 0x02 => do zero [acc, sr, tl, sel, imm / 128]; checked .tensor .mtx (.mshift (Fin.ofNat 128 imm))
  | 0x03 => do zero [acc, sr, tl, sel, imm / 256, nxz]; .ok (.macc mi)
  | 0x04 => do zero [sr, tl, sel, imm / 512, nxz]; .ok (.mdrain (a4 acc) (imm / 256 == 1) mi)
  | 0x05 => do
    zero [acc / 2, imm / 256, nxz, if sel = 0 then tl else 0]
    .ok (if sel = 0 then .mlds (acc == 1) (s4 sr) mi else .mldsTile (acc == 1) (s4 sr) (t5 tl) mi)
  | 0x06 => do zero [acc, sr, tl, sel, imm]; .ok .mswap
  | 0x07 => do
    zero [sr, tl, sel]
    checked .tensor .mtx (.mopImm (Fin.ofNat 16 acc) (Fin.ofNat 16 (imm / 256)) (Fin.ofNat 16 (imm / 16)) (Fin.ofNat 4 (imm / 4))
      (imm / 2 % 2 == 1) (imm % 2 == 1))
  | 0x08 => do zero [acc, sr, tl, sel, imm / 64]; .ok (.mopReg kk)
  | 0x09 => do zero [acc, sr, tl, sel, imm]; .ok .mclr
  | 0x0A => do zero [acc, sr, tl, sel, imm / 64]; .ok (.mstat kk)
  | 0x0B => do zero [acc, sr, tl, sel, imm]; .ok .mwait
  | 0x0C => do zero [sr, sel, imm % 256]; .ok (.mrda (a4 acc) (t5 tl) (Fin.ofNat 16 (imm / 256)))
  | 0x0D => do
    zero [sr, imm / 128 % 2, if sel = 0 then imm % 128 else 0]
    .ok (.mwra (a4 acc) (t5 tl) (sel == 1) (Fin.ofNat 16 (imm / 256)) (Fin.ofNat 128 imm))
  | 0x0E => do zero [acc, sr, tl, sel, imm / 2]; .ok (.mfreeze (imm == 1))
  | 0x0F => do zero [acc, sr, tl, imm / 64]; .ok (.mscan (sel == 1) kk)
  | _ => unassigned 5 op

/-- Slot 5: absent on a shading core (R59). -/
def decodeMtx (kd : CoreKind) (w : Nat) : Dec Instr :=
  let op := w / 2 ^ 26 % 64
  if w = 0 then .ok .nop
  else match kd with
    | .shading => .error 0x3001
    | .tensor =>
      if op = 0 then .error 0x2002
      else match unpack wMX w with
        | [imm, sel, tl, sr, acc, op] => decodeMX op imm sel tl sr acc
        | _ => unassigned 5 op

/-- Form ST (R278). -/
def decodeST (op n kb ka t s : Nat) : Dec Instr :=
  match op with
  | 0x01 => do
    zero [t, kb]
    if h : n / 4 < 7 then .ok (.sbind (s4 s) (k6 ka) ⟨n / 4, h⟩ (n / 2 % 2 == 1) (n % 2 == 1)) else .error 0x2007
  | 0x02 =>
    if n = 8 then do zero [t, s]; .ok (.spatRing (k6 ka) (k6 kb))
    else do zero [t]; accept (n < 4); .ok (.spat (s4 s) (k6 ka) (k6 kb) (Fin.ofNat 4 n))
  | 0x03 => do zero [t, ka, kb, n / 2]; .ok (.srst (s4 s) (n == 1))
  | 0x04 => do zero [t, kb, n]; .ok (.sstat (s4 s) (k6 ka))
  | 0x05 => do zero [t, ka, kb, n]; .ok (.sdrain (s4 s))
  | 0x06 => do zero [ka, kb]; .ok (.speek (s4 s) (t5 t) (Fin.ofNat 32 n))
  | 0x07 => do
    zero [s]
    accept (n == 0 || (n == 1 && t == 0))
    .ok (if n = 0 then .mcast (t5 t) (k6 ka) (k6 kb) else .mcastSp (k6 ka) (k6 kb))
  | 0x08 => do zero [s, t, kb]; accept (n < 16); .ok (.mcsem (k6 ka) (Fin.ofNat 16 n))
  | 0x09 => do zero [s, t, kb, n]; .ok (.gtake (k6 ka))
  | 0x0A => do zero [s, t, ka, kb, n]; .ok .grls
  | _ => unassigned 6 op

/-- Slot 6 of a tensor tile. -/
def decodeStr (w : Nat) : Dec Instr :=
  let op := w / 2 ^ 26 % 64
  if op = 0 then (if w = 0 then .ok .nop else .error 0x2002)
  else match unpack wST w with
    | [n, kb, ka, t, s, op] => decodeST op n kb ka t s
    | _ => unassigned 6 op

/-- Form SC (R355). -/
def decodeSC (op b a d p m : Nat) : Dec Instr :=
  let pp := p2 p
  let rd := v6 d
  let ra := v6 a
  let ck := checked .shading .scn
  match op with
  | 0x01 => do zero [m / 2, d, b]; .ok (.pemit (m == 1) pp ra)
  | 0x02 => do zero [m / 8, d, b]; ck (.vemit (← code? (EmitKind.ofCode? m)) pp ra)
  | 0x03 => do zero [m, p, d, a, b]; .ok .mend
  | 0x04 => do zero [m, p, d, a]; .ok (.rkick (← kOnly b))
  | 0x05 => do zero [m / 4, a, b]; .ok (.zqry (← code? (ZKind.ofCode? m)) pp rd)
  | 0x06 => do zero [m / 4, d, b]; .ok (.depw (← code? (DepDir.ofCode? m)) pp ra)
  | 0x07 => do zero [m, d, a, b]; .ok (.kill pp)
  | 0x08 => do zero [a, b]; .ok (.interp (m / 16 == 1) (Fin.ofNat 16 m) pp rd)
  | 0x09 => do zero [m / 2]; ck (.tex (m == 1) pp rd ra (← kOnly b))
  | 0x0A => do zero [m / 2]; ck (.texl (m == 1) pp rd ra (← kOnly b))
  | 0x0B => do zero [m / 8]; ck (.texg (Fin.ofNat 4 (m / 2)) (m % 2 == 1) pp rd ra (← kOnly b))
  | 0x0C => do zero [m]; ck (.texq pp rd ra (← kOnly b))
  | 0x0D => do zero [m / 4]; ck (.trace (← code? (TraceMode.ofCode? m)) pp rd ra (← kOnly b))
  | 0x0E => do zero [m, a, b]; .ok (.tqry pp rd)
  | 0x0F => do zero [m]; ck (.tacc pp rd ra (← kOnly b))
  | 0x10 => do zero [m, d]; accept (b < 64); ck (.gexp pp ra (v6 b))
  | 0x11 => do zero [m, p, d, a]; .ok (.gflush (← kOnly b))
  | 0x12 => do zero [m, p, d, a]; .ok (.gbind (← kOnly b))
  | _ => unassigned 8 op

/-- Slot 6 of a shading core. -/
def decodeScn (w : Nat) : Dec Instr :=
  let op := w / 2 ^ 26 % 64
  if op = 0 then (if w = 0 then .ok .nop else .error 0x2002)
  else match unpack wSC w with
    | [b, a, d, p, m, op] => decodeSC op b a d p m
    | _ => unassigned 8 op

/-- Form XF (R338, R339). -/
def decodeXF (kd : CoreKind) (op b a d z port : Nat) : Dec Instr :=
  let u := XUnit.ofCode (port / 16)
  let ck := checked kd .xfm
  match op with
  | 0x01 => do zero [z, d, b]; ck (.xmov u (← code? (XPort.ofCode? (port % 16))) (k6 a))
  | 0x02 =>
    if kd = .shading ∧ 32 ≤ b ∧ b < 48 then .error 0x2004
    else do zero [z, d, a]; ck (.xmovt u (← code? (XBindPort.ofCode? (port % 16))) (← code? (XBind.ofCode? b)))
  | 0x03 => do zero [z, a, b, port % 16]; ck (.xget u (k6 d))
  | 0x04 => do zero [z, a, b, port % 16]; ck (.xgets u (k6 d))
  | 0x05 => do zero [z, d, b]; accept (port % 16 == 0); ck (.xcfg u (k6 a))
  | 0x06 => do zero [z, a, b, port % 16]; ck (.xstat u (k6 d))
  | 0x07 => do zero [z, d, a, b, port % 16]; ck (.xwait u)
  | 0x08 => do zero [z, d, a, b, port % 16]; ck (.xrst u)
  | _ => unassigned 7 op

/-- Slot 7. -/
def decodeXfm (kd : CoreKind) (w : Nat) : Dec Instr :=
  let op := w / 2 ^ 26 % 64
  if op = 0 then (if w = 0 then .ok .nop else .error 0x2002)
  else match unpack wXF w with
    | [b, a, d, z, port, op] => decodeXF kd op b a d z port
    | _ => unassigned 7 op

/-- The opcode map of a slot (R57). -/
def mapOf (kd : CoreKind) (slot : Nat) : SlotMap :=
  match slot with
  | 0 => .ctl | 1 => .scl | 2 | 3 => .vec | 4 => .mem | 5 => .mtx
  | 6 => (match kd with | .tensor => .str | .shading => .scn)
  | _ => .xfm

/-- A slot that a map serves (the first of the two vector ports). -/
def slotOf : SlotMap → Nat
  | .ctl => 0 | .scl => 1 | .vec => 2 | .mem => 4 | .mtx => 5 | .str | .scn => 6 | .xfm => 7

/-- One slot word (R50, R57, R58): an instruction, or the reason the sealing engine gives. -/
def decodeSlot (kd : CoreKind) (slot w : Nat) : Dec Instr :=
  match mapOf kd slot with
  | .ctl => decodeCtl kd w
  | .scl => decodeScl w
  | .vec => decodeVec kd slot w
  | .mem => decodeMem kd w
  | .mtx => decodeMtx kd w
  | .str => decodeStr w
  | .scn => decodeScn w
  | .xfm => decodeXfm kd w

/-- The (kind, slot) readings of a bare word, in the order in which `decodeTableWord` tries them: the maps of R57 overlap,
and a word by itself does not say its slot; the maps with fewer operand bits come first. -/
def tableOrder : List (CoreKind × Nat) :=
  [(.tensor, 7), (.shading, 6), (.tensor, 5), (.tensor, 6), (.tensor, 0), (.shading, 0), (.tensor, 4), (.shading, 4),
   (.tensor, 2), (.tensor, 1)]

/-- The first reading that accepts the word. -/
def firstReading : List (CoreKind × Nat) → Nat → Option (CoreKind × Nat × Instr)
  | [], _ => none
  | (kd, sl) :: r, w => match decodeSlot kd sl w with | .ok i => some (kd, sl, i) | .error _ => firstReading r w

/-- The instruction read from one 32-bit slot word given alone. -/
def decodeTableWord (nbits w : Nat) : Option Instr :=
  if nbits = 0 ∨ 32 < nbits then none else (firstReading tableOrder (w % 2 ^ 32)).map fun x => x.2.2

-- ## The encoder (R55, and the encoding tables of the engine chapters)

def encCB (s : Bool) (op p c off : Nat) : Nat := pack [(19, off), (2, c), (4, p), (6, op), (1, bit s)]
def encCG (s : Bool) (op a b n imm : Nat) : Nat := pack [(8, imm), (5, n), (6, b), (6, a), (6, op), (1, bit s)]
def encKA (op f d a b x : Nat) : Nat := pack [(6, x), (6, b), (6, a), (6, d), (2, f), (6, op)]
def encKI (op d a imm : Nat) : Nat := pack [(14, imm), (6, a), (6, d), (6, op)]
def encKI20 (op d imm : Nat) : Nat := pack [(20, imm), (6, d), (6, op)]
def encVA (op t m p d a b : Nat) : Nat := pack [(7, b), (6, a), (6, d), (2, p), (2, m), (3, t), (6, op)]
def encVI (op t m p d imm : Nat) : Nat := pack [(13, imm), (6, d), (2, p), (2, m), (3, t), (6, op)]
def encMO (op wd sc d a b : Nat) : Nat := pack [(7, b), (6, a), (6, d), (1, 0), (3, sc), (3, wd), (6, op)]
def encMT (op kk h t a b : Nat) : Nat := pack [(6, b), (6, a), (5, t), (1, 0), (2, h), (6, kk), (6, op)]
def encMX (op acc sr tl sel imm : Nat) : Nat := pack [(12, imm), (1, sel), (5, tl), (4, sr), (4, acc), (6, op)]
def encST (op s t ka kb n : Nat) : Nat := pack [(5, n), (6, kb), (6, ka), (5, t), (4, s), (6, op)]
def encSC (op m p d a b : Nat) : Nat := pack [(7, b), (6, a), (6, d), (2, p), (5, m), (6, op)]
def encXF (op port d a b : Nat) : Nat := pack [(6, b), (6, a), (6, d), (2, 0), (6, port), (6, op)]

def encPX (op : Nat) (d a b : PReg) (na nb : Bool) : Nat := encKA op 0 d a b (bit na + 2 * bit nb)
def encInt (op : Nat) (t : IntType) (sat u : Bool) (p : LPred) (d a : VReg) (b : VK) : Nat :=
  encVA op t.code (bit sat + 2 * bit u) p d a b.code
def encFlt (op : Nat) (t : FltType) (m : RM) (p : LPred) (d a : VReg) (b : VK) : Nat := encVA op t.code m.code p d a b.code
def encFlt1 (op : Nat) (t : FltType) (m : RM) (p : LPred) (d a : VReg) : Nat := encVA op t.code m.code p d a 0

/-- The 32-bit word of an instruction; nothing for an event, which has none. -/
def encode : Instr → Option Nat
  | .nopSlot0 s => some (encCG s 0 0 0 0 0)
  | .nop => some 0
  | .br s p o => some (encCB s 0x01 p 0 o.toNat)
  | .brc s p c o => some (encCB s 0x02 p c.code o.toNat)
  | .brx s a => some (encCG s 0x03 a 0 0 0)
  | .call s o => some (encCB s 0x04 0 0 o.toNat)
  | .callx s a b => some (encCG s 0x05 a b 0 0)
  | .ret s a => some (encCG s 0x06 a 0 0 0)
  | .merge s => some (encCG s 0x07 0 0 0 0)
  | .bara s n => some (encCG s 0x08 0 0 n 0)
  | .barw s n => some (encCG s 0x09 0 0 n 0)
  | .bar s n => some (encCG s 0x0A 0 0 n 0)
  | .semsig s a n c => some (encCG s 0x0B a 0 n c)
  | .semwait s a n c => some (encCG s 0x0C a 0 n c)
  | .semtry s a b n c => some (encCG s 0x0D a b n c)
  | .yield s => some (encCG s 0x0E 0 0 0 0)
  | .spawn s a b => some (encCG s 0x0F a b 0 0)
  | .spawng s a b => some (encCG s 0x10 a b 0 0)
  | .done s => some (encCG s 0x11 0 0 0 0)
  | .joinw s a b bd => some (encCG s 0x12 a b 0 (bit bd))
  | .timehint s a => some (encCG s 0x13 a 0 0 0)
  | .trap s c => some (encCG s 0x14 0 0 0 c)
  | .tret s => some (encCG s 0x15 0 0 0 0)
  | .tmask s => some (encCG s 0x16 0 0 0 0)
  | .tunmask s => some (encCG s 0x17 0 0 0 0)
  | .ckpt s => some (encCG s 0x18 0 0 0 0)
  | .timerset s a arm => some (encCG s 0x19 a 0 0 (bit arm))
  | .sleep s a => some (encCG s 0x1A a 0 0 0)
  | .halt s c => some (encCG s 0x1B 0 0 0 c)
  | .govarm s a b => some (encCG s 0x1C a b 0 0)
  | .govstep s a b => some (encCG s 0x1D a b 0 0)
  | .govq s a b n => some (encCG s 0x1E a b n 0)
  | .winld s a b => some (encCG s 0x1F a b 0 0)
  | .csld s a b => some (encCG s 0x20 a b 0 0)
  | .ptinv s a n => some (encCG s 0x21 a 0 n.code 0)
  | .kmov d a => some (encKA 0x01 0 d a 0 0)
  | .kmovi d i => some (encKI20 0x02 d i.toNat)
  | .khi d i => some (encKI20 0x03 d i.toNat)
  | .kadd f d a b => some (encKA 0x04 f.code d a b 0)
  | .kaddi d a i => some (encKI 0x05 d a i.toNat)
  | .ksub f d a b => some (encKA 0x06 f.code d a b 0)
  | .kmul f d a b => some (encKA 0x07 f.code d a b 0)
  | .kmulh d a b u => some (encKA 0x08 0 d a b (bit u))
  | .kmad f d a b => some (encKA 0x09 f.code d a b 0)
  | .kdivs d a b => some (encKA 0x0A 0 d a b 0)
  | .kand d a b => some (encKA 0x0B 0 d a b 0)
  | .kor d a b => some (encKA 0x0C 0 d a b 0)
  | .kxor d a b => some (encKA 0x0D 0 d a b 0)
  | .knot d a => some (encKA 0x0E 0 d a 0 0)
  | .kshl f d a b => some (encKA 0x0F f.code d a b 0)
  | .kshr f d a b => some (encKA 0x10 f.code d a b 0)
  | .ksar f d a b => some (encKA 0x11 f.code d a b 0)
  | .krot f d a b => some (encKA 0x12 f.code d a b 0)
  | .kandImm d a i => some (encKI 0x13 d a i.toNat)
  | .korImm d a i => some (encKI 0x14 d a i.toNat)
  | .kxorImm d a i => some (encKI 0x15 d a i.toNat)
  | .kshlImm w d a n => some (encKI 0x16 d a (n + 64 * w.code))
  | .kshrImm w d a n => some (encKI 0x17 d a (n + 64 * w.code))
  | .ksarImm w d a n => some (encKI 0x18 d a (n + 64 * w.code))
  | .krotImm w d a n => some (encKI 0x19 d a (n + 64 * w.code))
  | .kmin f d a b u => some (encKA 0x1A f.code d a b (bit u))
  | .kmax f d a b u => some (encKA 0x1B f.code d a b (bit u))
  | .kcmp f d a b x => some (encKA 0x1C f.code d a b x.code)
  | .ksel d a b x => some (encKA 0x1D 0 d a b x)
  | .kpopc f d a => some (encKA 0x1E f.code d a 0 0)
  | .kclz f d a => some (encKA 0x1F f.code d a 0 0)
  | .kctz f d a => some (encKA 0x20 f.code d a 0 0)
  | .kbfe s d a pos len => some (encKA 0x21 (bit s) d a pos len)
  | .kbfi d a pos len => some (encKA 0x22 0 d a pos len)
  | .krfl u d a => some (encKA 0x23 (bit u) d a 0 0)
  | .krdl u d a b => some (encKA 0x24 (bit u) d a b 0)
  | .krds d sp => some (encKA 0x25 0 d sp 0 0)
  | .kwrs sp b => some (encKA 0x26 0 0 sp b 0)
  | .pand d a b na nb => some (encPX 0x27 d a b na nb)
  | .por d a b na nb => some (encPX 0x28 d a b na nb)
  | .pxor d a b na nb => some (encPX 0x29 d a b na nb)
  | .pnot d a => some (encKA 0x2A 0 d a 0 0)
  | .pmovk d a => some (encKA 0x2B 0 d a 0 0)
  | .kmovp d a => some (encKA 0x2C 0 d a 0 0)
  | .vadd t sat u p d a b => some (encInt 0x01 t sat u p d a b)
  | .vsub t sat u p d a b => some (encInt 0x02 t sat u p d a b)
  | .vmul t sat u p d a b => some (encInt 0x03 t sat u p d a b)
  | .vmulh t u p d a b => some (encInt 0x04 t false u p d a b)
  | .vmad t sat u p d a b => some (encInt 0x05 t sat u p d a b)
  | .vneg t sat p d a => some (encVA 0x06 t.code (bit sat) p d a 0)
  | .vabs t sat p d a => some (encVA 0x07 t.code (bit sat) p d a 0)
  | .vmin t u p d a b => some (encInt 0x08 t false u p d a b)
  | .vmax t u p d a b => some (encInt 0x09 t false u p d a b)
  | .vand p d a b => some (encVA 0x0A 0 0 p d a b.code)
  | .vor p d a b => some (encVA 0x0B 0 0 p d a b.code)
  | .vxor p d a b => some (encVA 0x0C 0 0 p d a b.code)
  | .vnot p d a => some (encVA 0x0D 0 0 p d a 0)
  | .vshl t p d a b => some (encInt 0x0E t false false p d a b)
  | .vshr t p d a b => some (encInt 0x0F t false false p d a b)
  | .vsar t p d a b => some (encInt 0x10 t false false p d a b)
  | .vbfe s p d a b => some (encVA 0x11 0 (bit s) p d a b.code)
  | .vbfi p d a b => some (encVA 0x12 0 0 p d a b.code)
  | .vpopc t p d a => some (encVA 0x13 t.code 0 p d a 0)
  | .vclz t p d a => some (encVA 0x14 t.code 0 p d a 0)
  | .vcmp u c p d a b => some (encVA 0x15 (bit u) (c.code / 4) p (16 * (c.code % 4) + d) a b.code)
  | .vsel p d a b => some (encVA 0x16 0 0 p d a b.code)
  | .vmov p d b => some (encVA 0x17 0 0 p d 0 b.code)
  | .vmovAcc p d hi a => some (encVA 0x18 0 0 p d (16 * bit hi + a) 0)
  | .vmovi m p d i => some (encVI 0x19 0 m.code p d i.toNat)
  | .vfadd t m p d a b => some (encFlt 0x1A t m p d a b)
  | .vfsub t m p d a b => some (encFlt 0x1B t m p d a b)
  | .vfmul t m p d a b => some (encFlt 0x1C t m p d a b)
  | .vfma t m p d a b => some (encFlt 0x1D t m p d a b)
  | .vfms t m p d a b => some (encFlt 0x1E t m p d a b)
  | .vfmin t p d a b => some (encFlt 0x1F t .rne p d a b)
  | .vfmax t p d a b => some (encFlt 0x20 t .rne p d a b)
  | .vfcmp c p d a b => some (encVA 0x21 2 (c.code / 4) p (16 * (c.code % 4) + d) a b.code)
  | .vfrcp t m p d a => some (encFlt1 0x22 t m p d a)
  | .vfrsq t m p d a => some (encFlt1 0x23 t m p d a)
  | .vfdivs t m p d a b => some (encFlt 0x24 t m p d a b)
  | .vfexp2 t m p d a => some (encFlt1 0x25 t m p d a)
  | .vflog2 t m p d a => some (encFlt1 0x26 t m p d a)
  | .vfrnd t m p d a => some (encFlt1 0x27 t m p d a)
  | .vfclass t p d a => some (encFlt1 0x28 t .rne p d a)
  | .vcvt t r s p d a => some (encVA 0x29 t.code 0 p d a (8 * r.code + s.code))
  | .vcvtn t r s g p d a => some (encVA 0x2A t.code g p d a (8 * r.code + s.code))
  | .vcvtw t r s g p d a => some (encVA 0x2B t.code g p d a (8 * r.code + s.code))
  | .vcvtf t r f src g p d a => some (encVA 0x2C t.code (g % 4) p d a (16 * r.code + 4 * f + 2 * bit src + g / 4))
  | .vqmx t s c d a sr x => some (encVA 0x2D t.code s c d a (64 * bit sr + x))
  | .vdqmx t s c d a rtz x => some (encVA 0x2E t.code s c d a (64 * bit rtz + x))
  | .vshuf p d a b => some (encVA 0x2F 0 0 p d a b)
  | .vshufImm k p d n => some (encVI 0x30 0 0 p d (2048 * k.code + n))
  | .vbcast p d a b => some (encVA 0x31 0 0 p d a (64 + b))
  | .vbfly p d a b => some (encVA 0x32 0 0 p d a b.code)
  | .vred t m o p d a => some (encVA 0x33 t.code m.code p d a o.code)
  | .vscan t m o p d a => some (encVA 0x34 t.code m.code p d a o.code)
  | .vballot hi p d a => some (encVA 0x35 0 (bit hi) p d a 0)
  | .vvote m p d a => some (encVA 0x36 0 m.code p d a 0)
  | .vactive m p d => some (encVA 0x37 0 m.code p d 0 0)
  | .vftwos p d a b => some (encVA 0x38 2 0 p d a b.code)
  | .vftwop p d a b => some (encVA 0x39 2 0 p d a b.code)
  | .ld w h p d a b => some (encVA 0x01 w.code h.code p d a b.code)
  | .st w h p d a b => some (encVA 0x02 w.code h.code p d a b.code)
  | .ldu w h d a b => some (encVA 0x03 w.code h.code 0 d a (64 + b))
  | .stu w h d a b => some (encVA 0x04 w.code h.code 0 d a (64 + b))
  | .lda w sc d a b => some (encMO 0x05 w.code sc.code d a (64 + b))
  | .stl d64 sc d a b => some (encMO 0x06 (4 + 2 * bit d64) sc.code d a (64 + b))
  | .ldt h t a b => some (encMT 0x07 0 h.code t a b)
  | .stt h t a b => some (encMT 0x08 0 h.code t a b)
  | .ldta k h t a b => some (encMT 0x09 k h.code t a b)
  | .stta k h t a b => some (encMT 0x0A k h.code t a b)
  | .spld w p d a b => some (encVA 0x0B w.code 0 p d a b.code)
  | .spst w p d a b => some (encVA 0x0C w.code 0 p d a b.code)
  | .spldt t a b => some (encMT 0x0D 0 0 t a b)
  | .spstt t a b => some (encMT 0x0E 0 0 t a b)
  | .atom o w p d a b => some (encVA 0x0F o.code w.code p d a b.code)
  | .atomf o w p d a b => some (encVA 0x10 o.code w.code p d a b.code)
  | .cas w p d a b => some (encVA 0x11 0 w.code p d a b.code)
  | .atomu o w d a b => some (encVA 0x12 o.code w.code 0 d a (64 + b))
  | .rwb a b => some (encVA 0x13 0 0 0 0 a (64 + b))
  | .rinv a b => some (encVA 0x14 0 0 0 0 a (64 + b))
  | .rflush a b => some (encVA 0x15 0 0 0 0 a (64 + b))
  | .pref w p a b => some (encVA 0x16 w.code 0 p 0 a b.code)
  | .fence sc => some (encMO 0x17 0 sc.code 0 0 0)
  | .fencesc => some (encMO 0x18 0 4 0 0 0)
  | .nodest d a b => some (encVA 0x19 0 0 0 d a (64 + b))
  | .filldone a => some (encVA 0x1A 0 0 0 0 a 0)
  | .fillfail a b => some (encVA 0x1B 0 0 0 0 a (64 + b))
  | .fillq d a => some (encVA 0x1C 0 0 0 d a 0)
  | .fillhint w a => some (encVA 0x1D w.code 0 0 0 a 0)
  | .l1q d => some (encVA 0x1E 0 0 0 d 0 0)
  | .mpush r m => some (encMX 0x01 0 r 0 0 m.code)
  | .mpushTile r t m => some (encMX 0x01 0 r t 1 m.code)
  | .mshift n => some (encMX 0x02 0 0 0 0 n)
  | .macc m => some (encMX 0x03 0 0 0 0 m.code)
  | .mdrain a keep m => some (encMX 0x04 a 0 0 0 (256 * bit keep + m.code))
  | .mlds skip r m => some (encMX 0x05 (bit skip) r 0 0 m.code)
  | .mldsTile skip r t m => some (encMX 0x05 (bit skip) r t 1 m.code)
  | .mswap => some (encMX 0x06 0 0 0 0 0)
  | .mopImm e w x f ws xs => some (encMX 0x07 e 0 0 0 (256 * w + 16 * x + 4 * f + 2 * bit ws + bit xs))
  | .mopReg k => some (encMX 0x08 0 0 0 0 k)
  | .mclr => some (encMX 0x09 0 0 0 0 0)
  | .mstat k => some (encMX 0x0A 0 0 0 0 k)
  | .mwait => some (encMX 0x0B 0 0 0 0 0)
  | .mrda a t n => some (encMX 0x0C a 0 t 0 (256 * n))
  | .mwra a t p n m => some (encMX 0x0D a 0 t (bit p) (256 * n + m))
  | .mfreeze off => some (encMX 0x0E 0 0 0 0 (bit off))
  | .mscan inp k => some (encMX 0x0F 0 0 0 (bit inp) k)
  | .sbind s a e wrap wr => some (encST 0x01 s 0 a 0 (4 * e + 2 * bit wrap + bit wr))
  | .spat s a b n => some (encST 0x02 s 0 a b n)
  | .spatRing a b => some (encST 0x02 0 0 a b 8)
  | .srst s st => some (encST 0x03 s 0 0 0 (bit st))
  | .sstat s a => some (encST 0x04 s 0 a 0 0)
  | .sdrain s => some (encST 0x05 s 0 0 0 0)
  | .speek s t n => some (encST 0x06 s t 0 0 n)
  | .mcast t a b => some (encST 0x07 0 t a b 0)
  | .mcastSp a b => some (encST 0x07 0 0 a b 1)
  | .mcsem a n => some (encST 0x08 0 0 a 0 n)
  | .gtake a => some (encST 0x09 0 0 a 0 0)
  | .grls => some (encST 0x0A 0 0 0 0 0)
  | .pemit hi p a => some (encSC 0x01 (bit hi) p 0 a 0)
  | .vemit m p a => some (encSC 0x02 m.code p 0 a 0)
  | .mend => some (encSC 0x03 0 0 0 0 0)
  | .rkick b => some (encSC 0x04 0 0 0 0 (64 + b))
  | .zqry m p d => some (encSC 0x05 m.code p d 0 0)
  | .depw m p a => some (encSC 0x06 m.code p 0 a 0)
  | .kill p => some (encSC 0x07 0 p 0 0 0)
  | .interp flat n p d => some (encSC 0x08 (16 * bit flat + n) p d 0 0)
  | .tex l p d a b => some (encSC 0x09 (bit l) p d a (64 + b))
  | .texl l p d a b => some (encSC 0x0A (bit l) p d a (64 + b))
  | .texg c l p d a b => some (encSC 0x0B (bit l + 2 * c) p d a (64 + b))
  | .texq p d a b => some (encSC 0x0C 0 p d a (64 + b))
  | .trace m p d a b => some (encSC 0x0D m.code p d a (64 + b))
  | .tqry p d => some (encSC 0x0E 0 p d 0 0)
  | .tacc p d a b => some (encSC 0x0F 0 p d a (64 + b))
  | .gexp p a b => some (encSC 0x10 0 p 0 a b)
  | .gflush b => some (encSC 0x11 0 0 0 0 (64 + b))
  | .gbind b => some (encSC 0x12 0 0 0 0 (64 + b))
  | .xmov u p a => some (encXF 0x01 (16 * u.code + p.code) 0 a 0)
  | .xmovt u p b => some (encXF 0x02 (16 * u.code + p.code) 0 0 b.code)
  | .xget u d => some (encXF 0x03 (16 * u.code) d 0 0)
  | .xgets u d => some (encXF 0x04 (16 * u.code) d 0 0)
  | .xcfg u a => some (encXF 0x05 (16 * u.code) 0 a 0)
  | .xstat u d => some (encXF 0x06 (16 * u.code) d 0 0)
  | .xwait u => some (encXF 0x07 (16 * u.code) 0 0 0)
  | .xrst u => some (encXF 0x08 (16 * u.code) 0 0 0)
  | .transformComplete _ _ | .matrixRetire _ | .tileTransferComplete _ _ | .reply _ | .transferUnit _ _ | .multicastLand _
  | .mcsemIncrement _ | .guideDelivery _ _ | .guidePortPlace _ | .creditIncrement _ | .stagingReplay _ _ | .meshletRaster _
  | .fragmentGroupStart _ | .fragmentResolve _ _ | .donecntIncrement _ | .intersectionRun _ _ | .queueWindowWrite _ _ _
  | .recordCheck _ | .dispatch | .gangRetire _ | .joinDecrement _ | .continuationPush _ | .quantumEnd _ | .priorityTrigger
  | .drainLimit _ | .checkpoint _ | .restore _ | .recordReappend _ | .handlerBudget _ _ | .orderedCommit _ | .timerTrap _
  | .sleepWake _ _ | .semwaitRetry _ _ | .pulsarTick _ | .parkedReplay _ _ | .parkedRetryPeriod _ _ | .copyOnWrite _ _
  | .migration _ | .thrashPinEnd _ | .fillStart _ _ | .mergeStep _ | .cacheEviction _ _ _ _ | .scrub _ _ _
  | .flitRetransmit _ _ _ | .errorRingWrite | .msixMessage _ | .commandWindowWrite _ _ _ | .build _ | .destroy _ | .seal _
  | .registerWrite _ | .plainRegisterWrite _ _ _ | .catalogueLoad _ | .translationUpdate _ | .copy _ _ | .attest _ | .quantum _
  | .frame64 _ _ | .frame2m _ _ | .rframe _ | .rtcount _ | .rangeLoad _ | .rangeRemove _ | .resync _ _ | .hostRead _ _
  | .hostWrite _ _ | .unlistedAccess _ _ | .linkFrame _ _ _ _ _ _ _ | .linkAck _ _ _ | .resyncFrame _ _ | .linkRetrain _ | .reset
  | .powerLimit _ | .thermalTrip | .managementRead _ | .managementReset | .sealCompletion _ | .remoteWriteApply _ _
  | .softError _ _ _ _ | .idleIssueEnd _ | .linkDown _ | .msixTableWrite _ _ | .hostAtomicop _ _ _ _ _ => none

end Sys2Proof
end

