-- ==== Sys2Proof/Machine/Spad.lean ====
section
/-!
DEFINITION. A tile's scratchpad (R211, R169), the elements of its streams (R280 to R285), and multicasts in flight (R288 to R290).
-/
namespace Sys2Proof.Machine

-- ## Scratchpad bytes (R211)

def spadGet (t : Tile) (a n : Nat) : List Byte := (run a n).map (Sparse.get 0 t.spad)
/-- Whether the word of a scratchpad byte holds a poison mark (R25). -/
def spadMarked (t : Tile) (a : Nat) : Bool := Sparse.get 0 t.spadPoison (a / 4) != 0
def spadMarks (t : Tile) (a n : Nat) : List Nat := (List.range ((n + 3) / 4)).filter fun j => spadMarked t (a + 4 * j)

/-- The old contents of a line enter the journal before its first write of the interval (R169). -/
def journalLine (t : Tile) (line : Nat) : Tile :=
  if t.journal.any (·.1 == line) then t
  else { t with journal := (line, spadGet t line 64, (upFrom (line / 4) 16).map (Sparse.get 0 t.spadPoison)) :: t.journal }

/-- Bytes and marks written to a scratchpad: a marked word is wholly marked, a clean store clears the bytes it rewrites (R25). -/
def writeSpad (t : Tile) (a : Nat) (data : List Byte) (bad : Nat → Bool) : Tile :=
  { t with
      spad := Sparse.setAll 0 t.spad ((run a data.length).zip data)
      spadPoison := (run a data.length).foldl (fun m x => State.poisonByte m (x / 4) (x % 4) 4 (bad ((x - a) / 4))) t.spadPoison }

-- ## Stream patterns (R280, R283)

/-- Element size in bytes. -/
def Stream.esize (x : Stream) : Nat := 2 ^ (x.esz + 2)
def Stream.total (x : Stream) : Nat := x.c.foldl (· * ·) 1
/-- Displacement of element n: its index in each dimension times the stride. -/
def patOffset : List Nat → List Int → Nat → Int
  | c :: cs, d :: ds, n => (n % c : Nat) * d + patOffset cs ds (n / c)
  | _, _, _ => 0
/-- Scratchpad address of element n. -/
def Stream.addr (x : Stream) (n : Nat) : Nat := (x.base + patOffset x.c x.d (if x.wrap then n % x.total else n)).toNat
/-- CONS as R286 shows it. -/
def Stream.consShown (x : Stream) : Nat := if x.wrap then x.cons % x.total else x.cons
/-- Elements that the buffer holds. -/
def Stream.held (x : Stream) : Nat := x.buf.length / x.esize

def getStream (t : Tile) (i : Nat) : Stream := Sparse.get Stream.zero t.streams i
def setStream (t : Tile) (i : Nat) (x : Stream) : Tile := { t with streams := Sparse.insert t.streams i x }

/-- The transfer unit reads element n of a read stream, with the marks of its words (R284). -/
def elemBytes (t : Tile) (x : Stream) (n : Nat) : List (Byte × Bool) :=
  (run (x.addr n) x.esize).map fun a => (Sparse.get 0 t.spad a, spadMarked t a)
/-- Up to `k` more elements enter the buffer of a read stream, read from the scratchpad of `from_`. -/
def fillStream (from_ : Tile) (x : Stream) : Nat → Stream
  | 0 => x
  | k + 1 =>
    let n := x.cons + x.held
    if x.wrap || decide (n < x.total) then fillStream from_ { x with buf := x.buf ++ elemBytes from_ x n } k else x

/-- The oldest `k` buffered elements of write stream `i` are written to the scratchpad (R284). -/
def drainStream (t : Tile) (i : Nat) : Nat → Tile
  | 0 => t
  | k + 1 =>
    let x := getStream t i
    if x.held = 0 then t
    else
      let e := x.buf.take x.esize
      let t := writeSpad t (x.addr (x.cons - x.held)) (e.map (·.1)) fun j => ((e.drop (4 * j)).take 4).any (·.2)
      drainStream (setStream t i { x with buf := x.buf.drop x.esize }) i k

/-- Rollback of a stream (R298): the elements of the checkpointed part are written, the rest is discarded. -/
def rollbackStream (t : Tile) (i : Nat) : Tile :=
  let x := getStream t i
  let ck := Sparse.get Stream.zero t.ckStreams i
  let t := if x.dir = .wr ∧ x.epoch = ck.epoch then drainStream t i (ck.cons - (x.cons - x.held)) else t
  setStream t i ck

namespace State

-- ## Casts (R289, R290, R154)

/-- A semaphore of a tile gains `n`, saturating; answers whether it saturated. -/
def bumpSem (t : Tile) (sem n : Nat) : Tile × Bool :=
  let c := Sparse.get 0 t.semCount sem + n
  ({ t with semCount := Sparse.set 0 t.semCount sem (min c 0xFFFFFFFF) }, decide (0xFFFFFFFF < c))

/-- A SEMSAT record for a tile semaphore or a word (R154). -/
def semSat (s : State) (ctx src addr sem : Nat) : State :=
  s.logErr { errBase (some ctx) src 0x15 with vaddr := addr, synd := 2 ^ 8 * sem }

/-- One cast reaches its destination. -/
def land (s : State) (c : CastRec) : State :=
  match s.groups.find? (·.1 == c.dst) with
  | none => s
  | some (_, g) =>
    match c.what with
    | .data a b bad => s.setGroup c.dst { g with tile := writeSpad g.tile a b fun j => bad.elem j }
    | .sem n =>
      let r := bumpSem g.tile n 1
      let s := s.setGroup c.dst { g with tile := r.1 }
      if r.2 then s.semSat (s.gang g.gang).ctx (s.group c.src).core 0 n else s

/-- Every multicast of a group lands (R298, R299). -/
def landAll (s : State) (src : Nat) : State :=
  let mine := s.casts.filter fun c => c.src == src
  mine.foldl land { s with casts := s.casts.filter fun c => c.src != src }

end State
end Sys2Proof.Machine
end

