-- ==== Sys2Proof/Machine/Xform.lean ====
section
/-!
DEFINITION. The units of the transform engine (R336 to R354): what an operation reads, computes and writes. They touch only the
group's own scratchpad, tile and stream registers (R352).
-/
namespace Sys2Proof.Machine

-- ## Bit strings, least significant bit first (R85, R347, R350)

def bitsOfByte (b : Byte) : List Bool := (List.range 8).map (bitOf b.toNat)
def bitsOfBytes (l : List Byte) : List Bool := l.flatMap bitsOfByte
def bitsOfNat : Nat → Nat → List Bool
  | 0, _ => []
  | n + 1, x => (x % 2 == 1) :: bitsOfNat n (x / 2)
def natOfBits : List Bool → Nat
  | [] => 0
  | b :: r => bit b + 2 * natOfBits r
/-- Bytes of a bit string, the last padded with zeros. -/
def bytesOfBits : List Bool → List Byte
  | b0 :: b1 :: b2 :: b3 :: b4 :: b5 :: b6 :: b7 :: r =>
    BitVec.ofNat 8 (natOfBits [b0, b1, b2, b3, b4, b5, b6, b7]) :: bytesOfBits r
  | [] => []
  | l => [BitVec.ofNat 8 (natOfBits l)]
/-- The next `n` bits as a number, and the rest. -/
def readBits (n : Nat) (l : List Bool) : Option (Nat × List Bool) :=
  if l.length < n then none else some (natOfBits (l.take n), l.drop n)

/-- What an operation makes of its input. -/
structure XRes where
  /-- DECODE subcode, 0 when the output is good. -/
  sub : Nat
  out : List Byte
  /-- Input bytes consumed. -/
  used : Nat
  /-- Where decoding stopped. -/
  pos : Nat
  /-- The input ended before the operation had what it needs. -/
  short : Bool
  chan : ExcChan
  deriving DecidableEq, Repr

def XRes.bad (sub used : Nat) : XRes := { sub := sub, out := [], used := used, pos := used, short := false, chan := ExcChan.zero }
def XRes.good (out : List Byte) (used : Nat) : XRes :=
  { sub := 0, out := out, used := used, pos := used, short := false, chan := ExcChan.zero }
/-- The input ended; SUB 5 where the unit's rule gives that. -/
def XRes.ended (used : Nat) : XRes := { XRes.bad 5 used with short := true }

-- ## DCZ (R346, R347)

/-- Code length of symbol s. -/
def dczLen (tab : List Byte) (s : Nat) : Nat := fld (tab.getD (s / 2) 0).toNat (4 * (s % 2)) 4
def dczLens (tab : List Byte) : List Nat := (List.range 256).map (dczLen tab)
/-- The symbols of each length 1 to 12, ascending. -/
def dczSyms (tab : List Byte) : List (List Nat) :=
  let l := dczLens tab
  (upFrom 1 12).map fun n => (List.range 256).filter fun s => l.getD s 0 == n
/-- Whether a table is accepted (R346). -/
def dczTableOk (tab : List Byte) : Bool :=
  (dczLens tab).all (· ≤ 12)
    && decide (((dczSyms tab).zipIdx).foldl (fun a x => a + x.1.length * 2 ^ (11 - x.2)) 0 ≤ 4096)

/-- A literal: after n bits, v in the codes of length n gives its symbol. `first` is the first code of the length before, with its
count. -/
def dczLiteral : List (List Nat) → Nat → Nat → List Bool → Option (Option Nat × List Bool)
  | [], _, _, l => some (none, l)
  | syms :: more, v, first, l =>
    match l with
    | [] => none
    | b :: r =>
      let v := 2 * v + bit b
      if first ≤ v ∧ v < first + syms.length then some (nth? syms (v - first), r)
      else dczLiteral more v (2 * (first + syms.length)) r

/-- Copy from the window, overlapping copies repeating; the output is held newest first. -/
def dczCopy (d : Nat) : Nat → List Byte → List Byte
  | 0, out => out
  | n + 1, out => dczCopy d n (out.getD (d - 1) 0 :: out)

/-- The token loop: subcode, output newest first, bits left; 7 stands for the end of the bits. -/
def dczLoop (syms : List (List Nat)) (olen : Nat) : Nat → List Bool → List Byte → Nat × List Byte × List Bool
  | 0, l, out => (0, out, l)
  | fuel + 1, l, out =>
    if olen ≤ out.length then (0, out, l)
    else match l with
      | [] => (7, out, [])
      | false :: r =>
        match dczLiteral syms 0 0 r with
        | none => (7, out, [])
        | some (none, r) => (2, out, r)
        | some (some x, r) => dczLoop syms olen fuel r (BitVec.ofNat 8 x :: out)
      | true :: r =>
        match readBits 20 r with
        | none => (7, out, [])
        | some (x, r) =>
          let n := 3 + x % 256
          let d := 1 + x / 256
          if out.length < d then (1, out, r)
          else if olen < out.length + n then (4, out, r)
          else dczLoop syms olen fuel r (dczCopy d n out)

/-- One block (R347): `len` input bytes are available to it, `q` is .RATIO. -/
def dczRun (tab : List Byte) (len q : Nat) (data : List Byte) : XRes :=
  if data.length < 8 then XRes.ended 8
  else
    let olen := ofLE (data.take 2)
    let clen := ofLE ((data.drop 2).take 2)
    if olen = 0 ∨ 4096 < olen ∨ clen = 0 ∨ 65527 < clen ∨ ofLE ((data.drop 4).take 4) ≠ 0 ∨ len < 8 + clen then XRes.bad 6 8
    else if q * clen < 16 * olen then XRes.bad 3 8
    else
      let pay := (data.drop 8).take clen
      let r := dczLoop (dczSyms tab) olen olen (bitsOfBytes pay) []
      let at_ := 8 + (8 * pay.length - r.2.2.length) / 8
      let used := 8 + (8 * pay.length - r.2.2.length + 7) / 8
      match r.1 with
      | 0 => if pay.length < clen then XRes.ended (8 + clen) else XRes.good r.2.1.reverse (8 + clen)
      | 7 => if pay.length < clen then XRes.ended (8 + pay.length + 1) else XRes.bad 5 (8 + clen)
      | n => { XRes.bad n used with pos := at_ }

-- ## SPX (R349)

/-- The outputs of elements i, i+1, …: bitmap bits, the index of the next packed value. -/
def spxElems (w fill vals : Nat) : List Bool → Nat → List (List Bool)
  | [], _ => []
  | b :: r, k => if b then bitsOfNat w (fld vals (w * k) w) :: spxElems w fill vals r (k + 1)
                 else bitsOfNat w fill :: spxElems w fill vals r k

def spxRun (w n fill : Nat) (data : List Byte) : XRes :=
  if data.length < n / 8 then XRes.ended (n / 8)
  else
    let bm := bitsOfBytes (data.take (n / 8))
    let k := (bm.filter id).length
    let used := n / 8 + (k * w + 7) / 8
    if data.length < used then XRes.ended used
    else
      let vals := ofLE ((data.drop (n / 8)).take ((k * w + 7) / 8))
      XRes.good (bytesOfBits (spxElems w fill vals bm 0).flatten) used

-- ## EXC (R350)

/-- Insert exponent `e` of count `h` into a list of (count, exponent) by descending count, ties by ascending exponent. -/
def excInsert (h e : Nat) : List (Nat × Nat) → List (Nat × Nat)
  | [] => [(h, e)]
  | x :: r => if x.1 < h then (h, e) :: x :: r else x :: excInsert h e r

/-- The update at the end of a flit. -/
def excUpdate (c : ExcChan) (es : List Nat) : ExcChan :=
  let h := (List.range 256).map fun e =>
    let o := Sparse.get 0 c.h e
    (e, min (o - o / 4 + (es.filter (· == e)).length) 65535)
  { h := h.filter (·.2 != 0)
    tbl := ((h.foldl (fun l x => (excInsert x.2 x.1 l).take 16) []).map (·.2)) }

/-- Mantissa bits of the format. -/
def excMant (wide : Bool) : Nat := if wide then 23 else 7

def excCode (c : ExcChan) (wide : Bool) (x : Nat) : List Bool :=
  let m := excMant wide
  let e := fld x m 8
  (match (c.tbl.zipIdx).find? (fun t => t.1 == e) with
   | some t => false :: bitsOfNat 4 t.2
   | none => true :: bitsOfNat 8 e) ++ (bitOf x (m + 8) :: bitsOfNat m x)

/-- The elements of a flit of 256 bytes. -/
def excElems (wide : Bool) (flit : List Byte) : List Nat :=
  let n := if wide then 4 else 2
  (List.range (256 / n)).map fun i => ofLE ((flit.drop (n * i)).take n)

/-- Encode `n` flits. -/
def excEncode (wide : Bool) : Nat → ExcChan → List Byte → List Byte × ExcChan
  | 0, c, _ => ([], c)
  | n + 1, c, data =>
    let es := excElems wide (data.take 256)
    let r := excEncode wide n (excUpdate c (es.map fun x => fld x (excMant wide) 8)) (data.drop 256)
    (bytesOfBits (es.flatMap (excCode c wide)) ++ r.1, r.2)

/-- Decode `n` elements from bits. -/
def excDecodeElems (c : ExcChan) (wide : Bool) : Nat → List Bool → Option (List Nat × List Bool)
  | 0, l => some ([], l)
  | n + 1, l => do
    let m := excMant wide
    let (esc, l) ← readBits 1 l
    let (e, l) ← if esc = 1 then readBits 8 l else (readBits 4 l).map fun x => (c.tbl.getD x.1 0, x.2)
    let (sg, l) ← readBits 1 l
    let (f, l) ← readBits m l
    let (r, l) ← excDecodeElems c wide n l
    some ((f + 2 ^ m * e + 2 ^ (m + 8) * sg) :: r, l)

/-- Decode `n` flits: the output, the bytes used, the channel, and whether the input sufficed. -/
def excDecode (wide : Bool) : Nat → ExcChan → List Byte → List Byte × Nat × ExcChan × Bool
  | 0, c, _ => ([], 0, c, true)
  | n + 1, c, data =>
    let w := if wide then 4 else 2
    let src := data.take 272
    match excDecodeElems c wide (256 / w) (bitsOfBytes src) with
    | none => ([], data.length, c, false)
    | some (es, l) =>
      let k := (8 * src.length - l.length + 7) / 8
      let r := excDecode wide n (excUpdate c (es.map fun x => fld x (excMant wide) 8)) (data.drop k)
      (es.flatMap (leBytes w) ++ r.1, k + r.2.1, r.2.2)

def excRun (op opt len : Nat) (c : ExcChan) (data : List Byte) : XRes :=
  let wide := bitOf opt 4
  if op = 0 then
    if data.length < len then { XRes.ended len with chan := c }
    else
      let r := excEncode wide (len / 256) c data
      { XRes.good r.1 len with chan := r.2 }
  else
    let r := excDecode wide (len / 256) c data
    if r.2.2.2 then { XRes.good r.1 r.2.1 with chan := r.2.2.1 } else { XRes.ended (data.length + 1) with chan := c }

-- ## MXQ (R351)

def mxqSrc (opt : Nat) : Fmt := match fld opt 5 2 with | 0 => f32 | 1 => f16 | _ => bf16
/-- The element format and its packed width; none for a record of another class. -/
def mxqFmt (opt rec_ : Nat) : Option (Fmt × Nat) :=
  match fld opt 0 3 with
  | 0 => some (e4m3, 8) | 1 => some (e5m2, 8) | 2 => some (e2m3, 6) | 3 => some (e3m2, 6) | 4 => some (e2m1, 4)
  | 5 => (recordWidth rec_).map fun w => (fmtOfRecord rec_, w)
  | _ => none
def mxqMode (opt : Nat) : RM := match fld opt 7 2 with | 0 => .rne | 1 => .rtz | 2 => .rdn | _ => .rup

def mxqRun (opt n rec_ : Nat) (data : List Byte) : XRes :=
  match mxqFmt opt rec_ with
  | none => XRes.good [] 0
  | some (f, w) =>
    let sf := mxqSrc opt
    let b := sf.width / 8
    if data.length < n * b then XRes.ended (n * b)
    else
      let vals := (List.range n).map fun i => sf.decode (ofLE ((data.drop (b * i)).take b))
      let blocks := (List.range (n / 32)).map fun j => (vals.drop (32 * j)).take 32
      let scs := blocks.map fun vs => (vs, mxScale f vs)
      let codes := scs.flatMap fun x => x.1.map fun v => mxElem f (.det (mxqMode opt)) x.2 v
      XRes.good (bytesOfBits (codes.flatMap (bitsOfNat w)) ++ scs.map fun x => BitVec.ofNat 8 (mxScaleCode x.2)) (n * b)

-- ## Operands (R341, R342)

/-- One 256-byte row of a read stream. -/
def streamRow (t : Tile) (i : Nat) : Option (Tile × List (Byte × Bool)) :=
  let x := getStream t i
  let k := 256 / x.esize
  if x.dir ≠ .rd ∨ (x.wrap = false ∧ x.total < x.cons + k) then none
  else
    let x := fillStream t x (k - x.held)
    some (setStream t i { x with buf := x.buf.drop 256, cons := x.cons + k }, x.buf.take 256)
/-- Up to `n` rows. -/
def streamRows (i : Nat) : Nat → Tile → Tile × List (Byte × Bool)
  | 0, t => (t, [])
  | n + 1, t => match streamRow t i with
    | none => (t, [])
    | some (t, r) => let x := streamRows i n t; (x.1, r ++ x.2)
/-- Whether a write stream takes `n` more bytes. -/
def streamTakes (t : Tile) (i n : Nat) : Bool :=
  let x := getStream t i
  x.dir == .wr && (x.wrap || decide (x.cons + (n + 255) / 256 * 256 / x.esize ≤ x.total))
/-- Write bytes to a stream in rows of 256, the last filled with zeros. -/
def streamWrite (i : Nat) : Nat → Tile → List Byte → Tile
  | 0, t, _ => t
  | n + 1, t, l =>
    if l = [] then t
    else
      let x := getStream t i
      let spill := x.buf.length + 256 - 1024
      let t := drainStream t i ((spill + x.esize - 1) / x.esize)
      let x := getStream t i
      streamWrite i n (setStream t i { x with buf := x.buf ++ (padTo 0 256 l).map (fun b => (b, false)), cons := x.cons + 256 / x.esize })
        (l.drop 256)

/-- The most input bytes an operation reads, and the most output bytes it writes, from LEN (R341). -/
def xInMax (u : XUnit) (op opt len : Nat) : Nat :=
  match u with
  | .dcz => len
  | .spx => len / 8 + len * (4 * 2 ^ fld opt 0 2) / 8
  | .exc => if op = 0 then len else len / 256 * (if bitOf opt 4 then 264 else 272)
  | .mxq => len * (mxqSrc opt).width / 8
def xOutMax (u : XUnit) (op opt len cfg : Nat) : Nat :=
  match u with
  | .dcz => min 4096 (cfg * (len - 8) / 16)
  | .spx => len * (4 * 2 ^ fld opt 0 2) / 8
  | .exc => if op = 0 then len / 256 * (if bitOf opt 4 then 264 else 272) else len
  | .mxq => match mxqFmt opt cfg with | some (_, w) => len * w / 8 + len / 32 | none => 0

/-- Run an operation on its input. -/
def xRun (u : XUnit) (o : XOp) (c : ExcChan) (data : List Byte) : XRes :=
  match u with
  | .dcz => dczRun o.tab o.len o.cfg data
  | .spx => spxRun (4 * 2 ^ fld o.opt 0 2) o.len o.cfg data
  | .exc => excRun o.n o.opt o.len c data
  | .mxq => mxqRun o.opt o.len o.cfg data

/-- The completion word (R343). -/
def xWord (u : XUnit) (o : XOp) (status sub outLen inLen : Nat) : Nat :=
  2 ^ 63 + status * 2 ^ 48 + sub * 2 ^ 40 + u.code * 2 ^ 34 + o.n * 2 ^ 32 + outLen % 2 ^ 16 * 2 ^ 16 + inLen % 2 ^ 16

-- ## Completion on a group

def getUnit (g : Group) (u : XUnit) : XUnitSt := Sparse.get (XUnitSt.zero u) g.xfm u.code
def setUnit (g : Group) (u : XUnit) (x : XUnitSt) : Group := { g with xfm := Sparse.insert g.xfm u.code x }
def getChan (g : Group) (n : Nat) : ExcChan := Sparse.get ExcChan.zero g.tile.exc n
def setChan (g : Group) (n : Nat) (c : ExcChan) : Group := { g with tile := { g.tile with exc := Sparse.set ExcChan.zero g.tile.exc n c } }
/-- Channels whose bit is set return to the reset state (R350). -/
def resetChans (g : Group) (m : Nat) : Group := (bitsOf 16 m).foldl (fun g n => setChan g n ExcChan.zero) g

def xIdle (x : XUnitSt) : Bool := x.queue.all fun o => o.done.isSome

/-- Bytes written over the front of a tile register, clean. -/
def putTileFront (g : Group) (t : Nat) (b : List Byte) : Group :=
  let full := match g.kind with | .shading => 4096 | .tensor => 8192
  let old := padTo 0 full (Sparse.get [] g.r.t t)
  { g with r := { g.r with t := Sparse.insert g.r.t t (b.take full ++ old.drop (b.take full).length) }
           poison := g.poison.filter fun w => match w with | .t m j => !(m == t && decide (4 * j + 4 ≤ b.length)) | _ => true }

/-- The output of a good operation (R342). -/
def xOutput (g : Group) (o : XOp) (b : List Byte) : Group :=
  match o.out with
  | none => { g with tile := writeSpad g.tile o.dst b fun _ => false }
  | some (.t t) => putTileFront g t b
  | some (.s i) => { g with tile := streamWrite i 32 g.tile b }

/-- The outcome of an operation: STATUS, SUB, output, bytes consumed, position; and the group after the stream rows it read. -/
def xFinish (g : Group) (u : XUnit) (o : XOp) : Group × XOp :=
  let g := if u = .exc then resetChans g o.cfg else g
  let c := getChan g (o.opt % 16)
  let peek := match o.inp with
    | some (.s i) => (streamRows i ((xInMax u o.n o.opt o.len + 255) / 256) g.tile).2
    | _ => o.data
  let r := xRun u o c (peek.map (·.1))
  let g := match o.inp with
    | some (.s i) => { g with tile := (streamRows i ((r.used + 255) / 256) g.tile).1 }
    | _ => g
  let bad := (peek.take r.used).any (·.2)
  let streamIn := match o.inp with | some (.s _) => true | _ => false
  let endsDecode := u = .spx ∨ (u = .exc ∧ o.n = 1) ∨ streamIn = false
  let noRoom := match o.out with | some (.s i) => !streamTakes g.tile i r.out.length | _ => false
  let g := match o.out with | some (.t t) => { g with busy := g.busy.filter (· != .t t) } | _ => g
  let fin := fun (status sub : Nat) => { o with done := some (xWord u o status sub 0 (min r.used peek.length)), pos := r.pos, data := [] }
  if bad then (g, fin 3 0)
  else if r.short && !decide endsDecode then (g, fin 2 0)
  else if r.sub ≠ 0 then (g, fin 1 r.sub)
  else if noRoom then (g, fin 2 0)
  else
    let g := if u = .exc then setChan g (o.opt % 16) r.chan else g
    (xOutput g o r.out, { o with done := some (xWord u o 0 0 r.out.length r.used), data := [] })

/-- The oldest operation of a unit that is not done completes; with none left, a pending channel reset takes effect (R343, R350). -/
def xComplete (g : Group) (u : XUnit) : Group :=
  let x := getUnit g u
  let done := x.queue.takeWhile fun o => o.done.isSome
  match x.queue.drop done.length with
  | [] => g
  | o :: r =>
    let f := xFinish g u o
    let x := { x with queue := done ++ f.2 :: r }
    if u = .exc ∧ xIdle x then setUnit (resetChans f.1 x.cfg) u { x with cfg := 0 } else setUnit f.1 u x

/-- Every operation in flight completes (R352). -/
def xCompleteAll (g : Group) : Group :=
  [XUnit.dcz, .spx, .exc, .mxq].foldl (fun g u => (List.range (getUnit g u).queue.length).foldl (fun g _ => xComplete g u) g) g

/-- Streams that operations in flight hold (R342). -/
def xStreams (g : Group) : List Nat :=
  (g.xfm.flatMap fun x => x.2.queue.filter fun o => o.done.isNone).flatMap fun o =>
    (match o.inp with | some (.s i) => [i.val] | _ => []) ++ (match o.out with | some (.s i) => [i.val] | _ => [])

end Sys2Proof.Machine
end

