-- ==== Sys2Proof/Machine/Ops.lean ====
section
/-!
DEFINITION. The shared operations of the control side: appending records (R107, R108), the fill engine's block states (R391 to
R396), ending a gang (R131), rollback of a tile (R170), taking a trap (R165) and returning from one (R166).
-/
namespace Sys2Proof.Machine

/-- Class codes (R162). -/
def TrapClass.code : TrapClass → Nat
  | .unsealed => 0x01 | .window => 0x02 | .decode => 0x03 | .fill => 0x04 | .recurse => 0x05 | .mop => 0x06
  | .machineCheck => 0x07 | .align => 0x08 | .perm => 0x09 | .page => 0x0A | .software => 0x0B | .timer => 0x0C | .illegal => 0x0D

/-- A trap as its raiser describes it: %tcause and the error record are filled from it (R164, R274). -/
structure Trap where
  cls : TrapClass
  sub : Nat
  lane : Nat
  addr : Nat
  /-- SYND of the error record. -/
  synd : Nat
  paddr : Nat
  deriving DecidableEq, Repr

def mkTrap (cls : TrapClass) (sub lane addr : Nat) : Trap := { cls := cls, sub := sub, lane := lane, addr := addr, synd := 0, paddr := 0 }
def illegal (sub : Nat) : Trap := mkTrap .illegal sub 0 0

/-- Replace the bytes of a list from an offset on. -/
def patch (l : List Byte) (off : Nat) (b : List Byte) : List Byte := l.take off ++ b ++ l.drop (off + b.length)

/-- A little-endian field of a record. -/
def recField (r : List Byte) (off n : Nat) : Nat := ofLE ((r.drop off).take n)

-- ## Fields of a continuation record (R109)

def recImage (r : List Byte) : Nat := recField r 0x00 8
def recEntry (r : List Byte) : Nat := recField r 0x08 1
def recKind (r : List Byte) : Nat := recField r 0x09 1
def recShape0 (r : List Byte) : Nat := recField r 0x0A 1
def recShape1 (r : List Byte) : Nat := recField r 0x0B 1
def recPrio (r : List Byte) : Nat := recField r 0x0C 1 % 16
def recPolicy (r : List Byte) : Nat := recField r 0x0D 1
def recEst (r : List Byte) : Nat := recField r 0x10 4
def recFrame (r : List Byte) : Nat := recField r 0x18 8
def recJoin (r : List Byte) : Nat := recField r 0x20 8
def recArg (r : List Byte) : Nat := recField r 0x28 8
def recGcount (r : List Byte) : Nat := recField r 0x34 4
def killable (r : List Byte) : Bool := bitOf (recPolicy r) 0
def checkpointable (r : List Byte) : Bool := bitOf (recPolicy r) 1
def drainable (r : List Byte) : Bool := bitOf (recPolicy r) 2
def orderedRec (r : List Byte) : Bool := bitOf (recPolicy r) 3

/-- The F32-free queue arithmetic of R105: records held, and room for more. -/
def queueCount (q : Queue) : Nat := (q.tail + 2 ^ 32 - q.head) % 2 ^ 32
def queueRoom (q : Queue) : Nat := 2 ^ q.logcap - queueCount q

/-- Source number of the scheduler of a quadrant (R9, unit 20). -/
def schedSrc (quadrant : Nat) : Nat := srcOf (16 + quadrant) 20
/-- The fill engine that answers for the shared table (R9, unit 17). -/
def fillSrc : Nat := srcOf 16 17

namespace State

def queue? (s : State) (n : Nat) : Option Queue := (s.queues.find? (·.1 == n)).map (·.2)
def setQueue (s : State) (n : Nat) (q : Queue) : State := { s with queues := Sparse.insert s.queues n q }

-- ## Block states (R391)

def range? (s : State) (r : Nat) : Option Range := (s.ranges.find? (·.1 == r)).map (·.2)

def BlockSt.code : BlockSt → Nat
  | .empty => 0 | .filling => 1 | .filled => 2 | .failed => 3

/-- The 16-byte entry of a block in the STATE array. -/
def blockBytes (b : Block) : List Byte :=
  leBytes 1 (BlockSt.code b.st + 4 * bit b.dirty) ++ leBytes 1 b.code ++ leBytes 6 0 ++ leBytes 8 b.use

/-- The physical address of a block's entry, when its page can be written now (R391). -/
def stateEntry (s : State) (r b : Nat) : Option Nat :=
  match s.range? r with | some x => s.ringWritable x.ctx (x.state + 16 * b) | none => none

/-- One SERVICE record with reason 6 for a STATE page that cannot be written (R391). -/
def stateService (s : State) (r b : Nat) : State :=
  match s.range? r with
  | none => s
  | some x =>
    let page := (x.state + 16 * b) / 65536 * 65536
    let c := s.ctx x.ctx
    if c.serviced.elem page then s
    else (s.setCtx x.ctx { c with serviced := page :: c.serviced }).logErr { errBase (some x.ctx) fillSrc 0x10 with vaddr := page, synd := 0x60 }

/-- Set a block's state and write its entry. -/
def setBlock (s : State) (r b : Nat) (x : Block) : State :=
  let s := if (s.block r b).st == x.st then s else s.wake fun _ _ why => why == .block r b
  let s := { s with blocks := Sparse.insert s.blocks (blockKey r b) x }
  match s.stateEntry r b with
  | some pa => s.storeNow fillSrc pa (blockBytes x) false
  | none => s

def dropInflight (s : State) (r b : Nat) : State := { s with inflight := s.inflight.filter fun f => !(f.range == r && f.blk == b) }

/-- A FILLING block becomes FAILED with a code (R395); the change waits for its STATE page (R391). -/
def failBlock (s : State) (r b code : Nat) : State :=
  match s.stateEntry r b with
  | some _ =>
    { (s.setBlock r b { Block.zero with st := .failed, code := code, use := (s.block r b).use }).dropInflight r b with
        failcnt := s.failcnt + 1 }
  | none => State.stateService { s with heldFails := s.heldFails ++ [(r, b, code)] } r b

-- ## Appending records (R106 to R108)

/-- Append a record to a queue that has room: a translated write through the owner's tables; a ring page that cannot be written
discards it (R107). `fill` names the block that a generator record is to fill. -/
def appendRecord (s : State) (src qn : Nat) (r : List Byte) (fill : Option (Nat × Nat)) : State :=
  match s.queue? qn with
  | none => s
  | some q =>
    let va := q.ring + 64 * (q.tail % 2 ^ q.logcap)
    match s.ringWritable q.owner va with
    | some pa =>
      (s.storeNow src pa r false).setQueue qn { q with tail := (q.tail + 1) % 2 ^ 32, waiting := q.waiting ++ [(s.sid, fill)] }
    | none =>
      let s := (s.setQueue qn { q with drops := (q.drops + 1) % 2 ^ 32 }).ctxMsg q.owner 18
      let s := s.logErr { errBase (some q.owner) src 0x10 with vaddr := va, synd := 0x60, jobtag := recJobtag r, gidx := recGidx r }
      match fill with
      | some (a, b) => s.failBlock a b 0x11
      | none => s

/-- Append now if there is room, else hold the record until there is (R113, R131). -/
def pushOrHold (s : State) (ctx src qn : Nat) (r : List Byte) (fill : Option (Nat × Nat)) (again : Bool) : State :=
  match s.queue? qn with
  | some q =>
    if queueRoom q = 0 then { s with heldPush := s.heldPush ++ [{ ctx := ctx, queue := qn, rec_ := r, src := src, fill := fill,
                                                                       again := again }] }
    else s.appendRecord src qn r fill
  | none => s

-- ## Starting fills (R393)

/-- The generator record of a block (R393). -/
def generatorRecord (x : Range) (b : Nat) (tmpl : List Byte) : List Byte :=
  let t := patch tmpl 0x0C (leBytes 1 x.prio)
  let t := patch t 0x0D (leBytes 1 (setBit (recPolicy tmpl) 3 false))
  let t := patch t 0x14 (leBytes 4 b)
  let t := patch t 0x18 (leBytes 8 (x.vbase + b * 2 ^ x.bsize))
  let t := patch t 0x20 (leBytes 8 0)
  patch t 0x34 (leBytes 4 1)

/-- Steps 2 and 3 of R393 for an entry whose record is not appended yet. -/
def pushGenerator (s : State) (r b : Nat) : State :=
  match s.range? r with
  | none => s
  | some x =>
    let q : Req := { ctx := x.ctx, die := 16, gang := none, depth := 0 }
    match s.xlate q x.gen .r with
    | .trap _ _ _ _ => s.failBlock r b 0x10
    | .park _ _ => s
    | .ok _ _ _ | .start _ _ _ _ =>
      match s.unitRead q x.gen 64, s.queue? x.queue with
      | some t, some qq =>
        if queueRoom qq = 0 then s
        else
          let s := { s with inflight := s.inflight.map fun (f : InFlight) => if f.range == r && f.blk == b then { f with pushed := true } else f }
          s.appendRecord fillSrc x.queue (generatorRecord x b t) (some (r, b))
      | some _, none => s.failBlock r b 0x10
      | none, _ => s

/-- Step 1 of R393: take an entry and set an EMPTY block FILLING, when an entry is free and the STATE page can be written. -/
def startFill (s : State) (r b depth : Nat) : State :=
  if (s.block r b).st ≠ .empty ∨ 4096 ≤ s.inflight.length then s
  else match s.stateEntry r b with
    | none => s.stateService r b
    | some _ =>
      let s := s.setBlock r b { s.block r b with st := .filling, code := 0 }
      State.pushGenerator { s with inflight := s.inflight ++ [{ range := r, blk := b, gang := none, depth := depth, pushed := false }] } r b

-- ## Fused clusters (R191)

/-- Cluster number of a shading core in the package: die × 16 + cluster. -/
def clusterOf (core : Nat) : Nat := 16 * dieOf core + unitOf core / 4
/-- The cache that serves a core as its L1: its own, or the fused one of its cluster. -/
def l1Id (s : State) (core : Nat) : Nat := if s.fusedClusters.elem (clusterOf core) then 4096 + clusterOf core else core
def cacheKey (id pa : Nat) : Nat := id * 2 ^ 48 + pa

/-- Whether a gang holds resources now. -/
def resident (g : Gang) : Bool := g.saved == none

/-- Resident gangs on the cluster. -/
def clusterGangs (s : State) (cl : Nat) : List (Nat × Gang) :=
  s.gangs.filter fun x => resident x.2 && x.2.image.kind == .shading && clusterOf x.2.core == cl

/-- Move the dirty bytes of a cache into the die L2 and drop the rest (R190, R191). -/
def flushToL2 (s : State) (id die : Nat) : State :=
  let mine := s.l1.filter fun x => x.1 / 2 ^ 48 == id
  let dirty := mine.filter fun x => x.2.dirty
  { s with l1 := s.l1.filter fun x => x.1 / 2 ^ 48 != id
           l2 := dirty.foldl (fun m x => Sparse.insert m (cacheKey die (x.1 % 2 ^ 48)) x.2) s.l2 }

/-- A fused cluster without a resident gang unfuses (R191). -/
def unfuse (s : State) (core : Nat) : State :=
  let cl := clusterOf core
  if s.fusedClusters.elem cl && s.clusterGangs cl == [] then
    let s := s.flushToL2 (4096 + cl) (dieOf core)
    { s with fusedClusters := s.fusedClusters.filter (· != cl) }
  else s

-- ## Ending a gang (R131)

/-- A fragment gang has ended (R367), or was killed, so that its fragments leave no trace. -/
def endFrags (s : State) (n : Nat) (killed : Bool) : State :=
  { s with frags := s.frags.map fun x =>
      if x.2.gang == some n then
        (x.1, { x.2 with ended := true, gang := none
                         quads := if killed then x.2.quads.map fun q => { q with dead := 15 } else x.2.quads })
      else x }

/-- Drop a gang's groups and what stands for them: frames of the governor (R417), replies, read-only copies (R201), casts, save areas,
then the gang itself. -/
def freeGang (s : State) (n : Nat) : State :=
  let s := s.dropFrames n true
  let g := s.gang n
  let c := s.ctx g.ctx
  let s := if g.areas = [] then s else s.setCtx g.ctx { c with areas := c.areas.filter fun a => !g.areas.elem a }
  let s := { s with groups := s.groups.filter fun x => x.2.gang != n
                    replies := s.replies.filter fun r => r.grp / 128 != n
                    casts := s.casts.filter fun c => c.src / 128 != n
                    ro := s.ro.filter fun x => x.1 / 2 ^ 48 != n
                    gangs := Sparse.erase s.gangs n }
  match g.image.kind with | .shading => s.unfuse g.core | .tensor => s

def gangSrc (g : Gang) : Nat := schedSrc (quadrantOf (dieOf g.core))

/-- Kill (R131): resources are freed, a record of class KILL, HALT or BUDGET is written, the record is appended again or not; a
generator that is not appended again fails its block with `code` (R395). -/
def killGangAs (s : State) (n : Nat) (again : Bool) (code cls sub pc : Nat) : State :=
  let g := s.gang n
  let src := gangSrc g
  let s := s.logErr { errBase (some g.ctx) src cls with jobtag := recJobtag g.rec_, gidx := recGidx g.rec_, sub := sub, pc := pc }
  let s := { s with atomfs := s.atomfs.filter fun h => !(h.queue == g.queue && h.job == g.job && h.gidx == recGidx g.rec_ && orderedRec g.rec_) }
  let s := (s.endFrags n true).freeGang n
  let s := match g.fillOf, again with
    | some (r, b), false => s.failBlock r b code
    | some (r, b), true =>
      { s with inflight := s.inflight.map fun (f : InFlight) => if f.range == r && f.blk == b then { f with gang := none } else f }
    | none, _ => s
  if again then s.pushOrHold g.ctx src g.queue g.rec_ g.fillOf true else s

def killGang (s : State) (n : Nat) (again : Bool) (code : Nat) : State := s.killGangAs n again code 0x11 0 0

-- ## Rollback (R170)

/-- The journal's old lines go back, newest first (R170). -/
def unjournal (m : Sparse Byte) (j : List (Nat × List Byte × List Nat)) : Sparse Byte :=
  j.foldl (fun m e => Sparse.setAll 0 m ((run e.1 64).zip e.2.1)) m
/-- So do the poison marks of their words. -/
def unjournalPoison (m : Sparse Nat) (j : List (Nat × List Byte × List Nat)) : Sparse Nat :=
  j.foldl (fun m e => Sparse.setAll 0 m ((upFrom (e.1 / 4) 16).zip e.2.2)) m

/-- What R170 restores inside a tile; streams, guide ring, array and transform state as their own rules give. -/
def rollbackTile (t : Tile) : Tile :=
  { t with
      spad := unjournal t.spad t.journal
      spadPoison := unjournalPoison t.spadPoison t.journal
      journal := []
      swb := []
      dpush := .none
      semCount := (List.range 16).foldl (fun m i =>
        Sparse.set 0 m i (wrapTo 32 ((Sparse.get 0 t.semCount i : Nat) - Sparse.get 0 t.semDelta i))) t.semCount
      semDelta := []
      credit := t.arrivals
      ring := { t.ring with rbase := t.ckRing.rbase, rslots := t.ckRing.rslots, rsem := t.ckRing.rsem, take := t.ckRing.take, relpend := 0 }
      mat := { t.ckMat with frozen := t.mat.frozen }
      exc := t.ckExc
      mcsems := []
      matBusy := [] }

/-- Rollback of the issuing tile (R170): the checkpoint image comes back, but for a timer raised in the interval (R137). -/
def rollback (s : State) : State :=
  let s := (s.landAll s.cur.grp).modG xCompleteAll
  let s := s.modT fun t => (List.range 16).foldl rollbackStream t
  let s := s.modG fun g =>
    let r := g.tile.ck
    { g with r := if g.tile.raised then { r with arm := false } else r
             poison := g.tile.ckPoison
             busy := []
             withheld := []
             xfers := []
             xfm := g.tile.ckXfm
             tile := rollbackTile g.tile }
  { s with replies := s.replies.filter fun r => r.grp != s.cur.grp }

-- ## Taking a trap (R165)

/-- Registers of the group, not of one lane, that a parked instruction will write: they stay reserved while it is parked. -/
def waitRegs (w : Wait) : List RegId :=
  match w with
  | .mem r => (match r.tile with | some t => [.t t] | none => []) ++ r.todo.filterMap fun a => match a.op with
      | .load _ _ (.kreg d _) | .atomic _ (.kreg d _) => some (.k d)
      | _ => none
  | _ => []
/-- Nothing waits on behalf of the issuing split any more. -/
def dropWaits (s : State) : State :=
  let s := (s.split.waits.flatMap waitRegs).foldl clearBusy s
  s.modSplit fun x => { x with waits := [] }

/-- %tcause (R164). -/
def causeWord (pmask : Bool) (slot lane sub cls : Nat) : Nat := cls + 2 ^ 8 * sub + 2 ^ 16 * lane + 2 ^ 22 * slot + 2 ^ 25 * bit pmask

/-- Classes from whose handler TRET resumes (R162). -/
def resumes : TrapClass → Bool
  | .window | .machineCheck => false
  | _ => true

/-- The error record of a trap: every class but SOFTWARE and TIMER writes one (R162). -/
def trapRecord (s : State) (t : Trap) : State :=
  match t.cls with
  | .software | .timer => s
  | c =>
    s.logErr { s.errHere c.code with flags := bit (resumes c) + 2 * bit (c == .machineCheck), sub := t.sub, lane := t.lane,
                                     vaddr := t.addr, paddr := t.paddr, synd := t.synd }

/-- The issuing split takes a trap (R165): a double fault or a missing handler kills the gang; a tile rolls back; the saved
registers are written, the split goes to trap level with traps masked, and the pc to %tvec. -/
def takeTrap (s : State) (t : Trap) : State :=
  let s := s.trapRecord t
  let x := s.split
  if x.tlev || s.cg.tvec == 0 then
    let s := s.killGang s.cg.gang false t.cls.code
    { s with cur := { s.cur with status := .killed } }
  else
    let pc := x.pc
    let tensor := s.cg.kind == .tensor
    let s := if tensor then s.rollback else s
    let resume := if tensor then s.cg.tile.ckpc else if t.cls == .software then pc + 32 else pc
    let bad := if tensor then pc else resume
    let slot := if t.cls == .timer then 0 else s.cur.slot
    let s := s.dropWaits
    let s := s.modSplit fun x =>
      { x with tepc := resume, tbad := bad, taddr := t.addr, tcause := causeWord x.tmsk slot t.lane t.sub t.cls.code,
               tlev := true, tmsk := true, pc := s.cg.tvec, waits := [], fsc := .idle, arrived := false, barred := false }
    { s with cur := { s.cur with status := .trapped, jumped := true } }

/-- The class a split's %tcause names resumes under TRET (R162). -/
def causeResumes (cause : Nat) : Bool := !(cause % 256 == 2 || cause % 256 == 7)

/-- The issuing split returns from its handler (R166): ordinary level, the mask of before entry, the pc at %tepc. -/
def returnFromTrap (s : State) : State :=
  let s := s.modSplit fun x => { x with tlev := false, tmsk := bitOf x.tcause 25, pc := x.tepc, arrived := true }
  { s with cur := { s.cur with jumped := true } }

/-- Kill the issuing gang in an issued bundle, whose other slots have taken effect (R162). -/
def killHere (s : State) (code cls sub : Nat) : State :=
  let s := s.killGangAs s.cg.gang false code cls sub s.pc
  { s with cur := { s.cur with status := .killed } }

end State
end Sys2Proof.Machine
end

