-- ==== Sys2Proof/Machine/Operands.lean ====
section
/-!
DEFINITION. Operand forms: the elements of a lane (R79, R246), the addresses of memory instructions (R196), register pairs and
groups (R193, R213 to R216), and the accesses an instruction makes, with what R197 checks of each.
-/
namespace Sys2Proof

-- ## Widths (R193, R194)

def MWidth.bytes : MWidth → Nat
  | .b | .sb => 1 | .h | .sh => 2 | .w | .sw => 4 | .d => 8
def MWidth.signed : MWidth → Bool
  | .sb | .sh | .sw => true | .b | .h | .w | .d => false
def SWidth.bytes : SWidth → Nat
  | .b => 1 | .h => 2 | .w => 4 | .d => 8
def AcqWidth.bytes : AcqWidth → Nat
  | .w | .sw => 4 | .d => 8
def AcqWidth.signed : AcqWidth → Bool
  | .sw => true | .w | .d => false
def AtomW.bytes : AtomW → Nat
  | .w | .uw => 4 | .d | .ud => 8
def AtomW.signed : AtomW → Bool
  | .w | .d => true | .uw | .ud => false

def AtomFW.fmt : AtomFW → Machine.Fmt
  | .f32 => Machine.f32 | .f16x2 => Machine.f16 | .bf16x2 => Machine.bf16

/-- A hint of a store that does not allocate. -/
def SHint.noAlloc : SHint → Bool
  | .na => true | .none | .ef => false

end Sys2Proof

namespace Sys2Proof.Machine

-- ## Elements of a lane

/-- Element `i` of `w` bits of a lane. -/
def elem (w i : Nat) (x : W32) : Nat := fld x.toNat (w * i) w
/-- A lane from its elements of `w` bits, the lowest first. -/
def packLane (w : Nat) (l : List Nat) : W32 := BitVec.ofNat 32 (l.foldr (fun e a => e % 2 ^ w + 2 ^ w * a) 0)
/-- An element-wise operation on lanes of 32/w elements. -/
def mapElems (w : Nat) (f : Nat → Nat) (a : W32) : W32 := packLane w ((List.range (32 / w)).map fun i => f (elem w i a))
def zipElems (w : Nat) (f : Nat → Nat → Nat) (a b : W32) : W32 :=
  packLane w ((List.range (32 / w)).map fun i => f (elem w i a) (elem w i b))
def zip3Elems (w : Nat) (f : Nat → Nat → Nat → Nat) (a b c : W32) : W32 :=
  packLane w ((List.range (32 / w)).map fun i => f (elem w i a) (elem w i b) (elem w i c))

-- ## Atomic arithmetic (R213 to R216)


/-- The new integer value. -/
def atomInt (o : AtomOp) (w : AtomW) (old x : Nat) : Nat :=
  let n := 8 * w.bytes
  let lt := if w.signed then decide (signedOf n old < signedOf n x) else decide (old < x)
  match o with
  | .add => (old + x) % 2 ^ n
  | .min => if lt then old else x
  | .max => if lt then x else old
  | .and => old &&& x
  | .or => old ||| x
  | .xor => old ^^^ x
  | .exch => x

/-- One element of ATOMF. -/
def atomFltElem (o : AtomFOp) (f : Fmt) (a b : Nat) : Nat :=
  match o with
  | .fadd => encode f (.det .rne) (Val.add false (f.decode a) (f.decode b))
  | .fmin => Val.minCode f a b
  | .fmax => Val.maxCode f a b

def atomFlt (o : AtomFOp) (w : AtomFW) (old x : Nat) : Nat :=
  (zipElems w.fmt.width (atomFltElem o w.fmt) (BitVec.ofNat 32 old) (BitVec.ofNat 32 x)).toNat

/-- The bytes an atomic covers. -/
def AtomReq.bytes : AtomReq → Nat
  | .int _ w _ => w.bytes
  | .flt _ _ _ => 4
  | .cas wide _ _ => if wide then 8 else 4

/-- What it writes, if it writes. -/
def AtomReq.apply (r : AtomReq) (old : Nat) : Option Nat :=
  match r with
  | .int o w x => some (atomInt o w old (x % 2 ^ (8 * w.bytes)))
  | .flt o w x => some (atomFlt o w old x)
  | .cas wide c n =>
    let m := 2 ^ (if wide then 64 else 32)
    if old = c % m then some (n % m) else none

/-- Whether host memory performs it (R427). -/
def AtomReq.hostOk : AtomReq → Bool
  | .int .add _ _ | .int .exch _ _ | .cas _ _ _ => true
  | .int .min _ _ | .int .max _ _ | .int .and _ _ | .int .or _ _ | .int .xor _ _ | .flt _ _ _ => false

-- ## Accesses

def AccOp.bytes : AccOp → Nat
  | .load n _ _ => n
  | .store d _ _ _ => d.length
  | .atomic r _ => r.bytes

/-- What the leaf must allow (R259). -/
def AccOp.need : AccOp → Need
  | .load _ _ _ => .r
  | .store _ _ _ _ => .w
  | .atomic _ _ => .rw

/-- The destination register of a loaded value. -/
def LoadDst.reg? : LoadDst → Option RegId
  | .none => Option.none
  | .lane d _ _ _ => some (.v d)
  | .kreg d _ => some (.k d)
  | .row t _ => some (.t t)

/-- The second register of a wide lane destination. -/
def LoadDst.reg2? : LoadDst → Option RegId
  | .lane d _ true _ => some (.v (d + 1))
  | _ => Option.none

def LoadDst.regs (d : LoadDst) : List RegId := d.reg?.toList ++ d.reg2?.toList

-- ## Destinations (R193, R199, R202, R207)

/-- A loaded value in its register, with the marks of its poisoned words. -/
def Group.put (g : Group) (d : LoadDst) (b : List Byte) (bad : List Nat) : Group :=
  let n := 8 * b.length
  let x := ofLE b
  match d with
  | .none => g
  | .kreg r sx =>
    let g := g.putK r (BitVec.ofNat 64 (if sx then sext n 64 x else x))
    if bad = [] then g else g.mark (.k r)
  | .lane r l wide sx =>
    let g := g.putV r l (BitVec.ofNat 32 (if sx then sext n 32 x else x))
    let g := if bad.elem 0 then g.mark (.v r l) else g
    if wide then
      let g := g.putV (r + 1) l (BitVec.ofNat 32 (x / 2 ^ 32))
      if bad.elem 1 then g.mark (.v (r + 1) l) else g
    else g
  | .row t i =>
    let full := match g.kind with | .shading => 4096 | .tensor => 8192
    let g := { g with r := { g.r with t := Sparse.insert g.r.t t (patch (padTo 0 full (Sparse.get [] g.r.t t)) (64 * i) b) }
                      poison := g.poison.filter fun w => match w with
                        | .t m j => !(m == t && decide (16 * i ≤ j) && decide (j < 16 * i + b.length / 4))
                        | _ => true }
    bad.foldl (fun g j => g.mark (.t t (16 * i + j))) g

def Group.putAll (g : Group) (ws : List (LoadDst × List Byte × List Nat)) : Group :=
  ws.foldl (fun g w => g.put w.1 w.2.1 w.2.2) g

namespace State

-- ## Address forms (R196)

/-- Per-lane: kA + SignExtend(vB[l]), or kA + kB + l × size. -/
def laneAddr (s : State) (a : KReg) (b : VK) (size l : Nat) : Nat :=
  match b with
  | .v n => ((s.k a).toNat + sext 32 64 (s.v n l).toNat) % 2 ^ 64
  | .k n => ((s.k a).toNat + (s.k n).toNat + l * size) % 2 ^ 64
/-- Uniform: kA + kB. -/
def uniAddr (s : State) (a b : KReg) : Nat := ((s.k a).toNat + (s.k b).toNat) % 2 ^ 64
/-- Row n of a tile: kA + n × kB. -/
def rowAddr (s : State) (a b : KReg) (n : Nat) : Nat := ((s.k a).toNat + n * (s.k b).toNat) % 2 ^ 64

-- ## Register operands of memory instructions

/-- The low `n` bytes of a lane of vD, or of the pair vD, vD+1, and whether a word of them is poisoned. -/
def laneData (s : State) (d l n : Nat) : List Byte := leBytes n ((s.v d l).toNat + 2 ^ 32 * (s.v (d + 1) l).toNat)
def laneBad (s : State) (d l n : Nat) : Bool := s.regPoisoned (.v d l) || (decide (4 < n) && s.regPoisoned (.v (d + 1) l))
/-- A 64-bit lane value of a register pair. -/
def lanePair (s : State) (d l : Nat) : Nat := (s.v d l).toNat + 2 ^ 32 * (s.v (d + 1) l).toNat

/-- Bytes of a tile register from `off`, and whether any word of them is poisoned. -/
def tilePart (s : State) (t off n : Nat) : List Byte := ((s.t t).drop off).take n
def tileBad (s : State) (t off n : Nat) : Bool := (upFrom (off / 4) (n / 4)).any fun j => s.regPoisoned (.t t j)

/-- The 64-byte lines of a tile transfer on a shading core, whole 128-byte rows on a tile: (row, offset, bytes). -/
def tileUnits (s : State) : List (Nat × Nat × Nat) :=
  match s.kind with
  | .shading => (List.range (2 * s.rows)).map fun i => (i / 2, 64 * i, 64)
  | .tensor => (List.range s.rows).map fun i => (i, 128 * i, 128)

/-- The accesses of a tile load or store. -/
def tileLoads (s : State) (t : Nat) (h : Hint) (a b : KReg) : List Access :=
  s.tileUnits.map fun u => { lane := u.1, va := (s.rowAddr a b u.1 + u.2.1 % 128) % 2 ^ 64, op := .load u.2.2 h (.row t (u.2.1 / 64)) }
def tileStores (s : State) (t : Nat) (h : SHint) (a b : KReg) : List Access :=
  s.tileUnits.map fun u =>
    { lane := u.1, va := (s.rowAddr a b u.1 + u.2.1 % 128) % 2 ^ 64
      op := .store (s.tilePart t u.2.1 u.2.2) (s.tileBad t u.2.1 u.2.2) h.noAlloc none }

-- ## Checks 1 to 3 of R197

/-- Checks 1 and 2 of a global access: canonical, then a multiple of `al` (ALIGN subcode `sub`). -/
def globalCheck (s : State) (al sub : Nat) (a : Access) : Option Trap :=
  if 2 ^ 52 ≤ a.va then
    some (match s.kind with | .shading => mkTrap .perm 2 a.lane a.va | .tensor => mkTrap .window 0 a.lane a.va)
  else if a.va % al ≠ 0 then some (mkTrap .align sub a.lane a.va)
  else none

/-- The first failing access, in lane or row order. -/
def firstCheck (s : State) (al sub : Nat) (l : List Access) : Option Trap := l.findSome? (s.globalCheck al sub)

/-- Checks 2 and 3 of a scratchpad access of `n` bytes. -/
def spadCheck (al sub n lane addr : Nat) : Option Trap :=
  if addr % al ≠ 0 then some (mkTrap .align sub lane addr)
  else if 0x800000 < addr + n then some (mkTrap .perm 3 lane addr)
  else none

end State
end Sys2Proof.Machine
end

