-- ==== Sys2Proof/Machine/Access.lean ====
section
/-!
DEFINITION. How the accesses of an instruction are performed: the caches of software-managed pages (R190), loads, stores and
atomics on either core kind, parking and replay (R198, R209, R261 to R263), and the scratchpad with its journal (R211).
-/
namespace Sys2Proof.Machine
namespace State

/-- The requester that the issuing split is (R259, R394). -/
def reqHere (s : State) : Req := { ctx := s.gg.ctx, die := s.die, gang := some s.cg.gang, depth := s.gg.depth }
/-- Whether the issuing gang's job is in ordered mode (R139). -/
def orderedHere (s : State) : Bool := orderedRec s.gg.rec_

/-- Numbers of the poisoned 32-bit words of a run of memory bytes (R25, R202). -/
def badWords (s : State) (pa n : Nat) : List Nat :=
  (List.range ((n + 3) / 4)).filter fun j => s.anyPoisoned (pa + 4 * j) (min 4 n)

-- ## Software-managed pages (R190)

/-- The issuing core's L1, or its fused cluster's (R191). -/
def myL1 (s : State) : Nat := s.l1Id s.src

/-- The 64-byte line comes into the die L2: bytes already held stay. -/
def fillL2 (s : State) (pa : Nat) : State :=
  (run (lineOf pa) 64).foldl (fun s a =>
    let key := cacheKey s.die a
    if (s.l2.find? (·.1 == key)).isSome then s
    else { s with l2 := Sparse.insert s.l2 key { val := s.dieByte s.die a, dirty := false, bad := s.poisoned a, ctx := s.gg.ctx } }) s

/-- The line comes into the L1 from the die L2. -/
def fillL1 (s : State) (pa : Nat) : State :=
  (run (lineOf pa) 64).foldl (fun s a =>
    let key := cacheKey s.myL1 a
    if (s.l1.find? (·.1 == key)).isSome then s
    else match s.l2.find? (·.1 == cacheKey s.die a) with
      | some e => { s with l1 := Sparse.insert s.l1 key { e.2 with dirty := false } }
      | none => s) s

/-- What the L1, else the die L2, holds of a byte. -/
def smByte (s : State) (pa : Nat) : Byte × Bool :=
  match s.l1.find? (·.1 == cacheKey s.myL1 pa) with
  | some e => (e.2.val, e.2.bad)
  | none => match s.l2.find? (·.1 == cacheKey s.die pa) with
    | some e => (e.2.val, e.2.bad)
    | none => (s.dieByte s.die pa, s.poisoned pa)

/-- A load of a software-managed page; .NA does not allocate in the L1 (R193). -/
def smLoad (s : State) (pa n : Nat) (h : Hint) : State × List Byte × List Nat :=
  let s := (linesOf pa n).foldl (fun s l => s.fillL2 l) s
  let s := if h = .na then s else (linesOf pa n).foldl (fun s l => s.fillL1 l) s
  (s, (run pa n).map fun a => (s.smByte a).1,
    (List.range ((n + 3) / 4)).filter fun j => (run (pa + 4 * j) (min 4 n)).any fun a => (s.smByte a).2)

/-- A store of a software-managed page: dirty bytes of the L1, or of the die L2 under .NA (R190, R193). -/
def smStore (s : State) (pa : Nat) (data : List Byte) (bad na : Bool) : State :=
  ((run pa data.length).zip data).foldl (fun s x =>
    let e : CByte := { val := x.2, dirty := true, bad := bad, ctx := s.gg.ctx }
    if na then { s with l1 := Sparse.erase s.l1 (cacheKey s.myL1 x.1), l2 := Sparse.insert s.l2 (cacheKey s.die x.1) e }
    else { s with l1 := Sparse.insert s.l1 (cacheKey s.myL1 x.1) e }) s

/-- Write back the dirty bytes that `hit` selects, of one L1 and of one die L2, as stores of `src` (R190, R219); they stay, clean. An
L1 byte is newer than the die's. -/
def writeBack (s : State) (l1 die src : Nat) (hit : Nat → CByte → Bool) : State :=
  let d2 := s.l2.filter fun x => x.1 / 2 ^ 48 == die && x.2.dirty && hit (x.1 % 2 ^ 48) x.2
  let d1 := s.l1.filter fun x => x.1 / 2 ^ 48 == l1 && x.2.dirty && hit (x.1 % 2 ^ 48) x.2
  let s := (d2 ++ d1).foldl (fun s x => s.storeNow src (x.1 % 2 ^ 48) [x.2.val] x.2.bad) s
  let clean := fun (m : Sparse CByte) (id : Nat) => m.map fun x =>
    if x.1 / 2 ^ 48 == id && x.2.dirty && hit (x.1 % 2 ^ 48) x.2 then (x.1, { x.2 with dirty := false }) else x
  { s with l1 := clean s.l1 l1, l2 := clean s.l2 die }

/-- Drop the clean bytes that `hit` selects (R219, R192). -/
def dropClean (s : State) (l1 die : Nat) (hit : Nat → CByte → Bool) : State :=
  let keep := fun (id : Nat) (x : Nat × CByte) => !(x.1 / 2 ^ 48 == id && !x.2.dirty && hit (x.1 % 2 ^ 48) x.2)
  { s with l1 := s.l1.filter (keep l1), l2 := s.l2.filter (keep die) }

/-- Before an atomic: the core's dirty bytes among those touched go home, and its copies are dropped. -/
def cleanFor (s : State) (pa n : Nat) : State :=
  let hit := fun (a : Nat) (_ : CByte) => decide (pa ≤ a) && decide (a < pa + n)
  (s.writeBack s.myL1 s.die s.src hit).dropClean s.myL1 s.die hit

-- ## Loads, stores and atomics of a shading core

/-- Bytes with the group's own held stores over them (R43). -/
def overHeld (s : State) (pa : Nat) (b : List Byte) : List Byte :=
  s.cg.held.foldl (fun b h => match h with
    | .store q d => (b.zipIdx).map fun x => if q ≤ pa + x.2 ∧ pa + x.2 < q + d.length then d.getD (pa + x.2 - q) 0 else x.1
    | _ => b) b

/-- Bytes of a load with the .RO hint: copies kept since the gang's dispatch come first, and what is read is kept (R201). -/
def roLoad (s : State) (pa : Nat) (b : List Byte) : State × List Byte :=
  let key := fun a => cacheKey s.cg.gang a
  let b' := ((run pa b.length).zip b).map fun x => match s.ro.find? (·.1 == key x.1) with | some e => e.2 | none => x.2
  ({ s with ro := ((run pa b.length).zip b').foldl (fun m x => Sparse.insert m (key x.1) x.2) s.ro }, b')

/-- A load of a shading core (R188, R190, R201, R427). -/
def shadeLoad (s : State) (pa n : Nat) (sm : Bool) (h : Hint) : State × List Byte × List Nat :=
  let r : State × List Byte × List Nat :=
    if sm then s.smLoad pa n h else (s.noteHostRead pa, s.dieBytes s.die pa n, s.badWords pa n)
  let b := r.1.overHeld pa r.2.1
  if h = .ro then
    let x := r.1.roLoad pa b
    (x.1, x.2, r.2.2)
  else (r.1, b, r.2.2)

/-- A NODEST drops the die's cached copies of its 128 bytes (R222). -/
def dropDieCopies (s : State) (pa n : Nat) : State :=
  let hit := fun (x : Nat × CByte) => decide (pa ≤ x.1 % 2 ^ 48) && decide (x.1 % 2 ^ 48 < pa + n)
  let mine := fun (id : Nat) => if id < 4096 then dieOf id == s.die else (id - 4096) / 16 == s.die
  { s with l1 := s.l1.filter (fun x => !(mine (x.1 / 2 ^ 48) && hit x)), l2 := s.l2.filter fun x => !(x.1 / 2 ^ 48 == s.die && hit x) }

/-- A store of a shading core (R190, R199, R43). -/
def shadeStore (s : State) (lane pa : Nat) (sm : Bool) (data : List Byte) (bad na : Bool) : State :=
  let nodest := data.length == 128
  let s := if nodest then s.dropDieCopies pa 128 else s
  if s.orderedHere then s.modG fun g => { g with held := g.held ++ [.store pa data] }
  else if sm && !nodest then s.smStore pa data bad na
  else s.queueStore s.src s.cur.grp s.cur.split lane pa data bad

/-- Whether the reads and the write of an atomic are held for the commit (R218). -/
def holdAtomic (s : State) (lane pa : Nat) (r : AtomReq) (dst : LoadDst) : State × List (LoadDst × List Byte × List Nat) :=
  match r with
  | .flt o w x =>
    ({ s with atomfs := s.atomfs ++ [{ queue := s.gg.queue, job := s.gg.job, gidx := recGidx s.gg.rec_, group := s.cg.idx, lane := lane, src := s.src,
                                       pa := pa, op := o, w := w, x := x }] }, [(dst, leBytes 4 0, [])])
  | _ =>
    let s := s.modG fun g => { g with held := g.held ++ [.atomic pa r dst], commitWait := true }
    (dst.regs.foldl setBusy s, [])

/-- One access of a shading core at its physical address. -/
def shadeAccess (s : State) (a : Access) (pa : Nat) (sm : Bool) : State × List (LoadDst × List Byte × List Nat) :=
  match a.op with
  | .load n h dst =>
    let r := s.shadeLoad pa n sm h
    (r.1, [(dst, r.2.1, r.2.2)])
  | .store data bad na _ => (s.shadeStore a.lane pa sm data bad na, [])
  | .atomic r dst =>
    if s.orderedHere then s.holdAtomic a.lane pa r dst
    else
      let s := s.cleanFor pa r.bytes
      let bad := s.badWords pa r.bytes
      let x := s.atomicAt s.src pa r.bytes r.apply
      (x.1, [(dst, leBytes r.bytes x.2, bad)])

-- ## Accesses of a tile (R33, R171)

/-- Bytes with the tile's own withheld stores over them, and their marks (R33). -/
def overSwb (s : State) (pa : Nat) (b : List Byte) (bad : List Nat) : List Byte × List Nat :=
  s.rg.tile.swb.foldl (fun (r : List Byte × List Nat) e => match e with
    | .store q d p _ _ =>
      let hit := fun i => decide (q ≤ pa + i) && decide (pa + i < q + d.length)
      ((r.1.zipIdx).map fun x => if hit x.2 then d.getD (pa + x.2 - q) 0 else x.1,
       (List.range ((b.length + 3) / 4)).filter fun j =>
         if (List.range (min 4 b.length)).all (fun i => hit (4 * j + i)) then p
         else r.2.elem j || (p && (List.range (min 4 b.length)).any fun i => hit (4 * j + i)))
    | _ => r) (b, bad)

/-- A store enters the withholding buffer in pieces of at most a line (R207). -/
def withhold (s : State) (pa : Nat) (data : List Byte) (bad : Bool) (lane : Nat) (stl : Option Scope) : State :=
  let parts := if data.length ≤ 64 then [(pa, data)] else [(pa, data.take 64), (pa + 64, data.drop 64)]
  s.modT fun t => { t with swb := t.swb ++ parts.map fun x => .store x.1 x.2 bad lane stl }

/-- One access of a tile at its physical address: loads are performed at issue, stores and atomics withheld. -/
def tileAccess (s : State) (a : Access) (pa : Nat) : State × List (LoadDst × List Byte × List Nat) :=
  match a.op with
  | .load n _ dst =>
    let r := s.overSwb pa (s.dieBytes s.die pa n) (s.badWords pa n)
    (s.noteHostRead pa, [(dst, r.1, r.2)])
  | .store data bad _ stl => (s.withhold pa data bad a.lane stl, [])
  | .atomic r dst =>
    (s.modG fun g => { g with withheld := dst.regs ++ g.withheld, tile := { g.tile with swb := g.tile.swb ++ [.atomic pa r a.lane dst] } },
     [])

-- ## Outcomes (R261, R262, R270, R427)

/-- The outcome of an access of the issuing split. -/
def outcome (s : State) (a : Access) : Xl :=
  let x := match s.kind with
    | .shading => s.xlate s.reqHere a.va a.op.need
    | .tensor => winXlate s.rg.tile.wins a.va a.op.bytes a.op.need
  match x, a.op with
  | .ok pa _ _, .atomic r _ => if paKind pa = .host ∧ r.hostOk = false then .trap .perm 9 0 0 else x
  | _, _ => x

def xlTrap (a : Access) (x : Xl) : Option Trap :=
  match x with
  | .trap cls sub level reason => some { mkTrap cls sub a.lane a.va with synd := level + 16 * reason }
  | _ => none

/-- The trap of the lowest access that takes one (R262). -/
def firstTrap (s : State) (l : List Access) : Option Trap := l.findSome? fun a => xlTrap a (s.outcome a)

/-- An access of a FILLED block sets USE, and a write D (R397). -/
def useBlock (s : State) (r b : Nat) (wr : Bool) : State :=
  let x := s.block r b
  s.setBlock r b { x with use := s.sid, dirty := x.dirty || wr }

/-- What a performed access leaves beside its data: the cached translation, the counts of R265, the block's use, and the end of the
page's absence (R260, R261). -/
def noteDone (s : State) (a : Access) (pa : Nat) (blk : Option (Nat × Nat)) : State :=
  let q := s.reqHere
  let s := match s.seeLeaf q a.va with
    | .leaf _ e big =>
      let s := s.cacheLeaf q a.va e big
      let c := s.ctx q.ctx
      if c.serviced.elem (vpage a.va big) then s.setCtx q.ctx { c with serviced := c.serviced.filter (· != vpage a.va big) } else s
    | .bad _ _ _ => s
  let s := s.noteAccess (quadrantOf q.die) pa
  match blk with
  | some (r, b) => s.useBlock r b (a.op.need != .r)
  | none => s

/-- What parking on a page does; a retry of the same outcome writes no second record (R263). -/
def parkEffect (s : State) (quiet : Bool) (page : Nat) (why : ParkWhy) : State :=
  let q := s.reqHere
  match why with
  | .notResident => if quiet then s else s.noteService q s.src page
  | .cow => s.startCow q s.src page quiet
  | .block r b => s.startFill r b (q.depth + 1)
  | .migrating | .staging => s

/-- Migrations that these accesses start (R265, R268). -/
def startMoves (s : State) (l : List Access) : State :=
  l.foldl (fun s a => match s.outcome a with
    | .start page at_ e big => (s.startMigration s.reqHere s.src page at_ e big).1
    | _ => s) s

/-- The state, the loaded values and the accesses left, each with its page and reason. -/
structure Pass where
  s : State
  got : List (LoadDst × List Byte × List Nat)
  rest : List (Access × Nat × ParkWhy)

/-- One pass of a shading core over accesses of which none traps (R198, R262). -/
def shadePass (s : State) (l : List Access) : Pass :=
  let s := s.startMoves l
  let outs := l.map fun a => (a, s.outcome a)
  outs.foldl (fun (p : Pass) x =>
    let do_ := fun pa sm blk =>
      let r := (p.s.noteDone x.1 pa blk).shadeAccess x.1 pa sm
      { p with s := r.1, got := p.got ++ r.2 }
    match x.2 with
    | .ok pa sm blk => do_ pa sm blk
    | .start _ _ e big => do_ (leafPa e x.1.va big) (leafSm e) none
    | .park page why => { p with rest := p.rest ++ [(x.1, page, why)] }
    | .trap _ _ _ _ => p) { s := s, got := [], rest := [] }

/-- One pass of a tile: windows always hit, or the instruction trapped. -/
def tilePass (s : State) (l : List Access) : Pass :=
  l.foldl (fun (p : Pass) a => match p.s.outcome a with
    | .ok pa _ _ =>
      let r := p.s.tileAccess a pa
      { p with s := r.1, got := p.got ++ r.2 }
    | _ => p) { s := s, got := [], rest := [] }

/-- Loaded values reach their registers, at once or with a later REPLY event, until when the registers are reserved (R52, R66). -/
def deliver (s : State) (ws : List (LoadDst × List Byte × List Nat)) : State :=
  if ws = [] then s
  else if s.replyLater then
    let s := (ws.flatMap fun w => w.1.regs).foldl setBusy s
    { s with replies := s.replies ++ [{ grp := s.cur.grp, writes := ws }] }
  else s.modG fun g => g.putAll ws

/-- The split no longer waits for the memory instruction of a slot. -/
def unwait (s : State) (slot : Nat) : State :=
  s.modSplit fun x => { x with waits := x.waits.filter fun w => match w with | .mem r => r.slot != slot | _ => true }

/-- Translate and perform accesses of the bundle at `pc`: the trap of R262, or all that can be performed, and parking with the rest.
`tile` names the register of a collective tile load, whose completed lines are `rows`; `prev` are the pages that a replay already
waited for. -/
def memRun (s : State) (pc slot : Nat) (l : List Access) (tile : Option Nat) (rows : List (LoadDst × List Byte × List Nat))
    (prev : List (Nat × ParkWhy)) (since : Nat) : State :=
  match s.firstTrap l with
  | some t => State.takeTrap { s.modSplit (fun x => { x with pc := pc }) with cur := { s.cur with slot := slot } } t
  | none =>
    let p := match s.kind with | .shading => s.shadePass l | .tensor => s.tilePass l
    let rows := rows ++ (if tile.isSome then p.got else [])
    let s := (p.s.split.waits.flatMap waitRegs).foldl clearBusy p.s
    let s := s.unwait slot
    if p.rest = [] then s.deliver (if tile.isSome then rows else p.got)
    else
      let s := if tile.isSome then s else s.deliver p.got
      let why := p.rest.map (·.2)
      let r : Replay :=
        { pc := pc, slot := slot, todo := p.rest.map (·.1), tile := tile, rows := rows, why := why, since := since, instr := none
          woken := false }
      let s := (waitRegs (.mem r)).foldl setBusy (s.modSplit fun x => { x with waits := x.waits ++ [.mem r] })
      why.foldl (fun s w => s.parkEffect (prev.elem w) w.1 w.2) s

/-- Whether a transfer of the split still has a line to move that an access would overlap (R30, R208). -/
def xferBlocks (s : State) (l : List Access) : Bool :=
  s.rg.xfers.any fun x => x.split == s.cur.split && x.todo.any fun t => l.any fun a => overlaps a.va a.op.bytes t.va t.op.bytes

/-- A memory instruction: checks 1 to 3 of all its accesses, then one pass (R197, R262). -/
def memIssue (s : State) (al sub : Nat) (l : List Access) (tile : Option Nat) : State :=
  match s.firstCheck al sub l with
  | some t => s.takeTrap t
  | none => if s.xferBlocks l then s.stall else s.nextSeq.memRun s.pc s.cur.slot l tile [] [] s.sid

-- ## Asynchronous tile transfers (R208, R209)

/-- The token of a completed or stopped transfer. -/
def xferToken (units : Nat) (bytes : Nat) (stopped : Option (Nat × Nat)) : Nat :=
  match stopped with
  | none => 2 ^ 63 + units * bytes
  | some (st, row) => 2 ^ 63 + st * 2 ^ 40 + row * 2 ^ 32 + 128 * row

/-- What stops a transfer at a line (R208): PERM, ALIGN, a poisoned register row, or the trap of its translation. -/
def xferStop (s : State) (a : Access) : Option TrapClass :=
  if 2 ^ 52 ≤ a.va then some .perm
  else if a.va % 64 ≠ 0 then some .align
  else if (match a.op with | .store _ bad _ _ => bad | _ => false) then some .machineCheck
  else match s.outcome a with | .trap cls _ _ _ => some cls | _ => none

/-- Rows are moved in order until one stops the transfer or must wait. A load passes over lines that wait and takes the later ones; a
store stops there (R207). -/
def xferLines (s : State) (x : Xfer) (quiet : Bool) : State × Xfer :=
  x.todo.foldl (fun (p : State × Xfer) a =>
    let s := p.1
    let y := p.2
    let later := { y with todo := y.todo ++ [a] }
    if y.stopped.isSome then (s, y)
    else if !y.isLoad && y.todo != [] then (s, later)
    else
      let s := s.startMoves [a]
      match (x.todo.filter (·.lane == a.lane)).findSome? (s.xferStop ·) with
      | some cls => (s, { y with stopped := some (cls.code, a.lane) })
      | none =>
        match s.outcome a with
        | .park page why => (s.parkEffect quiet page why, later)
        | _ =>
          let r := match s.kind with | .shading => s.shadePass [a] | .tensor => s.tilePass [a]
          if r.got.any (fun g => g.2.2 != []) then (r.s, { y with stopped := some (TrapClass.machineCheck.code, a.lane) })
          else (r.s, { y with rows := y.rows ++ r.got })) (s, { x with todo := [] })

/-- LDTA and STTA start a transfer: the registers are reserved, and the instruction retires (R208). On a tile, a row outside every
window traps at issue. -/
def xferIssue (s : State) (token tile : Nat) (isLoad : Bool) (l : List Access) : State :=
  match (match s.kind with
    | .shading => none
    | .tensor => l.findSome? fun a =>
        match s.outcome a with | .trap .window _ _ _ => some (mkTrap .window 0 a.lane a.va) | _ => none) with
  | some t => s.takeTrap t
  | none =>
    if s.xferBlocks l then s.stall
    else
      let x : Xfer := { split := s.cur.split, token := token, tile := tile, isLoad := isLoad, todo := l, rows := [], stopped := none }
      let r := s.nextSeq.xferLines x false
      let s := r.1.setBusy (.k token)
      let s := if isLoad then s.setBusy (.t tile) else s
      s.modG fun g => { g with xfers := g.xfers ++ [r.2] }

/-- A transfer completes, or tries its waiting lines again: the tile of a load, then the token (R208). -/
def xferComplete (s : State) (idx : Nat) : State :=
  match nth? s.cg.xfers idx with
  | none => s
  | some x =>
    let r := s.xferLines x true
    let s := r.1
    let x := r.2
    if x.todo != [] && x.stopped.isNone then s.modG fun g => { g with xfers := setNth g.xfers idx x }
    else
      let s := s.modG fun g => { g with xfers := dropNth g.xfers idx }
      let s := if x.isLoad && x.stopped.isNone then s.modG fun g => g.putAll x.rows else s
      let s := if x.isLoad then s.clearBusy (.t x.tile) else s
      let s := s.modG fun g => g.putK x.token (BitVec.ofNat 64 (xferToken s.rows 128 x.stopped))
      s.clearBusy (.k x.token)

-- ## Scratchpad (R211)

def spadBytes (s : State) (a n : Nat) : List Byte := spadGet s.rg.tile a n
/-- The poisoned words of a run. -/
def spadBadWords (s : State) (a n : Nat) : List Nat := spadMarks s.rg.tile a n

/-- A store of the control core: journal, then write (R211). -/
def spadStore (s : State) (a : Nat) (data : List Byte) (bad : Nat → Bool) : State :=
  s.modT fun t => writeSpad ((linesOf a data.length).foldl journalLine t) a data bad

end State
end Sys2Proof.Machine
end

