-- ==== Sys2Proof/Machine/MemoryI.lean ====
section
/-!
DEFINITION. The memory instructions (R199 to R223); the fill instructions stand with the fill engine.
-/
namespace Sys2Proof.Machine

abbrev Out := Host.Outcome State Fault Refusal

namespace State

/-- Whether a release at a scope may be performed now: no tile transfer of the split has a line left, and beyond the die no store of
the die waits for its merge step (R28, R39, R204). -/
def releaseReady (s : State) (sc : Scope) : Bool :=
  (s.rg.xfers.all fun x => x.split != s.cur.split || x.todo == [])
    && (match sc with
        | .pkg | .sys => s.pend.all fun x => dieOf x.src != s.die
        | .group | .gang | .core | .die => true)

/-- An asynchronous tile store of the split has not written its token (R204). -/
def openStore (s : State) : Bool := s.rg.xfers.any fun x => x.split == s.cur.split && !x.isLoad

/-- The per-lane accesses of an instruction. -/
def laneAccs (s : State) (p : LPred) (a : KReg) (b : VK) (n : Nat) (op : Nat → AccOp) : List Access :=
  (s.lanes p).map fun l => { lane := l, va := s.laneAddr a b n l, op := op l }
def uniAcc (s : State) (a b : KReg) (op : AccOp) : List Access := [{ lane := 0, va := s.uniAddr a b, op := op }]

/-- Physical runs of a byte range, page by page, skipping what cannot be translated at once (R219). -/
def rangeRuns (s : State) (a n : Nat) (need : Need) : List (Nat × Nat) :=
  if n = 0 then []
  else ((List.range ((a + n - 1) / 65536 - a / 65536 + 1)).map (· + a / 65536)).filterMap fun pg =>
    let lo := max a (65536 * pg)
    let hi := min (a + n) (65536 * (pg + 1))
    match s.xlate s.reqHere lo need with
    | .ok pa _ _ => some (pa, hi - lo)
    | .start _ _ e big => some (leafPa e lo big, hi - lo)
    | _ => none

def inRuns (l : List (Nat × Nat)) (pa : Nat) : Bool := l.any fun r => decide (r.1 ≤ pa) && decide (pa < r.1 + r.2)

/-- RWB, RINV and RFLUSH over a range on a shading core (R219). -/
def rangeOp (s : State) (a b : KReg) (wb drop : Bool) : State :=
  match s.kind with
  | .tensor => s
  | .shading =>
    let runs := s.rangeRuns (s.k a).toNat (fld (s.k b).toNat 0 32) (if wb then .rw else .r)
    let hit := fun (pa : Nat) (_ : CByte) => inRuns runs pa
    let s := s.nextSeq
    let s := if wb then s.writeBack s.myL1 s.die s.src hit else s
    if drop then s.dropClean s.myL1 s.die hit else s

/-- PREF of one address (R221). -/
def prefLine (s : State) (lv : PrefLevel) (va : Nat) : State :=
  let go := fun (pa : Nat) (sm : Bool) =>
    let s := s.noteHostRead pa
    match lv with
    | .l1 => if sm then (s.fillL2 pa).fillL1 pa else s
    | .l2 => if sm then s.fillL2 pa else s
    | .msc => s
  match s.outcome { lane := 0, va := va, op := .load 1 .none .none }, s.kind with
  | .ok pa sm _, .shading => go pa sm
  | .start _ _ e big, .shading => go (leafPa e va big) (leafSm e)
  | .ok pa _ _, .tensor => if lv = .msc then s.noteHostRead pa else s
  | _, _ => s

end State

open State

/-- LD (R199). -/
def execLd (w : MWidth) (h : Hint) (p : LPred) (d : VReg) (a : KReg) (b : VK) (s : State) : Out :=
  .next (s.memIssue w.bytes 1 (s.laneAccs p a b w.bytes fun l => .load w.bytes h (.lane d l w.is64 w.signed)) none)
/-- ST (R199). -/
def execSt (w : SWidth) (h : SHint) (p : LPred) (d : VReg) (a : KReg) (b : VK) (s : State) : Out :=
  .next (s.memIssue w.bytes 1
    (s.laneAccs p a b w.bytes fun l => .store (s.laneData d l w.bytes) (s.laneBad d l w.bytes) h.noAlloc none) none)
/-- LDU (R199, R200). -/
def execLdu (w : MWidth) (h : Hint) (d a b : KReg) (s : State) : Out :=
  .next (s.memIssue w.bytes 1 (s.uniAcc a b (.load w.bytes h (.kreg d w.signed))) none)
/-- STU (R199, R200). -/
def execStu (w : SWidth) (h : SHint) (d a b : KReg) (s : State) : Out :=
  .next (s.memIssue w.bytes 1 (s.uniAcc a b (.store (leBytes w.bytes (s.k d).toNat) (s.regPoisoned (.k d)) h.noAlloc none)) none)
/-- LDA: a load with acquire semantics; at SYS scope it first drops the clean host lines (R203, R427). -/
def execLda (w : AcqWidth) (sc : Scope) (d a b : KReg) (s : State) : Out :=
  let s := if sc = .sys then s.dropHostCopies else s
  .next (s.memIssue w.bytes 1 (s.uniAcc a b (.load w.bytes .none (.kreg d w.signed))) none)
/-- STL: a store with release semantics, which waits for the accesses it covers (R203, R39). -/
def execStl (d64 : Bool) (sc : Scope) (d a b : KReg) (s : State) : Out :=
  let n := if d64 then 8 else 4
  if s.releaseReady sc then
    .next (s.memIssue n 1 (s.uniAcc a b (.store (leBytes n (s.k d).toNat) (s.regPoisoned (.k d)) false (some sc))) none)
  else .next s.stall
/-- LDT (R207). -/
def execLdt (h : Hint) (t : TReg) (a b : KReg) (s : State) : Out := .next (s.memIssue 64 2 (s.tileLoads t h a b) (some t.val))
/-- STT (R207). -/
def execStt (h : SHint) (t : TReg) (a b : KReg) (s : State) : Out := .next (s.memIssue 64 2 (s.tileStores t h a b) none)
/-- LDTA (R208). -/
def execLdta (k : KReg) (h : Hint) (t : TReg) (a b : KReg) (s : State) : Out :=
  .next (s.xferIssue k t true (s.tileLoads t h a b))
/-- STTA (R208). -/
def execStta (k : KReg) (h : SHint) (t : TReg) (a b : KReg) (s : State) : Out :=
  .next (s.xferIssue k t false (s.tileStores t h a b))

/-- SPLD (R211). -/
def execSpld (w : MWidth) (p : LPred) (d : VReg) (a : KReg) (b : VK) (s : State) : Out :=
  let n := w.bytes
  match (s.lanes p).findSome? fun l => spadCheck n 1 n l (s.laneAddr a b n l) with
  | some t => .next (s.takeTrap t)
  | none =>
    .next (s.modG fun g => g.putAll ((s.lanes p).map fun l =>
      (.lane d l w.is64 w.signed, s.spadBytes (s.laneAddr a b n l) n, s.spadBadWords (s.laneAddr a b n l) n)))
/-- SPST (R211). -/
def execSpst (w : SWidth) (p : LPred) (d : VReg) (a : KReg) (b : VK) (s : State) : Out :=
  let n := w.bytes
  match (s.lanes p).findSome? fun l => spadCheck n 1 n l (s.laneAddr a b n l) with
  | some t => .next (s.takeTrap t)
  | none =>
    .next ((s.lanes p).foldl (fun s' l =>
      s'.spadStore (s.laneAddr a b n l) (s.laneData d l n) (fun j => s.regPoisoned (.v (d + j) l))) s)
/-- SPLDT (R211). -/
def execSpldt (t : TReg) (a b : KReg) (s : State) : Out :=
  match (List.range s.rows).findSome? fun n => spadCheck 64 2 128 n (s.rowAddr a b n) with
  | some x => .next (s.takeTrap x)
  | none =>
    .next (s.modG fun g => g.putAll ((List.range s.rows).map fun n =>
      (.row t (2 * n), s.spadBytes (s.rowAddr a b n) 128, s.spadBadWords (s.rowAddr a b n) 128)))
/-- SPSTT: rows in ascending order, the later winning (R211, R207). -/
def execSpstt (t : TReg) (a b : KReg) (s : State) : Out :=
  match (List.range s.rows).findSome? fun n => spadCheck 64 2 128 n (s.rowAddr a b n) with
  | some x => .next (s.takeTrap x)
  | none =>
    .next ((List.range s.rows).foldl (fun s' n =>
      s'.spadStore (s.rowAddr a b n) (s.tilePart t (128 * n) 128) (fun j => s.regPoisoned (.t t (32 * n + j)))) s)

/-- ATOM (R213). -/
def execAtom (o : AtomOp) (w : AtomW) (p : LPred) (d : VReg) (a : KReg) (b : VK) (s : State) : Out :=
  .next (s.memIssue w.bytes 1 (s.laneAccs p a b w.bytes fun l =>
    .atomic (.int o w (if w.is64 then s.lanePair (d + 2) l else (s.v (d + 1) l).toNat)) (.lane d l w.is64 false)) none)
/-- ATOMF (R214). -/
def execAtomf (o : AtomFOp) (w : AtomFW) (p : LPred) (d : VReg) (a : KReg) (b : VK) (s : State) : Out :=
  .next (s.memIssue 4 1 (s.laneAccs p a b 4 fun l => .atomic (.flt o w (s.v (d + 1) l).toNat) (.lane d l false false)) none)
/-- CAS (R215). -/
def execCas (w : CasW) (p : LPred) (d : VReg) (a : KReg) (b : VK) (s : State) : Out :=
  let wide := w == .d
  let n := if wide then 8 else 4
  .next (s.memIssue n 1 (s.laneAccs p a b n fun l =>
    .atomic (.cas wide (if wide then s.lanePair (d + 2) l else (s.v (d + 1) l).toNat)
      (if wide then s.lanePair (d + 4) l else (s.v (d + 2) l).toNat)) (.lane d l wide false)) none)
/-- ATOMU (R216). -/
def execAtomu (o : AtomUOp) (w : AtomW) (d a b : KReg) (s : State) : Out :=
  let x := (s.k (d + 1)).toNat
  let r : AtomReq := match o with
    | .op o => .int o w x
    | .cas => .cas w.is64 x (s.k (d + 2)).toNat
  .next (s.memIssue w.bytes 1 (s.uniAcc a b (.atomic r (.kreg d w.signed))) none)

/-- RWB (R219). -/
def execRwb (a b : KReg) (s : State) : Out := .next (s.rangeOp a b true false)
/-- RINV (R219). -/
def execRinv (a b : KReg) (s : State) : Out := .next (s.rangeOp a b false true)
/-- RFLUSH (R219). -/
def execRflush (a b : KReg) (s : State) : Out := .next (s.rangeOp a b true true)
/-- PREF (R221). -/
def execPref (lv : PrefLevel) (p : LPred) (a : KReg) (b : VK) (s : State) : Out :=
  match b with
  | .v _ => .next ((s.lanes p).foldl (fun s' l => s'.prefLine lv (s.laneAddr a b 0 l)) s)
  | .k _ => if s.lanes p = [] then .next s else .next (s.prefLine lv (s.laneAddr a b 0 0))
/-- FENCE: a shading core waits for the split's earlier accesses; a tile leaves a boundary among its withheld stores (R204, R205). -/
def execFence (sc : Scope) (s : State) : Out :=
  let drop := fun (s : State) => if sc = .sys then s.dropHostCopies else s
  match s.kind with
  | .tensor => .next (drop (s.modT fun t => { t with swb := t.swb ++ [.boundary sc] }))
  | .shading => if s.releaseReady sc && !s.openStore then .next (drop s) else .next s.stall
/-- FENCESC: drain, then wait for a tick later than the drain; with the tick taken, the die has every write of the homes (R42). -/
def execFencesc (s : State) : Out :=
  match s.rsplit.fsc with
  | .taken _ => .next ((s.catchUp s.die).modSplit fun x => { x with fsc := .idle })
  | .drained _ => .next s.stall
  | .idle =>
    if s.releaseReady .pkg && !s.openStore then .next ((s.modSplit fun x => { x with fsc := .drained s.sid }).hold)
    else .next s.stall
/-- NODEST (R222). -/
def execNodest (d : VReg) (a b : KReg) (s : State) : Out :=
  let data := (List.range 32).flatMap fun l => leBytes 4 (s.v d l).toNat
  let bad := (List.range 32).any fun l => s.regPoisoned (.v d l)
  .next (s.memIssue 128 1 (s.uniAcc a b (.store data bad true none)) none)
/-- The word L1Q writes (R223). -/
def l1qWord (fused req : Bool) (slice : Nat) : Nat := (if fused then 384 else 96) * 2 ^ 16 + 8 * bit req + 2 * slice + bit fused
/-- L1Q (R223). -/
def execL1q (d : KReg) (s : State) : Out :=
  let fused := s.fusedClusters.elem (clusterOf s.src)
  .next (s.setK d (BitVec.ofNat 64 (l1qWord fused s.gg.image.fused (unitOf s.src % 4))))

end Sys2Proof.Machine
end

