-- ==== Sys2Proof/Machine/Scalar.lean ====
section
/-!
DEFINITION. The scalar engine (R173 to R187): integer arithmetic on k registers, constants, lane reads, special registers and
predicates.
-/
namespace Sys2Proof

/-- W of R178. -/
def KWidth.bits : KWidth → Nat
  | .d => 64 | .w => 32

end Sys2Proof

namespace Sys2Proof.Machine

-- ## Values (R178 to R180)

/-- The operand at its width, zero-extended. -/
def karg (f : KWidth) (x : W64) : W64 := match f with | .d => x | .w => x &&& 0xFFFFFFFF#64
/-- Res of R178. -/
def kres (f : KWidth) (x : W64) : W64 := match f with | .d => x | .w => (x.truncate 32).signExtend 64
/-- A shift count: its low 6 bits, or 5 for .W. -/
def kcount (f : KWidth) (x : Nat) : Nat := match f with | .d => x % 64 | .w => x % 32

def kshlVal (f : KWidth) (a : W64) (n : Nat) : W64 := kres f (karg f a <<< n)
def kshrVal (f : KWidth) (a : W64) (n : Nat) : W64 := kres f (karg f a >>> n)
def ksarVal (f : KWidth) (a : W64) (n : Nat) : W64 := kres f ((kres f a).sshiftRight n)
def krotVal (f : KWidth) (a : W64) (n : Nat) : W64 :=
  match f with | .d => a.rotateLeft n | .w => ((a.truncate 32).rotateLeft n).signExtend 64

/-- KMULH: the high half of the exact product. -/
def kmulhVal (u : Bool) (a b : W64) : W64 :=
  if u then BitVec.ofNat 64 (a.toNat * b.toNat / 2 ^ 64) else BitVec.ofInt 64 (a.toInt * b.toInt / 2 ^ 64)

def kless (f : KWidth) (u : Bool) (a b : W64) : Bool :=
  if u then decide ((karg f a).toNat < (karg f b).toNat) else decide ((kres f a).toInt < (kres f b).toInt)
def kminVal (f : KWidth) (u : Bool) (a b : W64) : W64 := kres f (if kless f u b a then b else a)
def kmaxVal (f : KWidth) (u : Bool) (a b : W64) : W64 := kres f (if kless f u a b then b else a)

/-- Counts over `n` bits (R178). -/
def popCount (n x : Nat) : Nat := (bitsOf n x).length
def leadZeros (n x : Nat) : Nat := if x % 2 ^ n = 0 then n else n - 1 - Nat.log2 (x % 2 ^ n)
def trailZeros (n x : Nat) : Nat := match bitsOf n x with | [] => n | i :: _ => i

/-- One step of restoring division (R179). -/
def kdivsVal (a b : W64) : W64 :=
  let d := fld b.toNat 0 32
  let r := fld a.toNat 31 33
  let q := 2 * fld a.toNat 0 31
  if d ≤ r then BitVec.ofNat 64 ((r - d) % 2 ^ 32 * 2 ^ 32 + q + 1) else BitVec.ofNat 64 (r % 2 ^ 32 * 2 ^ 32 + q)

/-- KBFE and KBFI on a field of `len` bits at `pos` (R180). -/
def kbfeVal (sx : Bool) (a : W64) (pos len : Nat) : W64 :=
  let f := fld a.toNat pos len
  BitVec.ofNat 64 (if sx then sext len 64 f else f)
def kbfiVal (d a : W64) (pos len : Nat) : W64 :=
  let m := (BitVec.ofNat 64 (2 ^ len - 1)) <<< pos
  (d &&& ~~~m) ||| ((a <<< pos) &&& m)

/-- The extension of a lane read (R183). -/
def laneExt (u : Bool) (x : W32) : W64 := if u then x.zeroExtend 64 else x.signExtend 64

namespace State

-- ## Special registers (R184, R185, R164)

/-- Resident core cycles of the issuing group (R137). -/
def resident' (s : State) : Nat := s.cycle - s.rg.since
def lowLane (s : State) : Nat := match s.maskLanes with | [] => 0 | l :: _ => l

/-- The value KRDS reads. -/
def special (s : State) (n : Nat) : W64 :=
  let tile := s.kind == .tensor
  let c := s.cc
  match n with
  | 0x00 => BitVec.ofNat 64 s.lowLane
  | 0x01 => BitVec.ofNat 64 s.rg.idx
  | 0x02 => BitVec.ofNat 64 (recGidx s.gg.rec_)
  | 0x03 => BitVec.ofNat 64 (unitOf s.src)
  | 0x04 => BitVec.ofNat 64 s.die
  | 0x05 => BitVec.ofNat 64 (if tile then tileX s.src else 0)
  | 0x06 => BitVec.ofNat 64 (if tile then tileY s.src else 0)
  | 0x07 => BitVec.ofNat 64 s.vl
  | 0x08 => BitVec.ofNat 64 s.mask
  | 0x09 => BitVec.ofNat 64 s.sid
  | 0x0A => BitVec.ofNat 64 (s.rg.cyc + s.resident')
  | 0x0B => BitVec.ofNat 64 (s.rg.timer + s.resident')
  | 0x0C => BitVec.ofNat 64 (if tile then s.rg.tile.ckpc else 0)
  | 0x0D => BitVec.ofNat 64 (bit s.rg.r.fz16)
  | 0x0E => s.rg.r.srseed
  | 0x10 => BitVec.ofNat 64 s.rg.tvec
  | 0x11 => BitVec.ofNat 64 s.rsplit.tepc
  | 0x12 => BitVec.ofNat 64 s.rsplit.taddr
  | 0x13 => BitVec.ofNat 64 s.rsplit.tbad
  | 0x14 => BitVec.ofNat 64 s.rsplit.tcause
  | 0x20 => BitVec.ofNat 64 s.gg.ctx
  | 0x21 => c.thrn
  | 0x22 => c.thrwin
  | 0x23 => c.thrpin
  | _ => 0

/-- Seed every lane of a group (R92). -/
def seedGroup (r : Regs) (vl gidx idx : Nat) (b : W64) : Regs :=
  { r with srseed := b, lfsr := (List.range vl).map fun l => (l, seedLane b.toNat gidx idx l) }

def setCc (s : State) (c : Ctx) : State := s.setCtx s.gg.ctx c

/-- The effect of KWRS. -/
def writeSpecial (s : State) (n : Nat) (x : W64) : State :=
  match n with
  | 0x0D => s.modR fun r => { r with fz16 := x.getLsbD 0 }
  | 0x0E => s.modR fun r => seedGroup r s.vl (recGidx s.gg.rec_) s.rg.idx x
  | 0x10 => s.modG fun g => { g with tvec := x.toNat / 32 * 32 }
  | 0x11 => s.modSplit fun p => { p with tepc := x.toNat / 32 * 32 }
  | 0x21 => s.setCc { s.cc with thrn := x }
  | 0x22 => s.setCc { s.cc with thrwin := x }
  | 0x23 => s.setCc { s.cc with thrpin := x }
  | _ => s

/-- A predicate operand with its inversion (R186). -/
def pv (s : State) (n : PReg) (inv : Bool) : Nat := if inv then s.p n ^^^ s.allOnes else s.p n

end State

open State

/-- KMOV (R178). -/
def execKmov (d a : KReg) (s : State) : Out := .next (s.setK d (s.k a))
/-- KMOVI (R182). -/
def execKmovi (d : KReg) (i : BitVec 20) (s : State) : Out := .next (s.setK d (i.signExtend 64))
/-- KHI (R182). -/
def execKhi (d : KReg) (i : BitVec 20) (s : State) : Out := .next (s.setK d (i.signExtend 64 <<< 20))
/-- KADD (R178). -/
def execKadd (f : KWidth) (d a b : KReg) (s : State) : Out := .next (s.setK d (kres f (s.k a + s.k b)))
/-- KADDI (R178). -/
def execKaddi (d a : KReg) (i : BitVec 14) (s : State) : Out := .next (s.setK d (s.k a + i.signExtend 64))
/-- KSUB (R178). -/
def execKsub (f : KWidth) (d a b : KReg) (s : State) : Out := .next (s.setK d (kres f (s.k a - s.k b)))
/-- KMUL (R178). -/
def execKmul (f : KWidth) (d a b : KReg) (s : State) : Out := .next (s.setK d (kres f (s.k a * s.k b)))
/-- KMULH (R178). -/
def execKmulh (d a b : KReg) (u : Bool) (s : State) : Out := .next (s.setK d (kmulhVal u (s.k a) (s.k b)))
/-- KMAD (R178). -/
def execKmad (f : KWidth) (d a b : KReg) (s : State) : Out := .next (s.setK d (kres f (s.k a * s.k b + s.k d)))
/-- KDIVS (R179). -/
def execKdivs (d a b : KReg) (s : State) : Out := .next (s.setK d (kdivsVal (s.k a) (s.k b)))
/-- KAND (R178). -/
def execKand (d a b : KReg) (s : State) : Out := .next (s.setK d (s.k a &&& s.k b))
/-- KOR (R178). -/
def execKor (d a b : KReg) (s : State) : Out := .next (s.setK d (s.k a ||| s.k b))
/-- KXOR (R178). -/
def execKxor (d a b : KReg) (s : State) : Out := .next (s.setK d (s.k a ^^^ s.k b))
/-- KNOT (R178). -/
def execKnot (d a : KReg) (s : State) : Out := .next (s.setK d (~~~(s.k a)))
/-- KSHL (R178). -/
def execKshl (f : KWidth) (d a b : KReg) (s : State) : Out := .next (s.setK d (kshlVal f (s.k a) (kcount f (s.k b).toNat)))
/-- KSHR (R178). -/
def execKshr (f : KWidth) (d a b : KReg) (s : State) : Out := .next (s.setK d (kshrVal f (s.k a) (kcount f (s.k b).toNat)))
/-- KSAR (R178). -/
def execKsar (f : KWidth) (d a b : KReg) (s : State) : Out := .next (s.setK d (ksarVal f (s.k a) (kcount f (s.k b).toNat)))
/-- KROT (R178). -/
def execKrot (f : KWidth) (d a b : KReg) (s : State) : Out := .next (s.setK d (krotVal f (s.k a) (kcount f (s.k b).toNat)))
/-- KAND with an immediate (R178). -/
def execKandImm (d a : KReg) (i : BitVec 14) (s : State) : Out := .next (s.setK d (s.k a &&& i.signExtend 64))
/-- KOR with an immediate (R178). -/
def execKorImm (d a : KReg) (i : BitVec 14) (s : State) : Out := .next (s.setK d (s.k a ||| i.signExtend 64))
/-- KXOR with an immediate (R178). -/
def execKxorImm (d a : KReg) (i : BitVec 14) (s : State) : Out := .next (s.setK d (s.k a ^^^ i.signExtend 64))
/-- KSHL with an immediate count (R178). -/
def execKshlImm (w : KWidth) (d a : KReg) (n : Fin 64) (s : State) : Out := .next (s.setK d (kshlVal w (s.k a) n))
/-- KSHR with an immediate count (R178). -/
def execKshrImm (w : KWidth) (d a : KReg) (n : Fin 64) (s : State) : Out := .next (s.setK d (kshrVal w (s.k a) n))
/-- KSAR with an immediate count (R178). -/
def execKsarImm (w : KWidth) (d a : KReg) (n : Fin 64) (s : State) : Out := .next (s.setK d (ksarVal w (s.k a) n))
/-- KROT with an immediate count (R178). -/
def execKrotImm (w : KWidth) (d a : KReg) (n : Fin 64) (s : State) : Out := .next (s.setK d (krotVal w (s.k a) n))
/-- KMIN (R178). -/
def execKmin (f : KWidth) (d a b : KReg) (u : Bool) (s : State) : Out := .next (s.setK d (kminVal f u (s.k a) (s.k b)))
/-- KMAX (R178). -/
def execKmax (f : KWidth) (d a b : KReg) (u : Bool) (s : State) : Out := .next (s.setK d (kmaxVal f u (s.k a) (s.k b)))
/-- KCMP (R181). -/
def execKcmp (f : KWidth) (d a b : KReg) (x : KCond) (s : State) : Out :=
  .next (s.setK d (if kcond x f.bits (s.k a).toNat (s.k b).toNat then 1 else 0))
/-- KSEL (R181). -/
def execKsel (d a b x : KReg) (s : State) : Out := .next (s.setK d (if s.k x ≠ 0 then s.k a else s.k b))
/-- KPOPC (R178). -/
def execKpopc (f : KWidth) (d a : KReg) (s : State) : Out := .next (s.setK d (BitVec.ofNat 64 (popCount f.bits (s.k a).toNat)))
/-- KCLZ (R178). -/
def execKclz (f : KWidth) (d a : KReg) (s : State) : Out := .next (s.setK d (BitVec.ofNat 64 (leadZeros f.bits (s.k a).toNat)))
/-- KCTZ (R178). -/
def execKctz (f : KWidth) (d a : KReg) (s : State) : Out := .next (s.setK d (BitVec.ofNat 64 (trailZeros f.bits (s.k a).toNat)))
/-- KBFE: the X field holds the length minus 1 (R180). -/
def execKbfe (sx : Bool) (d a : KReg) (pos len : Fin 64) (s : State) : Out := .next (s.setK d (kbfeVal sx (s.k a) pos (len + 1 : Nat)))
/-- KBFI (R180). -/
def execKbfi (d a : KReg) (pos len : Fin 64) (s : State) : Out := .next (s.setK d (kbfiVal (s.k d) (s.k a) pos (len + 1 : Nat)))
/-- KRFL: the lowest lane of the split's mask (R183). -/
def execKrfl (u : Bool) (d : KReg) (a : VReg) (s : State) : Out := .next (s.setK d (laneExt u (s.v a s.lowLane)))
/-- KRDL: lane kB mod VL (R183). -/
def execKrdl (u : Bool) (d : KReg) (a : VReg) (b : KReg) (s : State) : Out := .next (s.setK d (laneExt u (s.v a ((s.k b).toNat % s.vl))))
/-- KRDS (R185). -/
def execKrds (d : KReg) (sp : Fin 64) (s : State) : Out := .next (s.setK d (s.special sp))
/-- KWRS (R185). -/
def execKwrs (sp : Fin 64) (b : KReg) (s : State) : Out := .next (s.writeSpecial sp (s.k b))
/-- PAND (R186). -/
def execPand (d a b : PReg) (na nb : Bool) (s : State) : Out := .next (s.setP d s.mask (s.pv a na &&& s.pv b nb))
/-- POR (R186). -/
def execPor (d a b : PReg) (na nb : Bool) (s : State) : Out := .next (s.setP d s.mask (s.pv a na ||| s.pv b nb))
/-- PXOR (R186). -/
def execPxor (d a b : PReg) (na nb : Bool) (s : State) : Out := .next (s.setP d s.mask (s.pv a na ^^^ s.pv b nb))
/-- PNOT (R186). -/
def execPnot (d a : PReg) (s : State) : Out := .next (s.setP d s.mask (s.pv a true))
/-- PMOVK (R186). -/
def execPmovk (d : PReg) (a : KReg) (s : State) : Out := .next (s.setP d s.mask (s.k a).toNat)
/-- KMOVP (R186). -/
def execKmovp (d : KReg) (a : PReg) (s : State) : Out := .next (s.setK d (BitVec.ofNat 64 (s.p a &&& s.mask &&& s.allOnes)))

end Sys2Proof.Machine
end

