-- ==== Sys2Proof/Machine/Vector.lean ====
section
/-!
DEFINITION. The vector engine (R226 to R255): integer and float lanes, compares, moves, conversions with stochastic rounding, MX
quantization, and the cross-lane instructions.
-/
namespace Sys2Proof

-- ## Lane types (R231, R246)

def IntType.bits : IntType → Nat
  | .i32 | .u32 => 32 | .i16x2 => 16 | .i8x4 => 8
/-- Whether elements are signed: U32 never, the others unless U = 1 (R235). -/
def IntType.signed (t : IntType) (u : Bool) : Bool := match t with | .u32 => false | .i32 | .i16x2 | .i8x4 => !u
def SIntType.bits : SIntType → Nat
  | .i32 => 32 | .i16x2 => 16 | .i8x4 => 8
def FltType.fmt : FltType → Machine.Fmt
  | .f32 => Machine.f32 | .f16x2 => Machine.f16 | .bf16x2 => Machine.bf16
def LaneType.bits : LaneType → Nat
  | .i32 | .u32 | .f32 => 32 | .f16x2 | .bf16x2 | .i16x2 => 16 | .i8x4 | .f8x4 => 8

end Sys2Proof

namespace Sys2Proof.Machine

-- ## Integer elements (R235, R236)

/-- An element as an exact integer. -/
def elemInt (sg : Bool) (w x : Nat) : Int := if sg then signedOf w x else x
/-- SAT: clamp, else wrap. -/
def satOr (sat sg : Bool) (w : Nat) (x : Int) : Nat := wrapTo w (if sat then clampInt w sg x else x)

/-- An integer operation of two operands, element by element. -/
def intOp2 (t : IntType) (sat u : Bool) (f : Int → Int → Int) (a b : W32) : W32 :=
  let sg := t.signed u
  zipElems t.bits (fun x y => satOr sat sg t.bits (f (elemInt sg t.bits x) (elemInt sg t.bits y))) a b
/-- VMAD. -/
def intMad (t : IntType) (sat u : Bool) (a b d : W32) : W32 :=
  let sg := t.signed u
  let e := elemInt sg t.bits
  zip3Elems t.bits (fun x y z => satOr sat sg t.bits (e x * e y + e z)) a b d
/-- VMULH: the high half of the exact product. -/
def intMulh (t : IntType) (u : Bool) (a b : W32) : W32 :=
  let e := elemInt (t.signed u) t.bits
  zipElems t.bits (fun x y => wrapTo t.bits (e x * e y / 2 ^ t.bits)) a b
/-- VNEG and VABS. -/
def intOp1 (t : SIntType) (sat : Bool) (f : Int → Int) (a : W32) : W32 :=
  mapElems t.bits (fun x => satOr sat true t.bits (f (signedOf t.bits x))) a

/-- Shifts, the count from the low bits of the element of B. -/
def shlLane (t : IntType) (a b : W32) : W32 := zipElems t.bits (fun x y => x * 2 ^ (y % t.bits) % 2 ^ t.bits) a b
def shrLane (t : IntType) (a b : W32) : W32 := zipElems t.bits (fun x y => x / 2 ^ (y % t.bits)) a b
def sarLane (t : IntType) (a b : W32) : W32 := zipElems t.bits (fun x y => wrapTo t.bits (signedOf t.bits x / 2 ^ (y % t.bits))) a b

/-- pos and len of VBFE and VBFI (R236). -/
def bfPos (b : W32) : Nat := fld b.toNat 0 5
def bfLen (b : W32) : Nat := min (fld b.toNat 8 6) (32 - bfPos b)
def vbfeLane (sx : Bool) (a b : W32) : W32 :=
  let f := fld a.toNat (bfPos b) (bfLen b)
  BitVec.ofNat 32 (if sx && bfLen b != 0 then sext (bfLen b) 32 f else f)
def vbfiLane (d a b : W32) : W32 :=
  let m := (BitVec.ofNat 32 (2 ^ bfLen b - 1)) <<< bfPos b
  (d &&& ~~~m) ||| ((a <<< bfPos b) &&& m)

-- ## Float elements (R240 to R245)

/-- FZ16: a subnormal code becomes the zero of its sign (R83). -/
def flush (fz : Bool) (f : Fmt) (c : Nat) : Nat := if fz && f.isSub c then f.signBit (bitOf c (f.e + f.m)) else c

/-- Float operations of one, two and three operands, rounded once. -/
def fltOp1 (fz : Bool) (t : FltType) (m : RM) (g : Val → Val) (a : W32) : W32 :=
  let f := t.fmt
  mapElems f.width (fun x => flush fz f (encode f (.det m) (g (f.decode (flush fz f x))))) a
def fltOp2 (fz : Bool) (t : FltType) (m : RM) (g : Val → Val → Val) (a b : W32) : W32 :=
  let f := t.fmt
  zipElems f.width (fun x y => flush fz f (encode f (.det m) (g (f.decode (flush fz f x)) (f.decode (flush fz f y))))) a b
def fltOp3 (fz : Bool) (t : FltType) (m : RM) (g : Val → Val → Val → Val) (a b d : W32) : W32 :=
  let f := t.fmt
  zip3Elems f.width (fun x y z =>
    flush fz f (encode f (.det m) (g (f.decode (flush fz f x)) (f.decode (flush fz f y)) (f.decode (flush fz f z))))) a b d
/-- VFMIN and VFMAX choose a code (R241). -/
def fltPick (fz : Bool) (t : FltType) (g : Fmt → Nat → Nat → Nat) (a b : W32) : W32 :=
  let f := t.fmt
  zipElems f.width (fun x y => flush fz f (g f (flush fz f x) (flush fz f y))) a b

def isRdn (m : RM) : Bool := m == .rdn

/-- The low word of an exact pair, from the exact result and the rounded high word (R245). -/
def twoLow (x : Val) (hi : Nat) : Nat :=
  match f32.decode hi with
  | .fin s m e =>
    let lo := encode f32 (.det .rne) (Val.add false x (.fin (!s) m e))
    if lo % 2 ^ 31 = 0 then 0 else lo
  | _ => 0

def twoSum (a b : W32) : Nat × Nat :=
  let x := Val.add false (f32.decode a.toNat) (f32.decode b.toNat)
  let hi := encode f32 (.det .rne) x
  (hi, twoLow x hi)
def twoProd (a b : W32) : Nat × Nat :=
  let x := Val.mul (f32.decode a.toNat) (f32.decode b.toNat)
  let hi := encode f32 (.det .rne) x
  (hi, twoLow x hi)

-- ## Conversions (R246 to R251)

/-- The float format of a lane type; F8x4 takes the record in f0. -/
def laneFmt (f0 : W32) : LaneType → Option Fmt
  | .f32 => some f32 | .f16x2 => some f16 | .bf16x2 => some bf16 | .f8x4 => some (fmtOfRecord f0.toNat)
  | .i32 | .u32 | .i16x2 | .i8x4 => none

/-- Cvt of one element (R247). -/
def cvtElem (f0 : W32) (dst src : LaneType) (mo : Rnd) (x : Nat) : Nat :=
  let sgD := dst != .u32
  let i := elemInt (src != .u32) src.bits x
  match laneFmt f0 src, laneFmt f0 dst with
  | some a, some b => encode b mo (a.decode x)
  | some a, none => wrapTo dst.bits (toInt dst.bits sgD mo (a.decode x))
  | none, some b => encode b mo (ofInt i)
  | none, none => wrapTo dst.bits (clampInt dst.bits sgD i)

/-- Elements of a lane of width `w` from `i`, `n` of them, and the lane with them replaced. -/
def takeElems (w i n : Nat) (a : W32) : List Nat := (upFrom i n).map fun j => elem w j a
def putElems (w i : Nat) (ys : List Nat) (old : W32) : W32 :=
  packLane w ((List.range (32 / w)).map fun j => if i ≤ j ∧ j < i + ys.length then ys.getD (j - i) 0 else elem w j old)

/-- Convert elements in ascending order; under SR each takes one draw and one step (R91, R251). -/
def drawList (r : RMode) (st : W32) (xs : List Nat) (cv : Rnd → Nat → Nat) : List Nat × W32 :=
  match r with
  | .det m => (xs.map (cv (.det m)), st)
  | .sr => xs.foldl (fun p x => (p.1 ++ [cv (.sr (lfsrDraw p.2)) x], lfsrStep p.2)) ([], st)

/-- Bits that one element of a record's class takes in a vector lane (R248). -/
def slotBits (record : Nat) : Nat := match recordWidth record with | some 4 => 4 | _ => 8

/-- The format and the lane bits of an element format of VQMX (R249). -/
def qfmt (f : Nat → W32) : QFmt → Fmt × Nat
  | .e4m3 => (e4m3, 8) | .e5m2 => (e5m2, 8) | .e2m3 => (e2m3, 8) | .e3m2 => (e3m2, 8) | .e2m1 => (e2m1, 4)
  | .f1 => (fmtOfRecord (f 1).toNat, slotBits (f 1).toNat)
  | .f2 => (fmtOfRecord (f 2).toNat, slotBits (f 2).toNat)
  | .f3 => (fmtOfRecord (f 3).toNat, slotBits (f 3).toNat)

-- ## Reductions (R102, R253)

/-- One step of the pairing: neighbours combine, the lower on the left. -/
def pairUp (f : W32 → W32 → W32) : List W32 → List W32
  | a :: b :: r => f a b :: pairUp f r
  | l => l
/-- VRED: log2 VL steps of pairing. -/
def reduce (f : W32 → W32 → W32) : Nat → List W32 → List W32
  | 0, l => l
  | n + 1, l => reduce f n (pairUp f l)
/-- VSCAN: at distance d every lane l ≥ d takes the value of lane l - d on the left. -/
def scanStep (f : W32 → W32 → W32) (d : Nat) (l : List W32) : List W32 :=
  (l.zipIdx).map fun x => if d ≤ x.2 then f (l.getD (x.2 - d) 0) x.1 else x.1
def scan (f : W32 → W32 → W32) (vl : Nat) (l : List W32) : List W32 :=
  ([1, 2, 4, 8, 16, 32].filter (· < vl)).foldl (fun l d => scanStep f d l) l

def redIdentity (t : RedType) (o : RedOp) : W32 :=
  match t, o with
  | .f32, .min => 0x7F800000#32
  | .f32, .max => 0xFF800000#32
  | .f32, _ => 0x80000000#32
  | .i32, .min => 0x7FFFFFFF#32
  | .i32, .max => 0x80000000#32
  | .u32, .min => 0xFFFFFFFF#32
  | _, .and => 0xFFFFFFFF#32
  | _, _ => 0

def redOp (t : RedType) (m : RM) (o : RedOp) (a b : W32) : W32 :=
  let less := match t with | .u32 => decide (a.toNat < b.toNat) | _ => decide (a.toInt < b.toInt)
  match t, o with
  | .f32, .min => fltPick false .f32 Val.minCode a b
  | .f32, .max => fltPick false .f32 Val.maxCode a b
  | .f32, _ => fltOp2 false .f32 m (Val.add (isRdn m)) a b
  | _, .add => a + b
  | _, .min => if less then a else b
  | _, .max => if less then b else a
  | _, .and => a &&& b
  | _, .or => a ||| b
  | _, .xor => a ^^^ b

namespace State

/-- Format register n (R61). -/
def f (s : State) (n : Nat) : W32 := Sparse.get 0 s.rg.r.f n
/-- FZ16 applies to 16-bit float arithmetic only (R244). -/
def fz (s : State) (t : FltType) : Bool := t != .f32 && s.rg.r.fz16

/-- Write the active lanes of vD (R227). -/
def vset (s : State) (p : LPred) (d : VReg) (g : Nat → W32) : State := s.setLanes d (s.lanes p) g
/-- Write the active lanes of pD. -/
def pset (s : State) (p : LPred) (d : PReg) (g : Nat → Bool) : State :=
  s.setP d (s.active p) ((s.lanes p).foldl (fun m l => setBit m l (g l)) 0)

/-- Convert in the listed lanes: `xs` the elements of a lane, `place` their results in the old destination. -/
def convLanes (s : State) (ls : List Nat) (d : Nat) (r : RMode) (xs : Nat → List Nat) (cv : Nat → Rnd → Nat → Nat)
    (place : W32 → List Nat → W32) : State :=
  ls.foldl (fun s' l =>
    let y := drawList r (Sparse.get 0 s'.cg.r.lfsr l) (xs l) (cv l)
    let s' := s'.setV d l (place (s.v d l) y.1)
    match r with
    | .det _ => s'
    | .sr => s'.modR fun g => { g with lfsr := Sparse.insert g.lfsr l y.2 }) s

end State

open State

/-- VADD (R235). -/
def execVadd (t : IntType) (sat u : Bool) (p : LPred) (d a : VReg) (b : VK) (s : State) : Out :=
  .next (s.vset p d fun l => intOp2 t sat u (· + ·) (s.v a l) (s.vk b l))
/-- VSUB (R235). -/
def execVsub (t : IntType) (sat u : Bool) (p : LPred) (d a : VReg) (b : VK) (s : State) : Out :=
  .next (s.vset p d fun l => intOp2 t sat u (· - ·) (s.v a l) (s.vk b l))
/-- VMUL (R235). -/
def execVmul (t : IntType) (sat u : Bool) (p : LPred) (d a : VReg) (b : VK) (s : State) : Out :=
  .next (s.vset p d fun l => intOp2 t sat u (· * ·) (s.v a l) (s.vk b l))
/-- VMULH (R235). -/
def execVmulh (t : IntType) (u : Bool) (p : LPred) (d a : VReg) (b : VK) (s : State) : Out :=
  .next (s.vset p d fun l => intMulh t u (s.v a l) (s.vk b l))
/-- VMAD (R235). -/
def execVmad (t : IntType) (sat u : Bool) (p : LPred) (d a : VReg) (b : VK) (s : State) : Out :=
  .next (s.vset p d fun l => intMad t sat u (s.v a l) (s.vk b l) (s.v d l))
/-- VNEG (R235). -/
def execVneg (t : SIntType) (sat : Bool) (p : LPred) (d a : VReg) (s : State) : Out :=
  .next (s.vset p d fun l => intOp1 t sat (fun x => 0 - x) (s.v a l))
/-- VABS (R235). -/
def execVabs (t : SIntType) (sat : Bool) (p : LPred) (d a : VReg) (s : State) : Out :=
  .next (s.vset p d fun l => intOp1 t sat (fun x => (x.natAbs : Int)) (s.v a l))
/-- VMIN (R235). -/
def execVmin (t : IntType) (u : Bool) (p : LPred) (d a : VReg) (b : VK) (s : State) : Out :=
  .next (s.vset p d fun l => intOp2 t false u min (s.v a l) (s.vk b l))
/-- VMAX (R235). -/
def execVmax (t : IntType) (u : Bool) (p : LPred) (d a : VReg) (b : VK) (s : State) : Out :=
  .next (s.vset p d fun l => intOp2 t false u max (s.v a l) (s.vk b l))
/-- VAND (R236). -/
def execVand (p : LPred) (d a : VReg) (b : VK) (s : State) : Out := .next (s.vset p d fun l => s.v a l &&& s.vk b l)
/-- VOR (R236). -/
def execVor (p : LPred) (d a : VReg) (b : VK) (s : State) : Out := .next (s.vset p d fun l => s.v a l ||| s.vk b l)
/-- VXOR (R236). -/
def execVxor (p : LPred) (d a : VReg) (b : VK) (s : State) : Out := .next (s.vset p d fun l => s.v a l ^^^ s.vk b l)
/-- VNOT (R236). -/
def execVnot (p : LPred) (d a : VReg) (s : State) : Out := .next (s.vset p d fun l => ~~~(s.v a l))
/-- VSHL (R235). -/
def execVshl (t : IntType) (p : LPred) (d a : VReg) (b : VK) (s : State) : Out :=
  .next (s.vset p d fun l => shlLane t (s.v a l) (s.vk b l))
/-- VSHR (R235). -/
def execVshr (t : IntType) (p : LPred) (d a : VReg) (b : VK) (s : State) : Out :=
  .next (s.vset p d fun l => shrLane t (s.v a l) (s.vk b l))
/-- VSAR (R235). -/
def execVsar (t : IntType) (p : LPred) (d a : VReg) (b : VK) (s : State) : Out :=
  .next (s.vset p d fun l => sarLane t (s.v a l) (s.vk b l))
/-- VBFE (R236). -/
def execVbfe (sx : Bool) (p : LPred) (d a : VReg) (b : VK) (s : State) : Out :=
  .next (s.vset p d fun l => vbfeLane sx (s.v a l) (s.vk b l))
/-- VBFI (R236). -/
def execVbfi (p : LPred) (d a : VReg) (b : VK) (s : State) : Out :=
  .next (s.vset p d fun l => vbfiLane (s.v d l) (s.v a l) (s.vk b l))
/-- VPOPC (R236). -/
def execVpopc (t : IntType) (p : LPred) (d a : VReg) (s : State) : Out :=
  .next (s.vset p d fun l => mapElems t.bits (popCount t.bits) (s.v a l))
/-- VCLZ (R236). -/
def execVclz (t : IntType) (p : LPred) (d a : VReg) (s : State) : Out :=
  .next (s.vset p d fun l => mapElems t.bits (leadZeros t.bits) (s.v a l))
/-- VCMP (R237). -/
def execVcmp (u : Bool) (c : ICond) (p : LPred) (d : PReg) (a : VReg) (b : VK) (s : State) : Out :=
  .next (s.pset p d fun l => icond c u (s.v a l) (s.vk b l))
/-- VSEL: P is the selector (R238). -/
def execVsel (p : LPred) (d a : VReg) (b : VK) (s : State) : Out :=
  .next (s.setLanes d s.maskLanes fun l => if bitOf (s.p p) l then s.v a l else s.vk b l)
/-- VMOV (R238). -/
def execVmov (p : LPred) (d : VReg) (b : VK) (s : State) : Out := .next (s.vset p d fun l => s.vk b l)
/-- VMOV from an accumulator half (R239). -/
def execVmovAcc (p : LPred) (d : VReg) (hi : Bool) (a : AReg) (s : State) : Out :=
  .next (s.vset p d fun l => s.acc a (64 * bit hi + l))
/-- The value of VMOVI (R238). -/
def moviVal (m : MoviKind) (i : BitVec 13) : W32 :=
  match m with
  | .sx => i.signExtend 32
  | .t32 => (i.zeroExtend 32) <<< 19
  | .t16 => (i.zeroExtend 32) <<< 19 ||| (i.zeroExtend 32) <<< 3
/-- VMOVI (R238). -/
def execVmovi (m : MoviKind) (p : LPred) (d : VReg) (i : BitVec 13) (s : State) : Out := .next (s.vset p d fun _ => moviVal m i)
/-- VFADD (R240). -/
def execVfadd (t : FltType) (m : RM) (p : LPred) (d a : VReg) (b : VK) (s : State) : Out :=
  .next (s.vset p d fun l => fltOp2 (s.fz t) t m (Val.add (isRdn m)) (s.v a l) (s.vk b l))
/-- VFSUB (R240). -/
def execVfsub (t : FltType) (m : RM) (p : LPred) (d a : VReg) (b : VK) (s : State) : Out :=
  .next (s.vset p d fun l => fltOp2 (s.fz t) t m (fun x y => Val.add (isRdn m) x y.neg) (s.v a l) (s.vk b l))
/-- VFMUL (R240). -/
def execVfmul (t : FltType) (m : RM) (p : LPred) (d a : VReg) (b : VK) (s : State) : Out :=
  .next (s.vset p d fun l => fltOp2 (s.fz t) t m Val.mul (s.v a l) (s.vk b l))
/-- VFMA (R240). -/
def execVfma (t : FltType) (m : RM) (p : LPred) (d a : VReg) (b : VK) (s : State) : Out :=
  .next (s.vset p d fun l => fltOp3 (s.fz t) t m (fun x y z => Val.add (isRdn m) (x.mul y) z) (s.v a l) (s.vk b l) (s.v d l))
/-- VFMS (R240). -/
def execVfms (t : FltType) (m : RM) (p : LPred) (d a : VReg) (b : VK) (s : State) : Out :=
  .next (s.vset p d fun l => fltOp3 (s.fz t) t m (fun x y z => Val.add (isRdn m) (x.mul y) z.neg) (s.v a l) (s.vk b l) (s.v d l))
/-- VFMIN (R241). -/
def execVfmin (t : FltType) (p : LPred) (d a : VReg) (b : VK) (s : State) : Out :=
  .next (s.vset p d fun l => fltPick (s.fz t) t Val.minCode (s.v a l) (s.vk b l))
/-- VFMAX (R241). -/
def execVfmax (t : FltType) (p : LPred) (d a : VReg) (b : VK) (s : State) : Out :=
  .next (s.vset p d fun l => fltPick (s.fz t) t Val.maxCode (s.v a l) (s.vk b l))
/-- VFCMP (R237). -/
def execVfcmp (c : FCond) (p : LPred) (d : PReg) (a : VReg) (b : VK) (s : State) : Out :=
  .next (s.pset p d fun l => fcond c (s.v a l).toNat (s.vk b l).toNat)
/-- VFRCP (R242). -/
def execVfrcp (t : FltType) (m : RM) (p : LPred) (d a : VReg) (s : State) : Out :=
  .next (s.vset p d fun l => fltOp1 (s.fz t) t m rcpVal (s.v a l))
/-- VFRSQ (R242). -/
def execVfrsq (t : FltType) (m : RM) (p : LPred) (d a : VReg) (s : State) : Out :=
  .next (s.vset p d fun l => fltOp1 (s.fz t) t m rsqVal (s.v a l))
/-- VFDIVS (R240). -/
def execVfdivs (t : FltType) (m : RM) (p : LPred) (d a : VReg) (b : VK) (s : State) : Out :=
  .next (s.vset p d fun l => fltOp2 (s.fz t) t m Val.div (s.v a l) (s.vk b l))
/-- VFEXP2 (R242). -/
def execVfexp2 (t : FltType) (m : RM) (p : LPred) (d a : VReg) (s : State) : Out :=
  .next (s.vset p d fun l => fltOp1 (s.fz t) t m exp2Of (s.v a l))
/-- VFLOG2 (R242). -/
def execVflog2 (t : FltType) (m : RM) (p : LPred) (d a : VReg) (s : State) : Out :=
  .next (s.vset p d fun l => fltOp1 (s.fz t) t m log2Of (s.v a l))
/-- VFRND (R243). -/
def execVfrnd (t : FltType) (m : RM) (p : LPred) (d a : VReg) (s : State) : Out :=
  .next (s.vset p d fun l => fltOp1 (s.fz t) t m (rndVal (.det m)) (s.v a l))
/-- VFCLASS (R243, R244). -/
def execVfclass (t : FltType) (p : LPred) (d a : VReg) (s : State) : Out :=
  .next (s.vset p d fun l => mapElems t.fmt.width (classOf t.fmt) (s.v a l))
/-- VCVT (R246). -/
def execVcvt (t : LaneType) (r : RMode) (sr : LaneType) (p : LPred) (d a : VReg) (s : State) : Out :=
  .next (s.convLanes (s.lanes p) d r (fun l => takeElems sr.bits 0 sr.elems (s.v a l)) (fun _ => cvtElem (s.f 0) t sr)
    (fun old ys => putElems t.bits 0 ys old))
/-- VCVTN (R246). -/
def execVcvtn (t : LaneType) (r : RMode) (sr : LaneType) (g : Fin 4) (p : LPred) (d a : VReg) (s : State) : Out :=
  .next (s.convLanes (s.lanes p) d r (fun l => takeElems sr.bits 0 sr.elems (s.v a l)) (fun _ => cvtElem (s.f 0) t sr)
    (fun old ys => putElems t.bits (g * sr.elems) ys old))
/-- VCVTW (R246). -/
def execVcvtw (t : LaneType) (r : RMode) (sr : LaneType) (g : Fin 4) (p : LPred) (d a : VReg) (s : State) : Out :=
  .next (s.convLanes (s.lanes p) d r (fun l => takeElems sr.bits (g * t.elems) t.elems (s.v a l)) (fun _ => cvtElem (s.f 0) t sr)
    (fun old ys => putElems t.bits 0 ys old))
/-- VCVTF (R248). -/
def execVcvtf (t : FltType) (r : RMode) (fr : FReg) (src : Bool) (g : Fin 8) (p : LPred) (d a : VReg) (s : State) : Out :=
  let rec_ := (s.f fr).toNat
  let nf := fmtOfRecord rec_
  let sb := slotBits rec_
  let w := 32 / t.fmt.width
  if src then
    .next (s.convLanes (s.lanes p) d r (fun l => takeElems sb (g * w) w (s.v a l)) (fun _ mo x => encode t.fmt mo (nf.decode x))
      (fun old ys => putElems t.fmt.width 0 ys old))
  else
    .next (s.convLanes (s.lanes p) d r (fun l => takeElems t.fmt.width 0 w (s.v a l)) (fun _ mo x => encode nf mo (t.fmt.decode x))
      (fun old ys => putElems sb (g * w) ys old))
/-- The code of source value i of VQMX: lanes of vA, then of vA+1 (R249). -/
def vqmxSource (s : State) (a : Nat) (i : Nat) : Nat := if i < s.vl then (s.v a i).toNat else (s.v (a + 1) (i - s.vl)).toNat
/-- One block of VQMX: its scale goes to lane base/32 + j of vB, then its elements go to vD (R249). -/
def vqmxBlock (s : State) (q : Fmt × Nat) (sb base d a x : Nat) (sr : Bool) (s1 : State) (j : Nat) : State :=
  let n := 32 / q.2
  let blk := mxScale q.1 ((upFrom (32 * j) 32).map fun i => f32.decode (vqmxSource s a i))
  let l := base / 32 + j
  let s2 := if bitOf s.mask l then s1.setV x l (putElems 8 sb [mxScaleCode blk] (Sparse.get 0 s1.cg.r.v (64 * x + l))) else s1
  let ls := s.maskLanes.filter fun l => decide (base + 32 * j ≤ l * n) && decide (l * n < base + 32 * j + 32)
  s2.convLanes ls d (if sr then .sr else .det .rne) (fun l => upFrom (l * n - base) n)
    (fun _ mo i => mxElem q.1 mo blk (f32.decode (vqmxSource s a i))) (fun old ys => putElems q.2 0 ys old)
/-- VQMX (R249): block after block, as the rule writes them, so that a vB equal to vD ends as the last write leaves it. -/
def execVqmx (t : QFmt) (sb : Fin 4) (c : Fin 4) (d a : VReg) (sr : Bool) (x : VReg) (s : State) : Out :=
  .next ((List.range (2 * s.vl / 32)).foldl (vqmxBlock s (qfmt s.f t) sb (c * (2 * s.vl)) d a x sr) s)
/-- VDQMX (R250). -/
def execVdqmx (t : QFmt) (sb : Fin 4) (c : Fin 4) (d a : VReg) (rtz : Bool) (x : VReg) (s : State) : Out :=
  let q := qfmt s.f t
  let n := 32 / q.2
  let val := fun i =>
    let k := c * (2 * s.vl) + i
    BitVec.ofNat 32 (mxDecode q.1 f32 (.det (if rtz then .rtz else .rne)) (elem q.2 (k % n) (s.v a (k / n))) (elem 8 sb (s.v x (k / 32))))
  .next ((s.setLanes d s.maskLanes fun l => val l).setLanes (d + 1) s.maskLanes fun l => val (s.vl + l))
/-- VSHUF (R252). -/
def execVshuf (p : LPred) (d a b : VReg) (s : State) : Out := .next (s.vset p d fun l => s.v a ((s.v b l).toNat % s.vl))
/-- The lane VSHUF with an immediate reads (R252). -/
def shufLane (k : ShufKind) (vl n l : Nat) : Nat :=
  match k with | .rot => (l + n) % vl | .xor => l ^^^ n | .rev => vl - 1 - l
/-- VSHUF with an immediate (R252). -/
def execVshufImm (k : ShufKind) (p : LPred) (d : VReg) (n : Fin 64) (s : State) : Out :=
  .next (s.vset p d fun l => s.v d (shufLane k s.vl n l))
/-- VBCAST (R252). -/
def execVbcast (p : LPred) (d a : VReg) (b : KReg) (s : State) : Out := .next (s.vset p d fun _ => s.v a ((s.k b).toNat % s.vl))
/-- VBFLY (R252). -/
def execVbfly (p : LPred) (d a : VReg) (b : VK) (s : State) : Out := .next (s.vset p d fun l => s.v a (l ^^^ ((s.vk b l).toNat % s.vl)))
/-- The lanes of a reduction, the inactive ones at the identity. -/
def redLanes (s : State) (t : RedType) (o : RedOp) (p : LPred) (a : VReg) : List W32 :=
  (List.range s.vl).map fun l => if bitOf (s.active p) l then s.v a l else redIdentity t o
/-- VRED (R253). -/
def execVred (t : RedType) (m : RM) (o : RedOp) (p : LPred) (d a : VReg) (s : State) : Out :=
  let r := (reduce (redOp t m o) 6 (redLanes s t o p a)).headD 0
  .next (s.vset p d fun _ => r)
/-- VSCAN (R253). -/
def execVscan (t : RedType) (m : RM) (o : RedOp) (p : LPred) (d a : VReg) (s : State) : Out :=
  let r := scan (redOp t m o) s.vl (redLanes s t o p a)
  .next (s.vset p d fun l => r.getD l 0)
/-- VBALLOT (R254). -/
def execVballot (hi : Bool) (p : LPred) (d : VReg) (a : PReg) (s : State) : Out :=
  .next (s.vset p d fun _ => BitVec.ofNat 32 (fld (s.p a &&& s.active p) (32 * bit hi) 32))
/-- VVOTE (R254). -/
def execVvote (m : VoteKind) (p : LPred) (d : PReg) (a : PReg) (s : State) : Out :=
  .next (s.pset p d fun _ => votes m (s.active p) (s.p a &&& s.active p))
/-- The value VACTIVE writes to lane l (R254). -/
def activeVal (m : ActKind) (vl act l : Nat) : Nat :=
  match m with
  | .rank => (bitsOf l act).length
  | .count => (bitsOf vl act).length
  | .lo => fld act 0 32
  | .hi => fld act 32 32
/-- VACTIVE (R254). -/
def execVactive (m : ActKind) (p : LPred) (d : VReg) (s : State) : Out :=
  .next (s.vset p d fun l => BitVec.ofNat 32 (activeVal m s.vl (s.active p) l))
/-- VFTWOS (R245). -/
def execVftwos (p : LPred) (d a : VReg) (b : VK) (s : State) : Out :=
  .next ((s.vset p d fun l => BitVec.ofNat 32 (twoSum (s.v a l) (s.vk b l)).1).setLanes (d + 1) (s.lanes p)
    fun l => BitVec.ofNat 32 (twoSum (s.v a l) (s.vk b l)).2)
/-- VFTWOP (R245). -/
def execVftwop (p : LPred) (d a : VReg) (b : VK) (s : State) : Out :=
  .next ((s.vset p d fun l => BitVec.ofNat 32 (twoProd (s.v a l) (s.vk b l)).1).setLanes (d + 1) (s.lanes p)
    fun l => BitVec.ofNat 32 (twoProd (s.v a l) (s.vk b l)).2)

end Sys2Proof.Machine
end

