-- ==== Sys2Proof/Machine/StreamI.lean ====
section
/-!
DEFINITION. The stream engine of a tile (R277 to R301): stream registers, multicasts, deferred semaphore signals and the guide ring,
with the events of the transfer units and the mesh.
-/
namespace Sys2Proof.Machine
namespace State

-- ## Rows (R283, R284)

/-- What an access to a stream's row gives: a trap, or the state after it and the row. -/
inductive RowRes
  | bad (t : Trap)
  | ok (s : State) (row : List Byte)

def stream (s : State) (i : Nat) : Stream := getStream s.cg.tile i

/-- The conditions of R283, in the order 7, 8, 6. -/
def rowTrap (x : Stream) (dir : StreamDir) (r : Nat) : Option Nat :=
  if x.dir ≠ dir then some 7
  else if r % x.esize ≠ 0 then some 8
  else if x.wrap = false ∧ x.total < x.cons + r / x.esize then some 6
  else none

/-- Read the row of `r` bytes; the bundle waits while the transfer units bring what the buffer lacks. -/
def readRow (s : State) (i r : Nat) (advance : Bool) : RowRes :=
  let x := s.stream i
  match rowTrap x .rd r with
  | some n => .bad (illegal n)
  | none =>
    let x := fillStream s.rg.tile x (r / x.esize - x.held)
    let row := x.buf.take r
    if row.any (·.2) then .bad (mkTrap .machineCheck 0 0 0)
    else
      let x' := if advance then { x with buf := x.buf.drop r, cons := x.cons + r / x.esize } else x
      .ok (s.modT fun t => setStream t i x') (row.map (·.1))

/-- Write a row; the bundle waits while the transfer units make room. -/
def writeRow (s : State) (i : Nat) (row : List Byte) : RowRes :=
  let x := s.stream i
  match rowTrap x .wr row.length with
  | some n => .bad (illegal n)
  | none =>
    let spill := x.buf.length + row.length - 1024
    let s := s.modT fun t => drainStream t i ((spill + x.esize - 1) / x.esize)
    let x := s.stream i
    .ok (s.modT fun t => setStream t i
      { x with buf := x.buf ++ row.map (fun b => (b, false)), cons := x.cons + row.length / x.esize }) []

/-- Every buffered element of a write stream is written (R285). -/
def drainAll (s : State) (i : Nat) : State := s.modT fun t => drainStream t i (getStream t i).held

/-- SRST and SRST.STOP (R285). -/
def resetStream (s : State) (i : Nat) (stop : Bool) : State :=
  let s := if (s.stream i).dir = .wr then s.drainAll i else s
  let x := s.stream i
  if x.dir = .unbound then s
  else
    s.modT fun t => setStream t i
      (if stop then { x with dir := .unbound, wrap := false, esz := 0, base := 0, cons := 0, buf := [], epoch := x.epoch + 1 }
       else { x with cons := 0, buf := [], epoch := x.epoch + 1 })

/-- lo and hi + 1 of R282. -/
def patLo (x : Stream) : Int := (x.c.zip x.d).foldl (fun a p => a + min 0 (((p.1 : Int) - 1) * p.2)) x.base
def patEnd (x : Stream) : Int := (x.c.zip x.d).foldl (fun a p => a + max 0 (((p.1 : Int) - 1) * p.2)) x.base + x.esize

/-- The checks of SBIND on a pattern, in order (R282). -/
def bindTrap (ka : Nat) (x : Stream) : Option Trap :=
  if 2 ^ 23 ≤ ka then some (mkTrap .perm 3 0 0)
  else if x.base % x.esize ≠ 0 ∨ x.d.any (fun d => d % (x.esize : Int) != 0) = true then some (mkTrap .align 3 0 0)
  else if 2 ^ 32 - 1 < x.total then some (illegal 8)
  else if patLo x < 0 ∨ 0x800000 < patEnd x then some (mkTrap .perm 3 0 0)
  else none

-- ## Rectangles (R287)

/-- Corners (X0, X1, Y0, Y1). -/
def rectOf (ka : Nat) : Nat × Nat × Nat × Nat := (fld ka 0 4, fld ka 4 4, fld ka 8 3, fld ka 12 3)

/-- Width and height of the issuing gang's rectangle (R116). -/
def gangW (s : State) : Nat := recShape0 s.gg.rec_
def gangH (s : State) : Nat := recShape1 s.gg.rec_

/-- PERM subcode 5 of R287. -/
def rectBad (s : State) (ka : Nat) : Bool :=
  let r := rectOf ka
  let g := s.gg
  decide (2 ^ 15 ≤ ka) || bitOf ka 11 || decide (r.2.1 < r.1) || decide (r.2.2.2 < r.2.2.1)
    || decide (r.1 < g.x0) || decide (r.2.2.1 < g.y0) || decide (g.x0 + s.gangW ≤ r.2.1) || decide (g.y0 + s.gangH ≤ r.2.2.2)

/-- Group keys of the destinations, row by row. -/
def rectKeys (s : State) (ka : Nat) : List Nat :=
  let r := rectOf ka
  let g := s.gg
  (upFrom r.2.2.1 (r.2.2.2 + 1 - r.2.2.1)).flatMap fun y =>
    (upFrom r.1 (r.2.1 + 1 - r.1)).map fun x => groupKey s.cg.gang ((y - g.y0) * s.gangW + (x - g.x0))

/-- Multicasts of the issuing tile in flight. -/
def castsInFlight (s : State) : Nat :=
  ((s.casts.filter fun c => c.src == s.cur.grp && (match c.what with | .data _ _ _ => true | .sem _ => false)).map (·.no)).eraseDups.length

/-- Send data to every destination (R288). -/
def sendCast (s : State) (ka addr : Nat) (bytes : List Byte) (bad : List Nat) : State :=
  if 8 ≤ s.castsInFlight then s.stall
  else
    { s with castNo := s.castNo + 1
             casts := s.casts ++ (s.rectKeys ka).map fun k => { src := s.cur.grp, dst := k, no := s.castNo, what := .data addr bytes bad } }

/-- The deferred MCSEM entries go out, in issue order (R290). -/
def sendMcsems (s : State) : State :=
  let l := s.cg.tile.mcsems
  let new := l.flatMap fun e => (s.rectKeys e.1).map fun k =>
    ({ src := s.cur.grp, dst := k, no := s.castNo, what := .sem e.2 } : CastRec)
  { s.modT (fun t => { t with mcsems := [] }) with casts := s.casts ++ new }

/-- Entry `i` of the casts may reach its destination: none of the same source and destination precedes it (R289, R290). -/
def castReady (s : State) (i : Nat) (c : CastRec) : Bool := (s.casts.take i).all fun d => d.src != c.src || d.dst != c.dst

def landAt (s : State) (i : Nat) : State :=
  match nth? s.casts i with
  | none => s
  | some c => if s.castReady i c then State.land { s with casts := dropNth s.casts i } c else s

/-- The word SSTAT writes (R286). -/
def sstatWord (x : Stream) : Nat :=
  x.consShown % 2 ^ 32 * 2 ^ 32 + x.buf.length * 2 ^ 8
    + 16 * bit (x.dir != .unbound && !x.wrap && x.cons == x.total) + 8 * bit x.wrap + 4 * bit (x.dir == .wr) + bit (x.dir != .unbound)

end State

open State

/-- SBIND (R282). -/
def execSbind (sr : SReg) (a : KReg) (e : Fin 7) (wrap wr : Bool) (s : State) : Out :=
  let s := s.resetStream sr true
  let ka := (s.k a).toNat
  let x := { s.stream sr with esz := e, base := fld ka 0 23, wrap := wrap, dir := (if wr then .wr else .rd), cons := 0, buf := [] }
  match bindTrap ka x with
  | some t => .next (s.takeTrap t)
  | none => .next (s.modT fun t => setStream t sr x)
/-- SPAT: the count and stride of a dimension (R281). -/
def execSpat (sr : SReg) (a b : KReg) (n : Fin 4) (s : State) : Out :=
  let x := s.stream sr
  let c := (s.k a).toNat
  let d := (s.k b).toInt
  if x.dir ≠ .unbound then .next (s.takeTrap (illegal 7))
  else if c = 0 ∨ 65535 < c ∨ d < -(2 ^ 23) ∨ 2 ^ 23 ≤ d then .next (s.takeTrap (illegal 8))
  else .next (s.modT fun t => setStream t sr { x with c := setNth x.c n c, d := setNth x.d n d })
/-- What SPAT (ring) checks (R292). -/
def ringTrap (g : GRing) (ka kb : Nat) : Option Trap :=
  if fld ka 0 23 % 4096 ≠ 0 then some (mkTrap .align 3 0 0)
  else if 2 ^ 23 ≤ ka ∨ 0x800000 < ka + 4096 * fld kb 0 6 then some (mkTrap .perm 3 0 0)
  else if 32 < fld kb 0 6 ∨ fld kb 6 2 ≠ 0 ∨ 2 ^ 12 ≤ kb then some (illegal 8)
  else if g.deliv ≠ g.rel ∨ g.relpend ≠ 0 then some (illegal 10)
  else none
/-- SPAT (ring): declare or remove the guide ring (R292). -/
def execSpatRing (a b : KReg) (s : State) : Out :=
  let ka := (s.k a).toNat
  let kb := (s.k b).toNat
  match ringTrap s.cg.tile.ring ka kb with
  | some t => .next (s.takeTrap t)
  | none =>
    .next (s.modT fun t =>
      { t with ring := { rbase := ka, rslots := fld kb 0 6, rsem := fld kb 8 4, take := 0, rel := 0, relpend := 0, deliv := 0, locked := true, credits := [] } })
/-- SRST (R285). -/
def execSrst (sr : SReg) (stopStream : Bool) (s : State) : Out := .next (s.resetStream sr stopStream)
/-- SSTAT: the stream as it stood before the bundle (R286). -/
def execSstat (sr : SReg) (a : KReg) (s : State) : Out := .next (s.setK a (BitVec.ofNat 64 (sstatWord (getStream s.rg.tile sr))))
/-- SDRAIN (R285). -/
def execSdrain (sr : SReg) (s : State) : Out := .next (if (s.stream sr).dir = .wr then s.drainAll sr else s)
/-- SPEEK (R285). -/
def execSpeek (sr : SReg) (t : TReg) (n : Fin 32) (s : State) : Out :=
  match s.readRow sr 128 false with
  | .bad x => .next (s.takeTrap x)
  | .ok s' row => .next (s'.modG fun g => g.put (.row t (2 * n)) row [])
/-- The checks of MCAST after the rectangle (R288): layout, alignment, range of destination and source. -/
def castTrap (layoutBad : Bool) (dst src n : Nat) : Option Trap :=
  if layoutBad then some (illegal 8)
  else if dst % 64 ≠ 0 ∨ src % 64 ≠ 0 then some (mkTrap .align 3 0 0)
  else if 0x800000 < dst + n ∨ 0x800000 < src + n then some (mkTrap .perm 3 0 0)
  else none
/-- MCAST of a tile register (R288). -/
def execMcast (t : TReg) (a b : KReg) (s : State) : Out :=
  let ka := (s.k a).toNat
  let kb := (s.k b).toNat
  if s.rectBad ka then .next (s.takeTrap (mkTrap .perm 5 0 0))
  else match castTrap (decide (2 ^ 23 ≤ kb)) (fld kb 0 23) 0 8192 with
    | some x => .next (s.takeTrap x)
    | none => .next (s.sendCast ka kb (s.t t) ((List.range 2048).filter fun j => s.regPoisoned (.t t j)))
/-- MCAST of scratchpad lines (R288). -/
def execMcastSp (a b : KReg) (s : State) : Out :=
  let ka := (s.k a).toNat
  let kb := (s.k b).toNat
  let n := 64 * fld kb 46 18
  let src := fld kb 23 23
  if s.rectBad ka then .next (s.takeTrap (mkTrap .perm 5 0 0))
  else match castTrap (n == 0) (fld kb 0 23) src n with
    | some x => .next (s.takeTrap x)
    | none => .next (s.sendCast ka (fld kb 0 23) (s.spadBytes src n) (s.spadBadWords src n))
/-- MCSEM: deferred to the next CKPT or DONE (R290). -/
def execMcsem (a : KReg) (n : Fin 16) (s : State) : Out :=
  let ka := (s.k a).toNat
  if s.rectBad ka then .next (s.takeTrap (mkTrap .perm 5 0 0))
  else if 16 ≤ s.cg.tile.mcsems.length then .next (s.takeTrap (illegal 9))
  else .next (s.modT fun t => { t with mcsems := t.mcsems ++ [(ka, n.val)] })
/-- GTAKE: claim the next delivered slot (R294). -/
def execGtake (a : KReg) (s : State) : Out :=
  let r := s.cg.tile.ring
  let c := Sparse.get 0 s.cg.tile.semCount r.rsem
  if r.rslots = 0 then .next (s.takeTrap (illegal 10))
  else if c = 0 then .next s.stall
  else
    let s := s.modT fun t =>
      { t with semCount := Sparse.set 0 t.semCount r.rsem (c - 1)
               semDelta := Sparse.set 0 t.semDelta r.rsem (Sparse.get 0 t.semDelta r.rsem - 1)
               ring := { t.ring with take := (r.take + 1) % 2 ^ 32 } }
    .next (s.setK a (BitVec.ofNat 64 (r.rbase + 4096 * (r.take % r.rslots))))
/-- GRLS: return the oldest claimed slot, deferred (R295). -/
def execGrls (s : State) : Out :=
  let r := s.cg.tile.ring
  if r.rslots = 0 ∨ r.take = (r.rel + r.relpend) % 2 ^ 32 then .next (s.takeTrap (illegal 10))
  else .next (s.modT fun t => { t with ring := { t.ring with relpend := t.ring.relpend + 1 } })

/-- TRANSFER_UNIT: a unit moves elements of one line, at least one, between the scratchpad and a stream's buffer (R277). -/
def execTransferUnit (grp : Nat) (sr : SReg) (s : State) : Out :=
  match s.groups.find? (·.1 == grp) with
  | none => .next s
  | some (_, g) =>
    let x := getStream g.tile sr
    let k := max 1 (64 / x.esize)
    match x.dir with
    | .unbound => .next s
    | .rd =>
      let room := (1024 - x.buf.length) / x.esize
      .next (s.setGroup grp { g with tile := setStream g.tile sr (fillStream g.tile x (min k room)) })
    | .wr => .next (s.setGroup grp { g with tile := drainStream g.tile sr k })
/-- MULTICAST_LAND: a multicast reaches one destination (R289). -/
def execMulticastLand (idx : Nat) (s : State) : Out :=
  match nth? s.casts idx with
  | some { what := .data _ _ _, .. } => .next (s.landAt idx)
  | _ => .next s
/-- MCSEM_INCREMENT: a performed MCSEM reaches one destination (R290). -/
def execMcsemIncrement (idx : Nat) (s : State) : Out :=
  match nth? s.casts idx with
  | some { what := .sem _, .. } => .next (s.landAt idx)
  | _ => .next s

end Sys2Proof.Machine
end

