-- ==== Sys2Proof/Machine/Matrix.lean ====
section
/-!
DEFINITION. The matrix engine and the constellation table (R302 to R335): the operator word, the fold of a compute beat, the planes, the
edge row, drains and moves, and the scan chain.
-/
namespace Sys2Proof.Machine

-- ## Formats and the operator word (R308 to R311)

/-- Width of a format code. -/
def mfBits : Nat → Nat
  | 0 | 5 => 4 | 3 | 4 | 6 => 6 | 1 | 2 | 7 | 10 | 11 => 8 | 8 | 9 | 12 => 16 | _ => 1
/-- The families of R308: float, integer, bit. -/
def mfFloat (c : Nat) : Bool := decide (c ≤ 9)
def mfInt (c : Nat) : Bool := decide (10 ≤ c) && decide (c ≤ 12)
def mfFamily (c : Nat) : Nat := if mfFloat c then 0 else if mfInt c then 1 else 2
/-- The float format of a code; P4, P6 and P8 take the record. -/
def mfFmt (record : Nat) : Nat → Fmt
  | 0 => e2m1 | 1 => e4m3 | 2 => e5m2 | 3 => e2m3 | 4 => e3m2 | 8 => bf16 | 9 => f16 | _ => fmtOfRecord record

/-- Fields of MOPW. -/
def mopEntry (w : Nat) : Nat := fld w 12 4
def mopW (w : Nat) : Nat := fld w 8 4
def mopX (w : Nat) : Nat := fld w 4 4
def mopFn (w : Nat) : Nat := fld w 2 2
def mopWs (w : Nat) : Bool := bitOf w 1
def mopXs (w : Nat) : Bool := bitOf w 0

/-- Formats that the constellation table lists for an entry. -/
def entryFormats : Nat → List Nat
  | 0 => [0, 1, 2, 3, 4, 5, 6, 7, 8, 9]
  | 1 | 2 => [8, 9, 10, 12]
  | 3 | 4 => [8, 9, 11]
  | 5 | 6 | 11 => [8, 9, 10, 11, 12]
  | 7 | 8 => [13]
  | 9 | 10 => [10, 11, 12]
  | _ => []

/-- Whether a programmable format finds a record of its class (R310 check 5). -/
def recordFits (record c : Nat) : Bool :=
  match c with
  | 5 => recordWidth record == some 4
  | 6 => recordWidth record == some 6
  | 7 => recordWidth record == some 8
  | _ => true

/-- The MOP trap subcode of an operator word that is not legal (R310, R317). -/
def mopBad (w record : Nat) : Option Nat :=
  if 11 < mopEntry w ∨ 13 < mopW w ∨ 13 < mopX w then some 1
  else if ((entryFormats (mopEntry w)).elem (mopW w) && (entryFormats (mopEntry w)).elem (mopX w)
      && mfFamily (mopW w) == mfFamily (mopX w) && (!mopWs w || decide (mopW w ≤ 7)) && (!mopXs w || decide (mopX w ≤ 7))) = false then some 2
  else if (recordFits record (mopW w) && recordFits record (mopX w)) = false then some 3
  else none

/-- Elements of a chunk (R311). -/
def mopC (w : Nat) : Nat :=
  match mopEntry w with
  | 0 =>
    if mfBits (mopW w) = 16 ∨ mfBits (mopX w) = 16 then 1
    else if mfBits (mopW w) = 4 ∧ mfBits (mopX w) = 4 then 4 else 2
  | 7 | 8 => 16
  | 9 | 10 => if mfBits (mopW w) = 8 ∧ mfBits (mopX w) = 8 then 2 else 1
  | _ => 1

/-- The ⊕-identity of the entry and family (R311). -/
def mopIdentity (w : Nat) : W32 :=
  match mopEntry w, mfFloat (mopW w) with
  | 0, _ => 0x80000000#32
  | 1, true | 4, true | 6, true => 0x7F800000#32
  | 2, true | 5, true => 0xFF800000#32
  | 3, true => 0
  | 11, true => 0x80000000#32
  | 1, false | 6, false => 0x7FFFFFFF#32
  | 2, false | 5, false => 0x80000000#32
  | 4, false => 0xFFFFFFFF#32
  | _, _ => 0

/-- Element `e` of a chunk word, for elements of `bits` bits (R303). -/
def chunkElem (c bits word e : Nat) : Nat :=
  match c with
  | 16 => fld word e 1
  | 4 => fld word (4 * e) 4
  | 2 => fld word (8 * e) bits
  | _ => fld word 0 bits

/-- An integer element: sign-extended, except U8. -/
def mInt (code x : Nat) : Int := if code = 11 then x else signedOf (mfBits code) x
/-- Largest and smallest value of an integer format. -/
def mIntMax (code : Nat) : Int := if code = 11 then 255 else 2 ^ (mfBits code - 1) - 1
def mIntMin (code : Nat) : Int := if code = 11 then 0 else -(2 ^ (mfBits code - 1))

/-- Whether a weight element is the annihilator of the entry (R314). -/
def isAnnihilator (w record x : Nat) : Bool :=
  let code := mopW w
  if mfFloat code then
    match mopEntry w, (mfFmt record code).decode x with
    | 0, .fin _ m _ | 3, .fin _ m _ | 4, .fin _ m _ => m == 0
    | 1, .inf false | 6, .inf false => true
    | 2, .inf true | 5, .inf true | 11, .inf true => true
    | _, _ => false
  else
    match mopEntry w with
    | 1 | 6 => mInt code x == mIntMax code
    | 2 | 5 | 11 => mInt code x == mIntMin code
    | _ => x == 0

-- ## One compute step (R312, R313, R99, R101)

/-- Lesser and greater of two values, -0 below +0, NaN kept (R313). -/
def vMin (a b : Val) : Val := match a, b with | .nan, _ => .nan | _, .nan => .nan | _, _ => if b.lt true a then b else a
def vMax (a b : Val) : Val := match a, b with | .nan, _ => .nan | _, .nan => .nan | _, _ => if a.lt true b then b else a
/-- Rounded into F32 and read back. -/
def toF32 (v : Val) : Val := f32.decode (encode f32 (.det .rne) v)

/-- S of entry 0: the exact sum of exact products, scaled (R99, R101). -/
def sumProducts (cw cx : Nat) (ps : List (Val × Val)) : Val :=
  if cw = 0xFF ∨ cx = 0xFF then .nan
  else
    match ps.map fun p => Val.mul p.1 p.2 with
    | [] => .fin false 0 0
    | p :: r => match r.foldl (Val.add false) p with
      | .fin s m e => .fin s m (e + cw + cx - 254)
      | v => v

/-- An element of entries 3 and 4: a sign bit of 1 reads as +0, unless NaN. -/
def noSign : Val → Val
  | .nan => .nan
  | .inf true => .fin false 0 0
  | .fin true _ _ => .fin false 0 0
  | v => v

/-- S of the other float entries. -/
def floatTerm (entry : Nat) (w x : Val) : Val :=
  match entry with
  | 1 | 2 =>
    match w, x with
    | .inf a, .inf b => if a = b then .inf a else .inf (entry == 2)
    | _, _ => toF32 (Val.add false w x)
  | 3 | 4 =>
    match w, x with
    | .nan, _ => .nan
    | _, .nan => .nan
    | _, _ => match Val.mul (noSign w) (noSign x) with
      | .nan => .fin false 0 0
      | v => toF32 v
  | 5 | 11 => vMin w x
  | _ => vMax w x

/-- P ⊕ S of the float entries. -/
def floatStep (entry : Nat) (p s : Val) : Val :=
  match entry with
  | 0 | 11 => toF32 (Val.add false p s)
  | 1 | 4 | 6 => vMin p s
  | _ => vMax p s

/-- S of the integer entries. -/
def intTerm (entry wf xf : Nat) (ps : List (Nat × Nat)) : Int :=
  let w := mInt wf (ps.headD (0, 0)).1
  let x := mInt xf (ps.headD (0, 0)).2
  match entry with
  | 1 => if w = mIntMax wf ∨ x = mIntMax xf then 0x7FFFFFFF else w + x
  | 2 => if w = mIntMin wf ∨ x = mIntMin xf then -0x80000000 else w + x
  | 3 | 4 => w * x
  | 5 | 11 => min w x
  | 6 => max w x
  | _ => ps.foldl (fun a p => a + mInt wf p.1 * mInt xf p.2) 0

/-- P ⊕ S of the integer entries, on the 32-bit word P. -/
def intStep (entry : Nat) (p : W32) (s : Int) : W32 :=
  match entry with
  | 1 | 6 => BitVec.ofInt 32 (min p.toInt s)
  | 2 | 5 => BitVec.ofInt 32 (max p.toInt s)
  | 3 => BitVec.ofInt 32 (max (p.toNat : Int) s)
  | 4 => BitVec.ofInt 32 (min (p.toNat : Int) s)
  | 9 => BitVec.ofInt 32 (p.toInt + s)
  | _ => BitVec.ofInt 32 (clampInt 32 true (p.toInt + s))

/-- One chunk combined into a partial sum: `es` the (weight, activation) codes of the elements not skipped. -/
def chunkStep (mopw record cw cx : Nat) (es : List (Nat × Nat)) (p : W32) : W32 :=
  let entry := mopEntry mopw
  match mfFamily (mopW mopw) with
  | 0 =>
    let vs := es.map fun e => ((mfFmt record (mopW mopw)).decode e.1, (mfFmt record (mopX mopw)).decode e.2)
    let s := if entry = 0 then sumProducts cw cx vs else match vs with | [] => .nan | v :: _ => floatTerm entry v.1 v.2
    BitVec.ofNat 32 (encode f32 (.det .rne) (floatStep entry (f32.decode p.toNat) s))
  | 1 => intStep entry p (intTerm entry (mopW mopw) (mopX mopw) es)
  | _ =>
    let s := es.foldl (fun a e => if entry = 7 then a ||| (e.1 &&& e.2) else a ^^^ (e.1 &&& e.2)) 0
    if entry = 7 then p ||| BitVec.ofNat 32 s else p ^^^ BitVec.ofNat 32 s

/-- Cell row `i` of column `j` acts on a partial sum (R312). -/
def cellStep (m : Mat) (record i j : Nat) (p : W32) : W32 :=
  if Sparse.get 0 m.xf i ≠ 0 then p
  else
    let c := mopC m.mopw
    let aw := Sparse.get 0 m.aw (128 * i + j)
    let xw := Sparse.get 0 m.xw i
    let es := ((List.range c).filter fun e => !bitOf (Sparse.get 0 m.ask (128 * i + j)) e).map fun e =>
      (chunkElem c (mfBits (mopW m.mopw)) aw e, chunkElem c (mfBits (mopX m.mopw)) xw e)
    if es = [] then p
    else
      let cw := if mopWs m.mopw then m.aws.get (128 * i + j) else 127
      let cx := if mopXs m.mopw then m.xsc.get i else 127
      chunkStep m.mopw record cw cx es p

/-- A compute beat into slot `n`: each column folds over the cell rows in ascending order (R312). -/
def accumulate (m : Mat) (record n : Nat) : Mat :=
  { m with ps := (List.range 128).foldl (fun ps j =>
      ps.set (128 * n + j) ((List.range 128).foldl (fun p i => cellStep m record i j p) (m.ps.get (128 * n + j)))) m.ps }

/-- The chunks of a 256-byte row (R303). -/
def chunks (row : List Byte) : List Nat := (List.range 128).map fun i => ofLE ((row.drop (2 * i)).take 2)
/-- A map from a list of 128 values. -/
def edgeMap (l : List Nat) : Sparse Nat := Sparse.setAll 0 [] (l.zipIdx.map fun x => (x.2, x.1))

/-- Load the edge row (R319, R316): `sc` the scale row, when XS is set. -/
def loadEdge (m : Mat) (row : List Byte) (sc : Option (List Byte)) : Mat :=
  let c := mopC m.mopw
  { m with xw := edgeMap (chunks row), xf := [],
           xsc := match sc with
             | none => Filled.all 0x7F
             | some b => (List.range 128).foldl (fun f i => f.set i (b.getD (c * i / 32) 0).toNat) (Filled.all 0x7F) }

/-- Write row `i` of the shadow plane (R320). -/
def loadShadow (m : Mat) (record i : Nat) (skip : Bool) (row : List Byte) : Mat :=
  let c := mopC m.mopw
  let bits := mfBits (mopW m.mopw)
  let ws := (chunks row).zipIdx
  { m with
      sw := Sparse.setAll 0 m.sw (ws.map fun x => (128 * i + x.2, x.1))
      ssk := Sparse.setAll 0 m.ssk (ws.map fun x => (128 * i + x.2,
        if skip then ((List.range c).filter fun e => isAnnihilator m.mopw record (chunkElem c bits x.1 e)).foldl (fun a e => a + 2 ^ e) 0 else 0)) }

/-- Whether an MLDS of row `i` reads a scale row, and its effect on every row of the run (R315). -/
def firstOfRun (m : Mat) (i : Nat) : Bool := mopWs m.mopw && mopC m.mopw * i % 32 == 0
def loadScales (m : Mat) (i : Nat) (sc : List Byte) : Mat :=
  { m with sws := (upFrom i (32 / mopC m.mopw)).foldl (fun f r =>
      if r < 128 then (List.range 128).foldl (fun f j => f.set (128 * r + j) (sc.getD j 0).toNat) f else f) m.sws }

def swapPlanes (m : Mat) : Mat := { m with aw := m.sw, sw := m.aw, aws := m.sws, sws := m.aws, ask := m.ssk, ssk := m.ask, lp := 0 }

/-- MSHIFT (R322). -/
def shiftEdge (m : Mat) (n : Nat) : Mat :=
  { m with
      xw := edgeMap ((List.range 128).map fun i => if i + n < 128 then Sparse.get 0 m.xw (i + n) else 0)
      xf := edgeMap ((List.range 128).map fun i => if i + n < 128 then Sparse.get 0 m.xf (i + n) else 1)
      xsc := (List.range 128).foldl (fun f i => f.set i (if i + n < 128 then m.xsc.get (i + n) else 0x7F)) (Filled.all 0x7F) }

-- ## Scan images (R333)

/-- One state of cell (p, j). -/
def cellImage (m : Mat) (p j : Nat) : List Byte :=
  leBytes 2 (Sparse.get 0 m.aw (128 * p + j)) ++ leBytes 2 (Sparse.get 0 m.sw (128 * p + j)) ++ leBytes 1 (m.aws.get (128 * p + j))
    ++ leBytes 1 (m.sws.get (128 * p + j)) ++ leBytes 2 (Sparse.get 0 m.ask (128 * p + j)) ++ leBytes 2 (Sparse.get 0 m.ssk (128 * p + j))
    ++ leBytes 2 (Sparse.get 0 m.xw p) ++ leBytes 1 (m.xsc.get p) ++ leBytes 1 (Sparse.get 0 m.xf p) ++ leBytes 2 0
    ++ leBytes 4 (m.ps.get (128 * p + j)).toNat ++ leBytes 12 0

/-- The 8 KiB scan image of row p. -/
def scanImage (cur ck : Mat) (p : Nat) : List Byte := (List.range 128).flatMap fun j => cellImage cur p j ++ cellImage ck p j

/-- Shift one state of row p in, from byte `off` of each 64-byte cell record. -/
def scanIn (m : Mat) (p off : Nat) (img : List Byte) : Mat :=
  let at_ := fun j o n => ofLE ((img.drop (64 * j + off + o)).take n)
  let row := fun (o n : Nat) => (List.range 128).map fun j => (128 * p + j, at_ j o n)
  { m with
      aw := Sparse.setAll 0 m.aw (row 0 2), sw := Sparse.setAll 0 m.sw (row 2 2)
      aws := (row 4 1).foldl (fun f x => f.set x.1 x.2) m.aws, sws := (row 5 1).foldl (fun f x => f.set x.1 x.2) m.sws
      ask := Sparse.setAll 0 m.ask (row 6 2), ssk := Sparse.setAll 0 m.ssk (row 8 2)
      xw := Sparse.set 0 m.xw p (at_ 0 10 2), xsc := m.xsc.set p (at_ 0 12 1), xf := Sparse.set 0 m.xf p (at_ 0 13 1 % 2)
      ps := (row 16 4).foldl (fun f x => f.set x.1 (BitVec.ofNat 32 x.2)) m.ps }

namespace State

def mat (s : State) : Mat := s.cg.tile.mat
def modMat (s : State) (f : Mat → Mat) : State := s.modT fun t => { t with mat := f t.mat }
/-- The format record that MOPW names. -/
def matRecord (s : State) : Nat := (s.f (mopFn s.mat.mopw)).toNat

/-- Earlier slot-5 instructions not retired yet (R328). -/
def matOpen (s : State) : List Nat := s.cg.tile.matBusy.filter fun t => decide (s.cycle < t)
/-- A slot-5 instruction that completes `n` beats after issue, and retires in issue order (R328). -/
def matTake (s : State) (n : Nat) : State :=
  s.modT fun t => { t with matBusy := s.matOpen ++ [s.matOpen.foldl max (s.cycle + n)] }

/-- Index of an explicit or pointer form (R304). -/
def mIdx (p : Nat) : MIdx → Nat
  | .at m => m.val
  | .nx => p

/-- While frozen, every instruction but MSTAT, MFREEZE and MSCAN traps (R327). -/
def unfrozen (s : State) (k : State → State) : Out := if s.mat.frozen then .next (s.takeTrap (illegal 11)) else .next (k s)

/-- A data row from a tile register: rows 2q and 2q + 1, q the index modulo 32 (R303). -/
def tileRow (s : State) (t : TReg) (n : Nat) : RowRes :=
  if s.tileBad t (256 * (n % 32)) 256 then .bad (mkTrap .machineCheck 0 0 0) else .ok s (s.tilePart t (256 * (n % 32)) 256)

/-- A scale row when it is read, before anything is changed. -/
def scaleRow (s : State) (need : Bool) (sr : Nat) (n : Nat) : RowRes := if need then s.readRow sr n true else .ok s []

/-- MPUSH with its data row read (R319). -/
def pushRow (s : State) (row : List Byte) (scale : Nat) (m : MIdx) : State :=
  let xs := mopXs s.mat.mopw
  match s.scaleRow xs scale 64 with
  | .bad t => s.takeTrap t
  | .ok s sc =>
    let n := mIdx s.mat.pp m
    let s := s.modMat fun a => accumulate (loadEdge a row (if xs then some sc else none)) s.matRecord n
    (s.modMat fun a => { a with pp := (n + 1) % 128 }).matTake 132

/-- MLDS with its data row read (R320, R315). -/
def ldsRow (s : State) (row : List Byte) (scale : Nat) (skip : Bool) (m : MIdx) : State :=
  let i := mIdx s.mat.lp m
  let first := firstOfRun s.mat i
  match s.scaleRow first scale 128 with
  | .bad t => s.takeTrap t
  | .ok s sc =>
    let s := s.modMat fun a => loadShadow a s.matRecord i skip row
    let s := if first then s.modMat fun a => loadScales a i sc else s
    (s.modMat fun a => { a with lp := (i + 1) % 128 }).matTake 132

/-- Words of an accumulator as bytes. -/
def accBytes (s : State) (n q c : Nat) : List Byte := (upFrom q c).flatMap fun j => leBytes 4 (s.cg.r.acc.get (128 * n + j)).toNat

def rowThen (r : RowRes) (s : State) (k : State → List Byte → State) : State :=
  match r with
  | .bad t => s.takeTrap t
  | .ok s' row => k s' row

end State

open State

/-- MPUSH from a stream (R319). -/
def execMpush (r : SReg) (m : MIdx) (s : State) : Out :=
  s.unfrozen fun s => rowThen (s.readRow r 256 true) s fun s' row => s'.pushRow row (r.val ^^^ 1) m
/-- MPUSH from a tile register (R319). -/
def execMpushTile (r : SReg) (t : TReg) (m : MIdx) (s : State) : Out :=
  s.unfrozen fun s => rowThen (s.tileRow t (mIdx s.mat.pp m)) s fun s' row => s'.pushRow row r m
/-- MSHIFT (R322). -/
def execMshift (n : Fin 128) (s : State) : Out := s.unfrozen fun s => (s.modMat fun a => shiftEdge a n).matTake 1
/-- MACC (R319). -/
def execMacc (m : MIdx) (s : State) : Out :=
  s.unfrozen fun s =>
    let n := mIdx s.mat.pp m
    (s.modMat fun a => { accumulate a s.matRecord n with pp := (n + 1) % 128 }).matTake 132
/-- MDRAIN (R323). -/
def execMdrain (a : AReg) (keep : Bool) (m : MIdx) (s : State) : Out :=
  s.unfrozen fun s =>
    let n := mIdx s.mat.dp m
    let ps := s.mat.ps
    let s := (List.range 128).foldl (fun s j => s.setAcc a j (ps.get (128 * n + j))) s
    let s := if keep then s
      else s.modMat fun x => { x with ps := (List.range 128).foldl (fun f j => f.set (128 * n + j) (mopIdentity x.mopw)) x.ps }
    (s.modMat fun x => { x with dp := (n + 1) % 128 }).matTake 136
/-- MLDS from a stream (R320). -/
def execMlds (skip : Bool) (r : SReg) (m : MIdx) (s : State) : Out :=
  s.unfrozen fun s => rowThen (s.readRow r 256 true) s fun s' row => s'.ldsRow row (r.val ^^^ 1) skip m
/-- MLDS from a tile register (R320). -/
def execMldsTile (skip : Bool) (r : SReg) (t : TReg) (m : MIdx) (s : State) : Out :=
  s.unfrozen fun s => rowThen (s.tileRow t (mIdx s.mat.lp m)) s fun s' row => s'.ldsRow row r skip m
/-- MSWAP (R321). -/
def execMswap (s : State) : Out := s.unfrozen fun s => (s.modMat swapPlanes).matTake 1
/-- The word that MOP (imm) sets (R309). -/
def mopWord (e w x : Fin 16) (f : FReg) (ws xs : Bool) : Nat :=
  e.val * 4096 + w.val * 256 + x.val * 16 + f.val * 4 + 2 * bit ws + bit xs
/-- MOP (imm) (R317). -/
def execMopImm (e w x : Fin 16) (f : FReg) (ws xs : Bool) (s : State) : Out :=
  s.unfrozen fun s => (s.modMat fun a => { a with mopw := mopWord e w x f ws xs }).matTake 1
/-- MOP (reg) (R317). -/
def execMopReg (k : KReg) (s : State) : Out :=
  s.unfrozen fun s =>
    let w := (s.k k).toNat
    match (if 2 ^ 16 ≤ w then some 1 else mopBad w (s.f (mopFn w)).toNat) with
    | some sub => s.takeTrap (mkTrap .mop sub 0 0)
    | none => (s.modMat fun a => { a with mopw := w }).matTake 1
/-- MCLR (R318). -/
def execMclr (s : State) : Out :=
  s.unfrozen fun s =>
    let e := mopIdentity s.mat.mopw
    ((s.modMat fun a => { a with ps := Filled.all e, pp := 0, dp := 0 }).modR fun r => { r with acc := Filled.all e }).matTake 1
/-- The word MSTAT writes (R325). -/
def mstatWord (m : Mat) (quiet : Bool) : Nat :=
  m.mopw % 2 ^ 16 * 2 ^ 32 + m.lp * 2 ^ 24 + m.pp * 2 ^ 16 + m.dp * 2 ^ 8 + 2 * bit m.frozen + bit quiet
/-- MSTAT (R325). -/
def execMstat (k : KReg) (s : State) : Out := .next ((s.setK k (BitVec.ofNat 64 (mstatWord s.mat (s.matOpen == [])))).matTake 1)
/-- MWAIT (R326). -/
def execMwait (s : State) : Out := s.unfrozen fun s => if s.matOpen = [] then s else s.stall
/-- MRDA (R324). -/
def execMrda (a : AReg) (t : TReg) (n : Fin 16) (s : State) : Out :=
  s.unfrozen fun s => (s.modG fun g => g.put (.row t (8 * n)) (s.accBytes a 0 128) []).matTake 2
/-- MWRA (R324). -/
def execMwra (a : AReg) (t : TReg) (p : Bool) (n : Fin 16) (m : Fin 128) (s : State) : Out :=
  s.unfrozen fun s =>
    if s.tileBad t (512 * n) 512 then s.takeTrap (mkTrap .machineCheck 0 0 0)
    else
      let ws := (List.range 128).map fun j => BitVec.ofNat 32 (ofLE (s.tilePart t (512 * n + 4 * j) 4))
      let s := ws.zipIdx.foldl (fun s x => s.setAcc a x.2 x.1) s
      let s := if p then s.modMat fun y => { y with ps := ws.zipIdx.foldl (fun f x => f.set (128 * m + x.2) x.1) y.ps } else s
      s.matTake 4
/-- MFREEZE (R327). -/
def execMfreeze (off : Bool) (s : State) : Out :=
  if off then .next (s.modMat fun a => { a with frozen := false })
  else if s.matOpen = [] then .next (s.modMat fun a => { a with frozen := true })
  else .next s.stall
/-- MSCAN (R327, R335). -/
def execMscan (inp : Bool) (k : KReg) (s : State) : Out :=
  let w := (s.k k).toNat
  let addr := fld w 0 23
  let p := fld w 24 7
  if !s.mat.frozen then .next (s.takeTrap (illegal 11))
  else if 2 ^ 31 ≤ w ∨ bitOf w 23 then .next (s.takeTrap (illegal 12))
  else if addr % 8192 ≠ 0 then .next (s.takeTrap (mkTrap .align 3 0 0))
  else if inp then
    let img := s.spadBytes addr 8192
    .next ((s.modT fun t => { t with mat := scanIn t.mat p 0 img, ckMat := scanIn t.ckMat p 32 img }).matTake 256)
  else .next ((s.modT fun t => writeSpad t addr (scanImage t.mat t.ckMat p) fun _ => false).matTake 256)

/-- MATRIX_RETIRE: the oldest slot-5 instructions whose time has come retire (R328). -/
def execMatrixRetire (grp : Nat) (s : State) : Out :=
  match s.groups.find? (·.1 == grp) with
  | none => .next s
  | some (_, g) =>
    .next (s.setGroup grp { g with tile := { g.tile with matBusy := g.tile.matBusy.filter fun t => decide (s.cycle < t) } })

end Sys2Proof.Machine
end

