-- ==== Sys2Proof/Machine/Transform.lean ====
section
/-!
DEFINITION. The transform instructions (R338 to R345): ports, triggers with the checks of R341, and the collecting instructions.
-/
namespace Sys2Proof.Machine
namespace State

def xunit (s : State) (u : XUnit) : XUnitSt := getUnit s.cg u
def setXunit (s : State) (u : XUnit) (x : XUnitSt) : State := s.modG fun g => setUnit g u x
/-- QMAX (R340). -/
def qmax (s : State) : Nat := match s.kind with | .shading => 1 | .tensor => 4

/-- Check 1 of R341, unit by unit (R347, R349 to R351). -/
def xOptOk (s : State) (u : XUnit) (n opt len : Nat) : Bool :=
  match u with
  | .dcz => n == 0 && opt == 0 && decide (8 ≤ len) && decide (len ≤ 8192)
  | .spx => n == 0 && decide (opt < 4) && decide (0 < len) && len % 64 == 0 && decide (len * (4 * 2 ^ opt) / 8 ≤ s.tileBytes)
  | .exc => decide (n ≤ 1) && decide (opt < 32) && decide (0 < len) && len % 256 == 0 && decide (len ≤ 7680)
  | .mxq => n == 0 && decide (opt < 2 ^ 9) && fld opt 5 2 != 3 && (mxqFmt opt (s.f (fld opt 3 2)).toNat).isSome
      && decide (32 ≤ len) && len % 32 == 0 && decide (len ≤ 2048)

/-- Checks 2 and 3. -/
def xBindTrap (s : State) (u : XUnit) (x : XUnitSt) : Option Trap :=
  if (s.kind = .shading ∧ (x.inp = none ∨ x.out = none)) ∨ (u = .dcz ∧ x.tab = none) then some (illegal 14)
  else
    let bad := fun (b : Option XBind) (d : StreamDir) => match b with | some (.s i) => (s.stream i).dir != d | _ => false
    if bad x.inp .rd || bad x.out .wr then some (illegal 7) else none

/-- Checks 4 and 5 of the scratchpad operands in use. -/
def xSpadTrap (x : XUnitSt) (inMax outMax : Nat) : Option Trap :=
  let src := x.inp = none
  let dst := x.out = none
  if src ∧ x.src % 64 ≠ 0 then some (mkTrap .align 3 0 x.src)
  else if dst ∧ x.dst % 64 ≠ 0 then some (mkTrap .align 3 0 x.dst)
  else if src ∧ 0x800000 < x.src + inMax then some (mkTrap .perm 3 0 x.src)
  else if dst ∧ 0x800000 < x.dst + outMax then some (mkTrap .perm 3 0 x.dst)
  else none

/-- Check 6: the code table, a poisoned one being a consumed value (R25, R346). -/
def xTabTrap (s : State) (u : XUnit) (x : XUnitSt) : Option Trap :=
  match u, x.tab with
  | .dcz, some t =>
    if s.tileBad t 0 128 then some (mkTrap .machineCheck 0 0 0)
    else if dczTableOk (s.tilePart t 0 128) then none
    else some (illegal 13)
  | _, _ => none

/-- Registers and streams that a trigger uses, but does not name, must be free (R45, R342). -/
def xWaits (s : State) (x : XUnitSt) : Bool :=
  let ops := [x.inp, x.out, x.tab.map fun t => .t t].filterMap id
  ops.any fun b => match b with | .t t => s.rg.busy.elem (.t t) | .s i => (xStreams s.rg).elem i.val

/-- Bytes of a tile register or of the scratchpad with their marks. -/
def xData (s : State) (x : XUnitSt) (n : Nat) : List (Byte × Bool) :=
  match x.inp with
  | some (.t t) => ((s.t t).zipIdx.take n).map fun b => (b.1, s.regPoisoned (.t t (b.2 / 4)))
  | some (.s _) => []
  | none => (run x.src n).map fun a => (Sparse.get 0 s.rg.tile.spad a, spadMarked s.rg.tile a)

/-- A trigger (R340). -/
def xTrigger (s : State) (u : XUnit) (n opt : Nat) : State :=
  let x := s.xunit u
  if s.qmax ≤ x.queue.length then s.stall
  else
    let cfg := match u with | .mxq => (s.f (fld opt 3 2)).toNat | _ => x.cfg
    let inMax := xInMax u n opt x.len
    let first := if s.xOptOk u n opt x.len then s.xBindTrap u x else some (illegal 13)
    match first <|> xSpadTrap x inMax (xOutMax u n opt x.len cfg) <|> s.xTabTrap u x with
    | some t => s.takeTrap t
    | none =>
      if s.xWaits x then s.stall
      else
        let o : XOp :=
          { n := n, opt := opt, src := x.src, dst := x.dst, len := x.len, inp := x.inp, out := x.out
            tab := (match x.tab with | some t => s.tilePart t 0 128 | none => []), cfg := cfg, data := s.xData x inMax, done := none, pos := 0 }
        let s := s.setXunit u { x with inp := none, out := none, tab := none, queue := x.queue ++ [o]
                                       cfg := if u = .exc then 0 else x.cfg }
        match x.out with | some (.t t) => s.setBusy (.t t) | _ => s

/-- What a removed completion word does (R344): a value, or a trap. -/
def xOutcome (o : XOp) (w : Nat) : Option Trap :=
  let at_ := if o.inp = none then o.src else 0
  match fld w 48 8 with
  | 0 => none
  | 1 => some { mkTrap .decode (fld w 40 8) 0 at_ with synd := 2 ^ 8 * o.pos }
  | 2 => some (illegal 6)
  | _ => some (mkTrap .machineCheck 0 0 at_)

/-- Remove the oldest word of a unit: the word, or the trap of its STATUS. -/
def xCollect (s : State) (u : XUnit) (o : XOp) (w : Nat) : State × Option Trap :=
  let x := s.xunit u
  (s.setXunit u { x with queue := x.queue.drop 1 }, xOutcome o w)

/-- XGET and XGETS. -/
def xGet (s : State) (u : XUnit) (d : KReg) (poll : Bool) : State :=
  match (s.xunit u).queue with
  | [] => if poll then s.setK d 0 else s.takeTrap (illegal 14)
  | o :: _ => match o.done with
    | none => if poll then s.setK d 0 else s.stall
    | some w => match s.xCollect u o w with
      | (s, some t) => s.takeTrap t
      | (s, none) => s.setK d (BitVec.ofNat 64 w)

/-- Remove every word of a unit, oldest first, up to one that traps. -/
def xDrain (u : XUnit) : Nat → State → State
  | 0, s => s
  | n + 1, s => match (s.xunit u).queue with
    | [] => s
    | o :: _ => match o.done with
      | none => s
      | some w => match s.xCollect u o w with
        | (s, some t) => s.takeTrap t
        | (s, none) => xDrain u n s

/-- XSTAT's word (R345). -/
def xstatWord (x : XUnitSt) : Nat :=
  2 ^ 8 * bit x.tab.isSome + 2 ^ 7 * bit x.out.isSome + 2 ^ 6 * bit x.inp.isSome
    + 8 * (x.queue.filter fun o => o.done.isSome).length + x.queue.length

end State

open State

/-- XMOV: a data port, or a trigger (R337, R340). -/
def execXmov (u : XUnit) (p : XPort) (a : KReg) (s : State) : Out :=
  let v := (s.k a).toNat
  let x := s.xunit u
  match p with
  | .src => .next (s.setXunit u { x with src := v })
  | .dst => .next (s.setXunit u { x with dst := v })
  | .len => .next (s.setXunit u { x with len := v })
  | .go n => .next (s.xTrigger u n v)
/-- XMOVT: a bind port (R337). -/
def execXmovt (u : XUnit) (p : XBindPort) (b : XBind) (s : State) : Out :=
  let x := s.xunit u
  match p, b with
  | .inp, _ => .next (s.setXunit u { x with inp := some b })
  | .out, _ => .next (s.setXunit u { x with out := some b })
  | .tab, .t t => .next (s.setXunit u { x with tab := some t })
  | .tab, .s _ => .next s
/-- XGET (R344). -/
def execXget (u : XUnit) (d : KReg) (s : State) : Out := .next (s.xGet u d false)
/-- XGETS (R344). -/
def execXgets (u : XUnit) (d : KReg) (s : State) : Out := .next (s.xGet u d true)
/-- XCFG: .RATIO, .FILL or .CRST (R345, R347, R349, R350). -/
def execXcfg (u : XUnit) (a : KReg) (s : State) : Out :=
  let v := (s.k a).toNat
  let x := s.xunit u
  match u with
  | .dcz => if v < 0x10 ∨ 2 ^ 8 ≤ v then .next (s.takeTrap (illegal 13)) else .next (s.setXunit u { x with cfg := v })
  | .spx => if 2 ^ 32 ≤ v then .next (s.takeTrap (illegal 13)) else .next (s.setXunit u { x with cfg := v })
  | .exc =>
    if 2 ^ 16 ≤ v then .next (s.takeTrap (illegal 13))
    else if xIdle x then .next (s.modG fun g => resetChans g v)
    else .next (s.setXunit u { x with cfg := x.cfg ||| v })
  | .mxq => .next s
/-- XSTAT: the state before the bundle (R345). -/
def execXstat (u : XUnit) (d : KReg) (s : State) : Out := .next (s.setK d (BitVec.ofNat 64 (xstatWord (getUnit s.rg u))))
/-- XWAIT (R344). -/
def execXwait (u : XUnit) (s : State) : Out :=
  let x := s.xunit u
  if xIdle x then .next (xDrain u x.queue.length s) else .next s.stall
/-- XRST (R345). -/
def execXrst (u : XUnit) (s : State) : Out :=
  let x := s.xunit u
  if xIdle x then
    let s := s.setXunit u (XUnitSt.zero u)
    .next (if u = .exc then s.modG fun g => resetChans g 0xFFFF else s)
  else .next s.stall

/-- TRANSFORM_COMPLETE: the oldest operation of a group's unit completes (R343). -/
def execTransformComplete (grp : Nat) (u : XUnit) (s : State) : Out :=
  match s.groups.find? (·.1 == grp) with
  | none => .next s
  | some (_, g) => .next (s.setGroup grp (xComplete g u))

end Sys2Proof.Machine
end

