-- ==== Sys2Proof/Machine/ControlOps.lean ====
section
/-!
DEFINITION. What the control engine's instructions share: fetching (R75), splits (R118 to R121), barriers (R153), translated words of
slot 0 (R154, R156, R172), joins and pushes (R108, R113, R155, R156), window tables (R272), ordered commits (R43, R141, R218), and the
release that a CKPT or DONE of a tile makes (R33, R168).
-/
namespace Sys2Proof.Machine

/-- What a fetch gives: the eight slot words, or its fault (R75). -/
inductive Fetched
  | bad (t : Trap)
  | words (l : List Nat)

/-- What an access of slot 0 meets: a trap, a wait with the state that records it, or its physical address. -/
inductive Reach
  | bad (t : Trap)
  | wait (s : State)
  | ok (s : State) (pa : Nat)

namespace State

-- ## Fetch (R75)

/-- Fetch the bundle at an address for the issuing gang. -/
def fetch (s : State) (va : Nat) : Fetched :=
  let q := s.reqHere
  if 2 ^ 52 ≤ va then .bad (mkTrap .perm 2 0 va)
  else match s.seeLeaf q va with
    | .bad sub level reason => .bad { mkTrap .page sub 0 va with synd := level + 16 * reason }
    | .leaf _ e big =>
      let pa := leafPa e va big
      if !leafR e then .bad { mkTrap .perm 4 0 va with synd := (if big then 2 else 3) + 16 * 5 }
      else if !s.sealed_.elem (pageOf pa) then .bad (mkTrap .unsealed 0 0 va)
      else if s.anyPoisoned pa 32 then .bad { mkTrap .machineCheck 0 0 va with paddr := pa }
      else .words ((List.range 8).map fun i => ofLE (s.dieBytes s.die (pa + 4 * i) 4))

/-- The major opcode of a slot-0 word (R51). -/
def ctlOp (w : Nat) : Nat := fld w 25 6

-- ## Jumps (R149, R75)

/-- The bundle after the issuing one. -/
def nextPc (s : State) : Nat := (s.pc + 32) % 2 ^ 64
/-- A static target (R149). -/
def relTarget (s : State) (off : BitVec 19) : Nat := wrapTo 64 ((s.pc : Int) + 32 * signedOf 19 off.toNat)

/-- The trap of a branch to a register target: ALIGN 5, and on a tile a target that cannot be fetched or holds no CKPT. -/
def targetTrap (s : State) (t : Nat) : Option Trap :=
  if t % 32 ≠ 0 then some (mkTrap .align 5 0 t)
  else match s.kind with
    | .shading => none
    | .tensor => match s.fetch t with
      | .bad x => some x
      | .words l => if ctlOp (l.getD 0 0) = 0x18 then none else some (mkTrap .unsealed 1 0 t)

-- ## Splits (R117 to R121)

/-- What a part of a split keeps of a replay: the lanes of its mask `m`. A collective transfer and a uniform access stay whole, with
the part that keeps the split's number. -/
def maskWait (m other : Nat) (keepWhole : Bool) (w : Wait) : List Wait :=
  match w with
  | .mem r =>
    if r.tile.isSome then (if keepWhole then [w] else [])
    else
      let l := (r.todo.zip r.why).filter fun x => bitOf m x.1.lane || (keepWhole && !bitOf other x.1.lane)
      if l = [] then [] else [.mem { r with todo := l.map (·.1), why := l.map (·.2) }]
  | w => [w]

/-- A divergent branch (R118). -/
def diverge (s : State) (target mt mn : Nat) : State :=
  let x := s.split
  let y := { x with mask := mt, pc := target, age := s.cycle, arrived := true, waits := x.waits.flatMap (maskWait mt mn true) }
  match (List.range 4).find? fun i => s.cg.splits.all (·.1 != i) with
  | some i =>
    let z := { x with mask := mn, pc := s.nextPc, age := s.cycle, arrived := false, stack := [], barred := false, fsc := .idle,
                      waits := x.waits.flatMap (maskWait mn mt false) }
    let s := s.modG fun g => { g with splits := Sparse.insert (Sparse.insert g.splits s.cur.split y) i z }
    { s with cur := { s.cur with jumped := true } }
  | none =>
    let s := s.setSplit { y with waits := x.waits, age := x.age, stack := (s.nextPc, mn) :: x.stack }
    { s with cur := { s.cur with jumped := true } }

/-- Lanes of a group that have not executed DONE: those of its splits and their stacks. -/
def liveLanes (g : Group) : Nat := g.splits.foldl (fun m x => x.2.stack.foldl (fun m e => m ||| e.2) (m ||| x.2.mask)) 0

-- ## Barriers (R153)

/-- A group's flags are set where every live lane has contributed. -/
def settleFlags (g : Group) : Group :=
  let live := liveLanes g
  (List.range 8).foldl (fun g n =>
    let c := Sparse.get 0 g.barLanes n
    if c ≠ 0 ∧ live ≠ 0 ∧ c &&& live = live then
      { g with barFlags := setBit g.barFlags n true, barLanes := Sparse.set 0 g.barLanes n 0 }
    else g) g

/-- Phases that are complete: every group that has not ended has its flag set; the flags are cleared and waiting BARs go on. -/
def completePhases (s : State) (gang : Nat) : State :=
  let mine := s.groups.filter fun x => x.2.gang == gang && x.2.splits != []
  let done := (List.range 8).filter fun n => mine != [] && mine.all fun x => bitOf x.2.barFlags n
  if done = [] then s
  else { s with groups := s.groups.map fun x =>
           if x.2.gang == gang then
             (x.1, { x.2 with barFlags := done.foldl (fun f n => setBit f n false) x.2.barFlags
                              splits := x.2.splits.map fun y =>
                                (y.1, { y.2 with waits := y.2.waits.filter fun w => match w with | .bar n => !done.elem n | _ => true }) })
           else x }

/-- The issuing split arrives at barrier n. -/
def arrive (s : State) (n : Nat) : State :=
  let s := match s.kind with
    | .tensor => s.modG fun g =>
      { g with barFlags := setBit g.barFlags n true
               tile := { g.tile with arrivals := Sparse.set 0 g.tile.arrivals n (Sparse.get 0 g.tile.arrivals n + 1)
                                     swb := g.tile.swb ++ [SwbEnt.boundary .gang] } }
    | .shading => s.modG fun g =>
      settleFlags { g with barLanes := Sparse.set 0 g.barLanes n (Sparse.get 0 g.barLanes n ||| s.split.mask) }
  s.completePhases s.cg.gang

/-- Whether an arrival of the issuing split must wait for the phase in progress. -/
def arrivalWaits (s : State) (n : Nat) : Bool :=
  bitOf s.cg.barFlags n || (s.kind == .shading && (Sparse.get 0 s.cg.barLanes n &&& s.split.mask) != 0)

/-- FENCE at GANG scope can be performed (R153, R204). -/
def fenceReady (s : State) (sc : Scope) : Bool :=
  match s.kind with | .tensor => true | .shading => s.releaseReady sc && !s.openStore

-- ## The end of lanes, splits and groups (R113, R120, R157)

/-- The active lanes of the issuing split end. -/
def endLanes (s : State) : State :=
  let x := s.split
  let gang := s.cg.gang
  match x.stack with
  | (a, m) :: r =>
    let s := s.setSplit { x with pc := a, mask := m, stack := r, arrived := false, waits := [] }
    let s := (s.modG settleFlags).completePhases gang
    { s with cur := { s.cur with jumped := true } }
  | [] =>
    let s := s.modG fun g => settleFlags { g with splits := Sparse.erase g.splits s.cur.split }
    let s := if s.cg.splits = [] then s.setGang gang { s.gang gang with alive := (s.gang gang).alive - 1 } else s
    let s := s.completePhases gang
    { s with cur := { s.cur with jumped := true } }

/-- A DONE that issued beside a parked memory instruction takes effect once that is performed (R157). -/
def settleEnding (s : State) : State :=
  let w := s.split.waits
  if w.any (fun x => x == .ending) && !w.any (fun x => match x with | .mem _ => true | _ => false) then s.endLanes else s

-- ## Words that slot 0 reaches (R154, R156, R172)

/-- The access of slot 0 to `n` bytes through the page tables: aligned to `al` (ALIGN subcode `sub`), else parked until its page is
available, with nothing performed. -/
def reach (s : State) (va al sub : Nat) (op : AccOp) : Reach :=
  let a : Access := { lane := 0, va := va, op := op }
  if va % al ≠ 0 then .bad (mkTrap .align sub 0 va)
  else
    let q := s.reqHere
    let go := fun (s : State) =>
      match s.xlate q va op.need with
      | .trap cls sub level reason => Reach.bad { mkTrap cls sub 0 va with synd := level + 16 * reason }
      | .park page why =>
        let r : Replay :=
          { pc := s.pc, slot := 0, todo := [a], tile := none, rows := [], why := [(page, why)], since := s.sid, instr := none
            woken := false }
        .wait ((s.parkEffect false page why).modSplit fun x => { x with waits := [.mem r] }).hold
      | .ok pa _ blk => .ok (s.noteDone a pa blk) pa
      | .start _ _ e big => .ok (s.noteDone a (leafPa e va big) none) (leafPa e va big)
    match s.xlate q va op.need with
    | .start page at_ e big => go (s.startMigration q s.src page at_ e big).1
    | _ => go s

/-- What an atomic of `n` bytes needs. -/
def wordOp (n : Nat) : AccOp := .atomic (.int .add (if n = 8 then .d else .w) 0) .none

/-- Older SEMWAITs on the same word come first (R154). -/
def olderWaiter (s : State) (pa : Nat) : Bool :=
  let mine := s.split.waits.findSome? fun w => match w with | .sem p t _ => if p = pa then some t else none | _ => none
  s.groups.any fun g => g.2.splits.any fun x => x.2.waits.any fun w => match w with
    | .sem p t _ => p == pa && !(g.1 == s.cur.grp && x.1 == s.cur.split)
        && (match mine with | none => true | some t' => decide (t < t') || (t == t' && decide (g.1 < s.cur.grp)))
    | _ => false

-- ## Joins and pushes (R108, R113, R155, R156)

/-- A JOIN record (R274). -/
def joinRec (s : State) (r : ErrRec) (va reason : Nat) : State := s.logErr { r with cls := 0x13, vaddr := va, synd := 16 * reason }

/-- Push CONT into QUEUE, both read from the join record. -/
def pushCont (s : State) (q : Req) (r : ErrRec) (src va : Nat) : State :=
  match s.unitRead q (va + 8) 4, s.unitRead q (va + 0x40) 64 with
  | some b, some c =>
    let qn := ofLE b
    match s.queue? qn with
    | some x => if x.owner = q.ctx ∧ qn < 131072 then s.pushOrHold q.ctx src qn c none false else s.joinRec r va 7
    | none => s.joinRec r va 7
  | _, _ => s.joinRec r va 7

/-- COUNT gains `delta` at its physical address, and what follows from that (R113, R156). -/
def joinStep (s : State) (q : Req) (r : ErrRec) (src va pa delta : Nat) : State :=
  let x := s.atomicAt src pa 8 fun o => some ((o + delta) % 2 ^ 64)
  let new := (x.2 + delta) % 2 ^ 64
  if 2 ^ 63 ≤ new then x.1.joinRec r va 0
  else if x.2 ≠ 0 ∧ new = 0 then x.1.pushCont q r src va
  else x.1

/-- BIND: the gang's JOIN, also in its record (R156). -/
def bindJoin (s : State) (va : Nat) : State := s.setGg { s.gg with rec_ := patch s.gg.rec_ 0x20 (leBytes 8 va) }

/-- The record in registers kA to kA+7 (R155). -/
def recordFrom (s : State) (a : KReg) : List Byte := (List.range 8).flatMap fun i => leBytes 8 (s.k (a + Fin.ofNat 64 i)).toNat

/-- SPAWN pushes one record, SPAWNG GCOUNT of them with rising GIDX. -/
def spawnRecords (r : List Byte) (many : Bool) : List (List Byte) :=
  if many then (List.range (recGcount r)).map fun i => patch r 0x14 (leBytes 4 i) else [r]

def pushAll (s : State) (qn : Nat) (l : List (List Byte)) : State :=
  l.foldl (fun s r => s.appendRecord (gangSrc s.gg) qn r none) s

/-- The checks of R155. -/
def spawnTrap (s : State) (qn n : Nat) : Option Trap :=
  match s.queue? qn with
  | none => some (mkTrap .perm 1 0 0)
  | some q =>
    if q.owner ≠ s.gg.ctx then some (mkTrap .perm 1 0 0)
    else if 2 ^ q.logcap < n then some (illegal 5)
    else none

def room (s : State) (qn n : Nat) : Bool := match s.queue? qn with | some q => decide (n ≤ queueRoom q) | none => true

/-- SPAWN and SPAWNG (R155, R159). -/
def spawn (s : State) (a b : KReg) (many : Bool) : State :=
  let r := s.recordFrom a
  let qn := fld (s.k b).toNat 0 32
  let n := if many then recGcount r else 1
  match s.spawnTrap qn n with
  | some t => s.takeTrap t
  | none => match s.kind with
    | .shading => if s.fenceReady .pkg && s.room qn n then s.pushAll qn (spawnRecords r many) else s.stall
    | .tensor =>
      if s.cg.tile.dpush ≠ .none then s.takeTrap (illegal 4)
      else s.modT fun t => { t with dpush := if many then .spawng qn r n else .spawn qn r }

-- ## Window tables (R269, R272)

/-- A 32-byte entry as fields. -/
def winOf (b : List Byte) : Win :=
  { vbase := ofLE (b.take 8), len := ofLE ((b.drop 8).take 8), pbase := ofLE ((b.drop 16).take 8), perm := ofLE ((b.drop 24).take 1) }
def winReserved (b : List Byte) : Bool := ofLE (b.drop 25) != 0 || decide (4 ≤ ofLE ((b.drop 24).take 1))

/-- The leaves of the pages of a window, with their offsets. -/
def winLeaves (s : State) (ctx : Nat) (w : Win) : List (Nat × Walk) :=
  (List.range (w.len / 65536)).map fun i => (65536 * i, s.walk ctx (w.vbase + 65536 * i))

/-- The refusal of one used entry against those before it. -/
def winRefusal (s : State) (ctx : Nat) (b : List Byte) (before : List Win) : Option Nat :=
  let w := winOf b
  let ls := s.winLeaves ctx w
  let bad := fun (f : Nat → Nat → Bool → Bool) => ls.any fun x => match x.2 with | .leaf _ e big => f x.1 e big | .bad _ _ _ => false
  if winReserved b then some 1
  else if w.vbase % 65536 ≠ 0 ∨ w.len % 65536 ≠ 0 ∨ w.pbase % 65536 ≠ 0 ∨ 2 ^ 52 < w.vbase + w.len then some 2
  else if before.any (fun v => v.len != 0 && overlaps v.vbase v.len w.vbase w.len) then some 3
  else if ls.any fun x => match x.2 with | .bad _ _ _ => true | .leaf _ e _ => !leafPres e && !leafProc e then some 4
  else if bad fun o e big => leafPa e (w.vbase + o) big != w.pbase + o then some 5
  else if bad fun _ e _ => (bitOf w.perm 0 && !leafR e) || (bitOf w.perm 1 && !leafW e) then some 6
  else if bad fun _ e _ => leafCow e then some 7
  else if bad fun _ e _ => leafProc e then some 8
  else if (paKind w.pbase != .first && paKind w.pbase != .second) || paKind (w.pbase + w.len - 1) != paKind w.pbase then some 9
  else if ls.any fun x => s.moving ctx (w.vbase + x.1) then some 10
  else none

/-- The table that the entries give, or the index and reason of the first refusal. -/
def winTable (s : State) (ctx : Nat) : Nat → List (List Byte) → List Win → Except (Nat × Nat) (List Win)
  | _, [], acc => .ok acc
  | i, b :: r, acc =>
    if (winOf b).len = 0 then s.winTable ctx (i + 1) r (acc ++ [winOf b])
    else match s.winRefusal ctx b acc with
      | some n => .error (i, n)
      | none => s.winTable ctx (i + 1) r (acc ++ [winOf b])

/-- A list cut into pieces of `n`, `k` of them. -/
def pieces (n : Nat) : Nat → List Byte → List (List Byte)
  | 0, _ => []
  | k + 1, l => l.take n :: pieces n k (l.drop n)

-- ## The intersection store (R376, R377)

/-- Whether a microword is accepted (R376, R377): an assigned OP, and every field that the operation does not use 0. -/
def microOk (w : Nat) : Bool :=
  let op := fld w 58 6
  let a := fld w 48 4
  let b := fld w 44 4
  let c := fld w 40 4
  let d := fld w 52 4
  let imm := fld w 0 32
  let rm := fld w 56 2
  let zero := fun (l : List Nat) => l.all (· == 0)
  fld w 32 8 == 0 && (match op with
    | 0x00 | 0x1B => zero [rm, d, a, b, c, imm]
    | 0x01 | 0x02 | 0x03 | 0x05 => zero [c, imm]
    | 0x04 => zero [imm]
    | 0x06 => zero [b, c, imm]
    | 0x07 | 0x08 => zero [rm, c, imm]
    | 0x09 | 0x0A | 0x1F => zero [rm, b, c, imm]
    | 0x0B | 0x0C | 0x10 | 0x11 => zero [rm, b, c]
    | 0x0D | 0x0E => zero [rm, a, b, c]
    | 0x0F => zero [rm, c]
    | 0x12 | 0x13 => zero [rm, d, imm] && decide (c < 4)
    | 0x14 => zero [rm, d, b, c, imm]
    | 0x15 => zero [rm, d, b, c, imm]
    | 0x16 => zero [rm, a, b, c, imm]
    | 0x17 | 0x18 | 0x19 => zero [rm, d, a, b, c]
    | 0x1A => zero [rm, imm] && decide (d ≤ 14)
    | 0x1C | 0x1D => zero [b, c, imm]
    | 0x1E => zero [rm, d, c]
    | _ => false)

/-- Whether a traversal waits or runs on the issuing core (R172). -/
def traceHere (s : State) : Bool :=
  s.groups.any fun g => g.2.core == s.src && g.2.kind == .shading && g.2.splits.any fun x => x.2.waits.any fun w => match w with
    | .mem { instr := some (.trace _ _ _ _ _), .. } | .mem { instr := some (.tacc _ _ _ _), .. } => true
    | _ => false

-- ## Ordered commits (R43, R141, R218)

/-- The group numbered `key` may commit: lower groups of its gang have ended, are further on or wait, and no lower gang of its job is
left (R141, R43). -/
def commitAllowed (s : State) (key : Nat) : Bool :=
  let g := s.group key
  let gg := s.gang g.gang
  (s.gangs.all fun x => !(orderedRec x.2.rec_ && x.2.queue == gg.queue && x.2.job == gg.job
      && decide (recGidx x.2.rec_ < recGidx gg.rec_)))
    && s.groups.all fun x => !(x.2.gang == g.gang && decide (x.2.idx < g.idx)) || x.2.splits == [] || decide (g.quanta < x.2.quanta)
      || x.2.splits.all fun y => y.2.waits != []

/-- One held operation is performed. -/
def performHeld (s : State) (key : Nat) (h : HeldOp) : State :=
  let g := s.group key
  match h with
  | .store pa d => s.storeNow g.core pa d false
  | .atomic pa r dst =>
    let bad := s.badWords pa r.bytes
    let x := s.atomicAt g.core pa r.bytes r.apply
    let g := x.1.group key
    x.1.setGroup key ({ g with busy := g.busy.filter fun b => !dst.regs.elem b }.put dst (leBytes r.bytes x.2) bad)

/-- The commit at the end of a quantum. -/
def commit (s : State) (key : Nat) : State :=
  let s := (s.group key).held.foldl (fun s h => s.performHeld key h) s
  let g := s.group key
  s.setGroup key { g with held := [], retired := 0, quanta := g.quanta + 1, commitWait := false }

-- ## What a CKPT or DONE of a tile releases (R33, R157, R168)

/-- One reply writes its registers, which are no longer reserved (R52). -/
def replyAt (s : State) (i : Nat) : State :=
  match nth? s.replies i with
  | none => s
  | some r =>
    let regs := r.writes.flatMap fun w => w.1.regs
    let g := s.group r.grp
    let s := { s with replies := dropNth s.replies i }
    if s.groups.any (·.1 == r.grp) then s.setGroup r.grp ({ g with busy := g.busy.filter fun b => !regs.elem b }.putAll r.writes) else s

/-- Every result of the issuing group that is on its way is written. -/
def finishResults (s : State) : State :=
  let key := s.cur.grp
  let s := (List.range s.replies.length).foldl (fun s _ =>
    match s.replies.findIdx? fun r => r.grp == key with | some i => s.replyAt i | none => s) s
  let s := (List.range s.cg.xfers.length).foldl (fun s _ => s.xferComplete 0) s
  s.modG xCompleteAll

/-- One entry of the store-withholding buffer leaves it. -/
def releaseEntry (s : State) (e : SwbEnt) : State :=
  match e with
  | .store pa d p _ _ =>
    if s.orderedHere then s.modG fun g => { g with held := g.held ++ [.store pa d] } else s.storeNow s.src pa d p
  | .atomic pa r _ dst =>
    match s.orderedHere, r with
    | true, .flt _ _ _ =>
      let x := s.holdAtomic 0 pa r dst
      x.1.modG fun g => g.putAll x.2
    | _, _ => s.performHeld s.cur.grp (.atomic pa r dst)
  | .boundary _ => s

/-- The deferred push is performed (R159). -/
def performPush (s : State) : State :=
  let t := s.cg.tile.dpush
  let s := s.modT fun t => { t with dpush := .none }
  match t with
  | .none => s
  | .spawn q r => s.pushAll q [r]
  | .spawng q r _ => s.pushAll q (spawnRecords r true)
  | .joinw va pa delta bind =>
    let s := s.joinStep s.reqHere (s.errHere 0x13) s.src va pa delta
    if bind then s.bindJoin va else s

/-- The pending GRLS of the interval are performed: each returned slot signals its producer (R295, R385). -/
def returnSlots (s : State) : State :=
  let r := s.cg.tile.ring
  let back := r.credits.take r.relpend
  let incs := (back.filter fun c => c.2 != 0).map fun c =>
    ({ ctx := c.1, va := c.2, src := srcOf (16 + quadrantOf s.die) 18, credit := true } : Inc)
  let s := s.modT fun t => { t with ring := { r with rel := (r.rel + r.relpend) % 2 ^ 32, relpend := 0, credits := r.credits.drop r.relpend } }
  { s with incs := s.incs ++ incs }

/-- Whether a value-returning atomic is withheld in ordered mode: the release is then an ordered commit (R218). -/
def swbCommits (s : State) : Bool :=
  s.orderedHere && s.cg.tile.swb.any fun e => match e with
    | .atomic _ (.flt _ _ _) _ _ => false
    | .atomic _ _ _ _ => true
    | _ => false

/-- What must hold before the release: room for the deferred push, and the turn of an ordered commit. -/
def releaseWaits (s : State) : Bool :=
  (match s.cg.tile.dpush with
   | .spawn q _ => !s.room q 1
   | .spawng q _ n => !s.room q n
   | _ => false)
  || (s.swbCommits && !s.commitAllowed s.cur.grp)

/-- The whole release: results, withheld stores and atomics in order, the deferred push, the deferred signals. -/
def tileRelease (s : State) : State :=
  let s := s.finishResults
  let s := if s.swbCommits then s.commit s.cur.grp else s
  let s := s.cg.tile.swb.foldl releaseEntry s
  let s := s.modG fun g => { g with withheld := [], tile := { g.tile with swb := [] } }
  s.performPush.sendMcsems.returnSlots

/-- The checkpoint image is taken at `pc` (R168). -/
def takeImage (s : State) (pc : Nat) : State :=
  s.modG fun g =>
    { g with tile := { g.tile with
        ck := g.r, ckpc := pc, ckPoison := g.poison, ckStreams := g.tile.streams, ckRing := g.tile.ring, ckMat := g.tile.mat
        ckXfm := g.xfm, ckExc := g.tile.exc, journal := [], semDelta := [], credit := [], arrivals := [], raised := false
        ring := { g.tile.ring with locked := false } } }

end State
end Sys2Proof.Machine
end

