-- ==== Sys2Proof/Machine/Control.lean ====
section
/-!
DEFINITION. The control engine's instructions (R147 to R172, R408 to R413); `stop` is the S bit of R51 and has no effect at run time
(R152).
-/
namespace Sys2Proof.Machine
namespace State

/-- A jump to a static target. -/
def jumpRel (s : State) (off : BitVec 19) : State := s.jump (s.relTarget off)

/-- The tile's own semaphore n changes by SEMSIG, SEMWAIT, SEMTRY: count and delta (R154, R169). -/
def addTileSem (s : State) (n : Nat) (d : Int) : State :=
  s.modT fun t => { t with semCount := Sparse.set 0 t.semCount n (wrapTo 32 ((Sparse.get 0 t.semCount n : Nat) + d))
                           semDelta := Sparse.set 0 t.semDelta n (Sparse.get 0 t.semDelta n + d) }

/-- A SEMSAT record of the issuing core (R154). -/
def semSatHere (s : State) (va n : Nat) : State := s.logErr { s.errHere 0x15 with vaddr := va, synd := 2 ^ 8 * n }

/-- SEMSIG on a word. -/
def sigWord (s : State) (va c : Nat) : State :=
  if s.fenceReady .gang then
    match s.reach va 4 6 (wordOp 4) with
    | .bad t => s.takeTrap t
    | .wait s => s
    | .ok s pa =>
      let x := (s.cleanFor pa 4).atomicAt s.src pa 4 fun o => some (min (o + c) 0xFFFFFFFF)
      if 0xFFFFFFFF < x.2 + c then x.1.semSatHere va 0 else x.1
  else s.stall

/-- The decrement of a word that suffices, else its old value: SEMWAIT and SEMTRY. -/
def takeWord (s : State) (pa c : Nat) : State × Bool :=
  let x := (s.cleanFor pa 4).atomicAt s.src pa 4 fun o => if c ≤ o then some (o - c) else none
  (x.1, decide (c ≤ x.2))

/-- A SEMWAIT parks on its word, keeping its place among the waiters (R154). -/
def parkSem (s : State) (pa : Nat) : State :=
  let since := (s.split.waits.findSome? fun w => match w with | .sem p t _ => if p = pa then some t else none | _ => none).getD s.cycle
  (s.modSplit fun x => { x with waits := [.sem pa since false] }).hold

/-- The governor's answer reaches kB, or its trap is taken (R409 to R414). -/
def govReply (s : State) (r : GovRes) (b : KReg) : State :=
  match r with
  | .trap c sub addr => s.takeTrap (mkTrap c sub 0 addr)
  | .word s w => s.setK b (BitVec.ofNat 64 w)

end State

open State

/-- NOP of slot 0 (R51). -/
def execNopSlot0 (_stop : Bool) (s : State) : Out := .next s
/-- NOP of slots 1 to 7 (R51). -/
def execNop (s : State) : Out := .next s
/-- BR (R149). -/
def execBr (_stop : Bool) (p : PReg) (off : BitVec 19) (s : State) : Out :=
  if p = 0 then .next (s.jumpRel off)
  else
    let mt := s.mask &&& s.p p.val
    let mn := s.mask - mt
    if mn = 0 then .next (s.jumpRel off)
    else if mt = 0 then .next s
    else .next (s.diverge (s.relTarget off) mt mn)
/-- BRC (R149). -/
def execBrc (_stop : Bool) (p : PReg) (c : BrCond) (off : BitVec 19) (s : State) : Out :=
  if brcond c s.mask (s.p p.val &&& s.mask) then .next (s.jumpRel off) else .next s
/-- BRX (R149, R75). -/
def execBrx (_stop : Bool) (a : KReg) (s : State) : Out :=
  let t := (s.k a).toNat
  match s.targetTrap t with
  | some x => .next (s.takeTrap x)
  | none => .next (s.jump t)
/-- CALL: k7 holds the return address (R149). -/
def execCall (_stop : Bool) (off : BitVec 19) (s : State) : Out :=
  .next ((s.setK 7 (BitVec.ofNat 64 s.nextPc)).jumpRel off)
/-- CALLX: kB holds the return address (R149). -/
def execCallx (_stop : Bool) (a b : KReg) (s : State) : Out :=
  let t := (s.k a).toNat
  match s.targetTrap t with
  | some x => .next (s.takeTrap x)
  | none => .next ((s.setK b (BitVec.ofNat 64 s.nextPc)).jump t)
/-- RET (R149). -/
def execRet (_stop : Bool) (a : KReg) (s : State) : Out :=
  let t := (s.k a).toNat
  match s.targetTrap t with
  | some x => .next (s.takeTrap x)
  | none => .next (s.jump t)
/-- MERGE: what R120 does, it does before the bundle issues (R151). -/
def execMerge (_stop : Bool) (s : State) : Out := .next s

/-- BARA (R153, R170). -/
def execBara (_stop : Bool) (n : Fin 8) (s : State) : Out :=
  let cr := Sparse.get 0 s.cg.tile.credit n.val
  if s.kind = .tensor ∧ cr ≠ 0 then .next (s.modT fun t => { t with credit := Sparse.set 0 t.credit n.val (cr - 1) })
  else if s.arrivalWaits n.val || !s.fenceReady .gang then .next s.stall
  else .next (s.arrive n.val)
/-- BARW: it waits while the flag is set, and a wait that ends performs a FENCE (R153). -/
def execBarw (_stop : Bool) (n : Fin 8) (s : State) : Out :=
  if bitOf s.cg.barFlags n.val then .next ((s.modSplit fun x => { x with barred := true }).hold)
  else if s.split.barred then
    if s.fenceReady .gang then
      let s := if s.kind = .tensor then s.modT fun t => { t with swb := t.swb ++ [.boundary .gang] } else s
      .next (s.modSplit fun x => { x with barred := false })
    else .next s.stall
  else .next s
/-- BAR: BARA, then BARW; a split whose group has arrived goes on when the phase is complete (R153). -/
def execBar (_stop : Bool) (n : Fin 8) (s : State) : Out :=
  let cr := Sparse.get 0 s.cg.tile.credit n.val
  if s.kind = .tensor ∧ cr ≠ 0 then
    if bitOf s.cg.barFlags n.val then .next s.stall
    else .next (s.modT fun t => { t with credit := Sparse.set 0 t.credit n.val (cr - 1) })
  else if s.arrivalWaits n.val || !s.fenceReady .gang then .next s.stall
  else
    let s := s.arrive n.val
    .next (if bitOf s.cg.barFlags n.val then s.modSplit fun x => { x with waits := x.waits ++ [.bar n.val] } else s)

/-- SEMSIG (R154). -/
def execSemsig (_stop : Bool) (a : KReg) (n : Fin 16) (c : Fin 256) (s : State) : Out :=
  match s.kind with
  | .tensor =>
    let old := Sparse.get 0 s.cg.tile.semCount n.val
    let new := min (old + c.val) 0xFFFFFFFF
    let s' := s.addTileSem n.val ((new : Int) - old)
    .next (if 0xFFFFFFFF < old + c.val then s'.semSatHere 0 n.val else s')
  | .shading => .next (s.sigWord (s.k a).toNat c.val)
/-- SEMWAIT (R154). -/
def execSemwait (_stop : Bool) (a : KReg) (n : Fin 16) (c : Fin 256) (s : State) : Out :=
  match s.kind with
  | .tensor => if c.val ≤ Sparse.get 0 s.cg.tile.semCount n.val then .next (s.addTileSem n.val (-(c.val : Int))) else .next s.stall
  | .shading =>
    match s.reach (s.k a).toNat 4 6 (wordOp 4) with
    | .bad t => .next (s.takeTrap t)
    | .wait s => .next s
    | .ok s pa =>
      if s.olderWaiter pa then .next (s.parkSem pa)
      else if s.anyPoisoned pa 4 then .next (s.takeTrap { mkTrap .machineCheck 0 0 (s.k a).toNat with paddr := pa })
      else match s.takeWord pa c.val with
        | (s, true) => .next (s.modSplit fun x => { x with waits := x.waits.filter fun w => match w with | .sem _ _ _ => false | _ => true })
        | (s, false) => .next (s.parkSem pa)
/-- SEMTRY (R154). -/
def execSemtry (_stop : Bool) (a b : KReg) (n : Fin 16) (c : Fin 256) (s : State) : Out :=
  match s.kind with
  | .tensor =>
    if c.val ≤ Sparse.get 0 s.cg.tile.semCount n.val then .next ((s.addTileSem n.val (-(c.val : Int))).setK b 1) else .next (s.setK b 0)
  | .shading =>
    match s.reach (s.k a).toNat 4 6 (wordOp 4) with
    | .bad t => .next (s.takeTrap t)
    | .wait s => .next s
    | .ok s pa =>
      if s.anyPoisoned pa 4 then .next (s.takeTrap { mkTrap .machineCheck 0 0 (s.k a).toNat with paddr := pa })
      else
        let x := s.takeWord pa c.val
        .next (x.1.setK b (if x.2 then 1 else 0))

/-- YIELD: the gang's quantum ends now (R158). -/
def execYield (_stop : Bool) (s : State) : Out := .next (s.setGg { s.gg with quantumEnd := s.sid })
/-- SPAWN (R155, R159). -/
def execSpawn (_stop : Bool) (a b : KReg) (s : State) : Out := .next (s.spawn a b false)
/-- SPAWNG (R155, R159). -/
def execSpawng (_stop : Bool) (a b : KReg) (s : State) : Out := .next (s.spawn a b true)
/-- DONE: on a tile, after the release that a CKPT makes (R157); beside a parked memory instruction, once that is performed. -/
def execDone (_stop : Bool) (s : State) : Out :=
  match s.kind with
  | .tensor => if s.releaseWaits then .next s.stall else .next s.tileRelease.endLanes
  | .shading =>
    if s.split.waits.any fun w => match w with | .mem _ => true | _ => false then
      .next (s.modSplit fun x => { x with waits := x.waits ++ [.ending] })
    else .next s.endLanes
/-- JOINW (R156, R159). -/
def execJoinw (_stop : Bool) (a b : KReg) (bind : Bool) (s : State) : Out :=
  let va := (s.k a).toNat
  let delta := (s.k b).toNat
  match s.kind with
  | .tensor =>
    if va % 64 ≠ 0 then .next (s.takeTrap (mkTrap .align 7 0 va))
    else match winXlate s.rg.tile.wins va 8 .rw with
      | .trap cls sub level reason => .next (s.takeTrap { mkTrap cls sub 0 va with synd := level + 16 * reason })
      | .ok pa _ _ =>
        if s.cg.tile.dpush ≠ .none then .next (s.takeTrap (illegal 4))
        else .next (s.modT fun t => { t with dpush := .joinw va pa delta bind })
      | .park _ _ | .start _ _ _ _ => .next s.stall
  | .shading =>
    if s.fenceReady .pkg then
      match s.reach va 64 7 (wordOp 8) with
      | .bad t => .next (s.takeTrap t)
      | .wait s => .next s
      | .ok s pa =>
        let s := (s.cleanFor pa 8).joinStep s.reqHere (s.errHere 0x13) s.src va pa delta
        .next (if bind then s.bindJoin va else s)
    else .next s.stall
/-- TIMEHINT (R158). -/
def execTimehint (_stop : Bool) (a : KReg) (s : State) : Out :=
  .next (s.setGg { s.gg with est := min (s.k a).toNat 0xFFFFFFFF, estAt := s.sid })

/-- TRAP: a SOFTWARE trap with its code (R166). -/
def execTrap (_stop : Bool) (c : Fin 256) (s : State) : Out := .next (s.takeTrap (mkTrap .software c.val 0 0))
/-- TRET (R166, R162). -/
def execTret (_stop : Bool) (s : State) : Out :=
  if s.split.tlev = false then .next (s.takeTrap (illegal 1))
  else if causeResumes s.split.tcause then .next s.returnFromTrap
  else .next (s.killHere (s.split.tcause % 256) 0x11 0)
/-- TMASK (R166). -/
def execTmask (_stop : Bool) (s : State) : Out := .next (s.modSplit fun x => { x with tmsk := true })
/-- TUNMASK (R166). -/
def execTunmask (_stop : Bool) (s : State) : Out := .next (s.modSplit fun x => { x with tmsk := false })
/-- CKPT: nothing on a shading core; on a tile the release and the new image (R168). -/
def execCkpt (_stop : Bool) (s : State) : Out :=
  match s.kind with
  | .shading => .next s
  | .tensor => if s.releaseWaits then .next s.stall else .next (s.tileRelease.takeImage s.nextPc)
/-- TIMERSET (R160). -/
def execTimerset (_stop : Bool) (a : KReg) (arm : Bool) (s : State) : Out :=
  .next (s.modR fun r => if arm then { r with tcmp := s.k a, arm := true } else { r with arm := false })
/-- SLEEP (R161). -/
def execSleep (_stop : Bool) (a : KReg) (s : State) : Out :=
  let til := (s.k a).toNat
  if til ≤ s.sid then .next s else .next (s.modSplit fun x => { x with waits := x.waits ++ [.sleep til] })
/-- HALT: the other slots take effect, and the gang is killed with a HALT record (R162, R166). -/
def execHalt (_stop : Bool) (c : Fin 256) (s : State) : Out := .next (s.killHere 0x0E 0x0E c.val)

/-- GOVARM (R409). -/
def execGovarm (_stop : Bool) (a b : KReg) (s : State) : Out :=
  .next (s.govReply (s.govArm s.cg.gang s.gg.ctx (s.k a).toNat s.sid s.orderedHere) b)
/-- GOVSTEP (R411). -/
def execGovstep (_stop : Bool) (a b : KReg) (s : State) : Out := .next (s.govReply (s.govStep s.cg.gang (s.k a).toNat s.sid) b)
/-- GOVQ (R413). -/
def execGovq (_stop : Bool) (a b : KReg) (n : Fin 8) (s : State) : Out :=
  .next (s.govReply (s.govQuery s.cg.gang (s.k a).toNat n.val) b)

/-- WINLD (R172, R272). -/
def execWinld (_stop : Bool) (a b : KReg) (s : State) : Out :=
  match s.kind with
  | .shading => .next (s.takeTrap (illegal 2))
  | .tensor =>
    match s.reach (s.k a).toNat 2048 8 (.load 2048 .none .none) with
    | .bad t => .next (s.takeTrap t)
    | .wait s => .next s
    | .ok s pa =>
      match s.winTable s.gg.ctx 0 (pieces 32 64 (s.dieBytes s.die pa 2048)) [] with
      | .ok l => .next ((s.modT fun t => { t with wins := l }).setK b 0)
      | .error (i, n) => .next (s.setK b (BitVec.ofNat 64 (i + 1 + 2 ^ 8 * n)))
/-- CSLD (R172, R377). -/
def execCsld (_stop : Bool) (a b : KReg) (s : State) : Out :=
  let va := (s.k a).toNat
  match s.kind with
  | .tensor => .next (s.takeTrap (illegal 2))
  | .shading =>
    if s.traceHere then .next s.stall
    else if va % 8192 ≠ 0 then .next (s.takeTrap (mkTrap .align 8 0 va))
    else match s.reach va 8192 8 (.load 8192 .none .none) with
      | .bad _ => .next (s.setK b 2)
      | .wait s => .next s
      | .ok s pa =>
        let l := (pieces 8 1024 (s.dieBytes s.die pa 8192)).map ofLE
        match l.findIdx? fun w => !microOk w with
        | some i => .next (s.setK b (BitVec.ofNat 64 (1 + 2 ^ 16 * i)))
        | none =>
          let c := s.cc
          let s := s.setCtx s.gg.ctx { c with store := some l }
          .next ({ s with coreStore := Sparse.insert s.coreStore s.src (s.gg.ctx + 1) }.setK b 0)
/-- PTINV: a FENCE at PKG scope, then the context's cached translations go (R172). -/
def execPtinv (_stop : Bool) (a : KReg) (n : InvSpan) (s : State) : Out :=
  if s.fenceReady .pkg then
    let s := if s.kind = .tensor then s.modT fun t => { t with swb := t.swb ++ [.boundary .pkg] } else s
    .next ((s.dropTlb s.gg.ctx n (s.k a).toNat).wakePage s.gg.ctx n (s.k a).toNat)
  else .next s.stall

end Sys2Proof.Machine
end

