-- ==== Sys2Proof/Machine/Place.lean ====
section
/-!
DEFINITION. Records and placement: image headers (R63), the checks of R110, free resources (R62, R115, R116), the window tables of a
tensor gang (R269), and the creation of a gang's groups (R92, R111).
-/
namespace Sys2Proof.Machine

def kindCode : CoreKind → Nat
  | .shading => 0 | .tensor => 1

/-- The header of an image, parsed (R63). -/
def parseImage (base : Nat) (h : List Byte) : Image :=
  { base := base
    kind := if recField h 0x06 1 = 0 then .shading else .tensor
    flags := recField h 0x07 1
    nv := recField h 0x08 1
    nk := recField h 0x09 1
    nt := recField h 0x0B 1
    na := recField h 0x0C 1
    ns := recField h 0x0D 1
    lat := (List.range 16).map fun i => recField h (0x10 + i) 1
    fmt := (List.range 4).map fun i => recField h (0x20 + 4 * i) 4
    entries := (List.range 8).map fun i => recField h (0x40 + 4 * i) 4
    codeOff := recField h 0x60 4
    codeLen := recField h 0x64 4
    winOff := recField h 0x70 4
    winCnt := recField h 0x74 2
    fused := bitOf (recField h 0x76 2) 0
    shape0 := recField h 0x78 1
    shape1 := recField h 0x79 1 }

/-- FLAGS of R64. -/
def imgFrag (i : Image) : Bool := bitOf i.flags 1
def imgKd (i : Image) : Bool := bitOf i.flags 2
def imgDw (i : Image) : Bool := bitOf i.flags 3
def imgDdir (i : Image) : Nat := fld i.flags 4 2

/-- Where a gang's groups go: (source number, group slot) of each, and the corner of a rectangle. -/
structure Place where
  cells : List (Nat × Nat)
  x0 : Nat
  y0 : Nat
  deriving DecidableEq, Repr

/-- Bytes of vector registers that a group needs (R62). -/
def groupBytes (i : Image) : Nat := 128 * i.nv + 4096 * i.nt
/-- Groups of a gang: GSHAPE0, or width times height (R63). -/
def gangSize (i : Image) : Nat := match i.kind with | .shading => i.shape0 | .tensor => i.shape0 * i.shape1

/-- Render dies and their cores, in the order of source numbers. -/
def allCores : List Nat := (List.range 8).flatMap fun d => (List.range 40).map fun u => srcOf d u

namespace State

/-- Bytes on sealed, resident, readable pages of a context. -/
def sealedBytes (s : State) (ctx va n : Nat) : Option (List Byte) :=
  if 2 ^ 52 < va + n then none
  else (run va n).mapM fun a => match s.walk ctx a with
    | .leaf _ e big =>
      let pa := leafPa e a big
      if leafR e && leafPres e && s.sealed_.elem (pageOf pa) then some (s.byteAt pa) else none
    | .bad _ _ _ => none

/-- The image whose header stands at an address (R110 check 2). -/
def imageAt (s : State) (ctx va : Nat) : Option Image :=
  if va % 65536 ≠ 0 then none
  else match s.sealedBytes ctx va 256 with
    | some h => if recField h 0 4 = 0x1F6A8E3D then some (parseImage va h) else none
    | none => none

-- ## Records (R105, R110)

/-- Record i of a queue's ring, when its page can be read. -/
def ringRecord (s : State) (q : Queue) (i : Nat) : Option (List Byte) :=
  s.unitRead { ctx := q.owner, die := 16, gang := none, depth := 0 } (q.ring + 64 * (i % 2 ^ q.logcap)) 64

def headRecord (s : State) (q : Queue) : Option (List Byte) := if q.head = q.tail then none else s.ringRecord q q.head

/-- Reserved bits of a record (R109). -/
def recReserved (r : List Byte) : Bool :=
  decide (16 ≤ recField r 0x0C 1) || decide (16 ≤ recField r 0x0D 1) || recField r 0x0E 2 != 0 || recField r 0x38 8 != 0

/-- Check 6 (R139). -/
def orderedOk (q : Queue) (r : List Byte) : Bool :=
  !orderedRec r
    || (decide (recGidx r < recGcount r)
      && (recGidx r == 0 || (recJobtag r == q.jobtag && recGcount r == q.gcount && recGidx r == q.nextGidx)))

/-- The first of checks 1 to 6 that a record fails (R110), and its image. -/
def checkRecord (s : State) (q : Queue) (r : List Byte) : Except Nat Image :=
  let kindBad := fun (k : CoreKind) => recKind r != kindCode k
  match s.imageAt q.owner (recImage r) with
  | none => .error (if kindBad q.kind then 1 else 2)
  | some i =>
    if kindBad q.kind || kindBad i.kind then .error 1
    else if 8 ≤ recEntry r ∨ i.entries.getD (recEntry r) 0xFFFFFFFF = 0xFFFFFFFF then .error 3
    else if recShape0 r ≠ i.shape0 ∨ recShape1 r ≠ i.shape1 then .error 4
    else if recReserved r then .error 5
    else if orderedOk q r then .ok i else .error 6

/-- Pop the head of a queue. -/
def popHead (s : State) (qn : Nat) (q : Queue) : State :=
  s.setQueue qn { q with head := (q.head + 1) % 2 ^ 32, waiting := q.waiting.drop 1 }

/-- A record fails a check: popped and discarded, with its RECORD record; a generator record ends its fill (R110, R395). -/
def discardHead (s : State) (qn : Nat) (q : Queue) (r : List Byte) (check synd : Nat) : State :=
  let s := s.popHead qn q
  let s := s.logErr { errBase (some q.owner) (schedSrc 0) 0x12 with
    sub := check, vaddr := recImage r, synd := synd, jobtag := recJobtag r, gidx := recGidx r }
  match (q.waiting.head?).bind (·.2) with
  | some (a, b) => s.failBlock a b 0x10
  | none => s

-- ## Free resources

/-- Groups that hold a core or tile now. -/
def residents (s : State) (src : Nat) : List Group :=
  (s.groups.filter fun x => x.2.core == src && resident (s.gang x.2.gang)).map (·.2)

/-- G free slots of a core with room for their registers (R115). -/
def coreSlots (s : State) (core : Nat) (i : Image) (n : Nat) : Option (List Nat) :=
  let mine := s.residents core
  let used := mine.foldl (fun a g => a + groupBytes (s.gang g.gang).image) 0
  let free := (List.range 48).filter fun k => mine.all fun g => g.slot != k
  let cl := clusterOf core
  if n ≤ free.length ∧ used + n * groupBytes i ≤ 393216
      ∧ (i.fused = false ∨ s.fusedClusters.elem cl = true ∨ s.clusterGangs cl = []) then
    some (free.take n)
  else none

/-- The first core of a list that takes a shading gang. -/
def placeShading (s : State) (i : Image) (cores : List Nat) : Option Place :=
  cores.findSome? fun c => (s.coreSlots c i i.shape0).map fun l => { cells := l.map fun k => (c, k), x0 := 0, y0 := 0 }

/-- The tiles of a rectangle, in %group order (R104). -/
def rectTiles (x0 y0 w h : Nat) : List Nat := (List.range (w * h)).map fun j => tileSrc (x0 + j % w) (y0 + j / w)

/-- The free rectangle of lowest y0, then lowest x0 (R116). -/
def placeTensor (s : State) (i : Image) (okAt : Nat → Nat → Bool) : Option Place :=
  let corners := (List.range (9 - i.shape1)).flatMap fun y => (List.range (17 - i.shape0)).map fun x => (x, y)
  match corners.find? fun c => okAt c.1 c.2 && (rectTiles c.1 c.2 i.shape0 i.shape1).all fun t => s.residents t == [] with
  | some c => some { cells := (rectTiles c.1 c.2 i.shape0 i.shape1).map fun t => (t, 0), x0 := c.1, y0 := c.2 }
  | none => none

/-- A place for a new gang of an image. -/
def placeNew (s : State) (i : Image) : Option Place :=
  match i.kind with
  | .shading => s.placeShading i allCores
  | .tensor => s.placeTensor i fun _ _ => true

-- ## Window requests (R269)

/-- The entries that a tensor image's requests give: PBASE from the leaf that maps VBASE. -/
def winEntries (s : State) (ctx : Nat) (i : Image) : Option (List (List Byte)) :=
  match s.sealedBytes ctx (i.base + i.winOff) (32 * i.winCnt) with
  | none => none
  | some b => some ((pieces 32 i.winCnt b).map fun e =>
      let va := recField e 0 8
      let pb := match s.walk ctx va with | .leaf _ l big => leafPa l va big | .bad _ _ _ => 0
      patch e 16 (leBytes 8 (if recField e 8 8 = 0 then 0 else pb)))

/-- The table of a tensor gang, or the index and reason of the refusal. -/
def winLoad (s : State) (ctx : Nat) (i : Image) : Except (Nat × Nat) (List Win) :=
  if i.winCnt = 0 then .ok []
  else match s.winEntries ctx i with
    | none => .error (0, 4)
    | some l => s.winTable ctx 0 l []

/-- A refusal after which the record stays at the head: reason 4 for pages that are only not resident, or reason 10. Answers such a
page. -/
def winRetry (s : State) (ctx : Nat) (i : Image) (idx reason : Nat) : Option Nat :=
  match s.winEntries ctx i with
  | none => none
  | some l =>
    let w := winOf (l.getD idx [])
    if reason = 10 then some w.vbase
    else if reason = 4 ∧ (s.winLeaves ctx w).all (fun x => match x.2 with | .leaf _ _ _ => true | .bad _ _ _ => false) then
      (s.winLeaves ctx w).findSome? fun x => match x.2 with
        | .leaf _ e _ => if leafPres e || leafProc e then none else some (w.vbase + x.1)
        | .bad _ _ _ => none
    else none

-- ## The first state of a group (R111)

/-- The registers of group `idx` of a gang whose record is `r`. -/
def firstRegs (i : Image) (r : List Byte) (idx seed : Nat) : Regs :=
  let put := fun (m : Sparse W64) (n x : Nat) => Sparse.set 0 m n (BitVec.ofNat 64 x)
  { Regs.zero with
      k := put (put (put (put [] 0 (recArg r)) 1 (recFrame r)) 2 (recGidx r)) 3 idx
      f := ((List.range 4).zip i.fmt).foldl (fun m x => Sparse.set 0 m x.1 (BitVec.ofNat 32 x.2)) []
      srseed := BitVec.ofNat 64 seed
      lfsr := (List.range i.kind.vl).map fun l => (l, seedLane seed (recGidx r) idx l) }

/-- A group at its first bundle. -/
def firstGroup (s : State) (n : Nat) (i : Image) (r : List Byte) (wins : List Win) (idx core slot : Nat) : Group :=
  let regs := firstRegs i r idx (if orderedRec r then recArg r else s.sid)
  let pc := i.base + i.entries.getD (recEntry r) 0
  { Group.zero with
      gang := n, idx := idx, kind := i.kind, core := core, slot := slot, r := regs, since := s.cycle
      splits := [(0, { Split.zero with pc := pc, mask := 2 ^ i.kind.vl - 1, age := s.cycle })]
      tile := { Tile.zero with ck := regs, ckpc := pc, wins := wins } }

/-- Fusing a cluster for a gang that asks for it (R191): the L1s give up what they hold. -/
def fuseFor (s : State) (i : Image) (core : Nat) : State :=
  let cl := clusterOf core
  if i.fused && !s.fusedClusters.elem cl then
    let s := ((List.range 40).filter fun u => u / 4 == cl % 16).foldl (fun s u => s.flushToL2 (srcOf (dieOf core) u) (dieOf core)) s
    { s with fusedClusters := s.fusedClusters ++ [cl] }
  else s

/-- A gang takes its place and its groups stand before their first bundles. -/
def startGang (s : State) (ctx qn : Nat) (i : Image) (r : List Byte) (fill : Option (Nat × Nat)) (wins : List Win) (pl : Place) : State :=
  let n := s.nextGang
  let core := (pl.cells.headD (0, 0)).1
  let s := match i.kind with | .shading => s.fuseFor i core | .tensor => s
  let depth := match fill with | some (a, b) => (match s.inflightOf a b with | some f => f.depth | none => 0) | none => 0
  let g : Gang :=
    { Gang.zero with
        ctx := ctx, queue := qn, rec_ := r, image := i, ngroups := pl.cells.length, core := core, x0 := pl.x0, y0 := pl.y0
        alive := pl.cells.length, est := recEst r, estAt := s.sid, dispatched := s.sid, quantumEnd := s.sid + s.quantum
        depth := depth, fillOf := fill }
  let s := { s.setGang n g with nextGang := n + 1 }
  let s := match fill with
    | some (a, b) => { s with inflight := s.inflight.map fun f => if f.range == a && f.blk == b then { f with gang := some n } else f }
    | none => s
  (pl.cells.zipIdx).foldl (fun s x => s.setGroup (groupKey n x.2) (s.firstGroup n i r wins x.2 x.1.1 x.1.2)) s

end State
end Sys2Proof.Machine
end

