-- ==== Sys2Proof/Machine/SceneOps.lean ====
section
/-!
DEFINITION. What the scene instructions share: F32 operations in the order written (R361, R364, R372, R376), paged reads of the scene
engine (R357, R198), parking with captured operands, and the accesses of units that act for a context (R370, R385).
-/
namespace Sys2Proof.Machine

-- ## F32 on codes

def fadd (m : RM) (a b : Nat) : Nat := encode f32 (.det m) (Val.add (isRdn m) (f32.decode a) (f32.decode b))
def fsub (m : RM) (a b : Nat) : Nat := encode f32 (.det m) (Val.add (isRdn m) (f32.decode a) (f32.decode b).neg)
def fmul (m : RM) (a b : Nat) : Nat := encode f32 (.det m) (Val.mul (f32.decode a) (f32.decode b))
def fdiv (m : RM) (a b : Nat) : Nat := encode f32 (.det m) (Val.div (f32.decode a) (f32.decode b))
/-- fma(a, b, c) = a × b + c, rounded once. -/
def ffma (m : RM) (a b c : Nat) : Nat :=
  encode f32 (.det m) (Val.add (isRdn m) (Val.mul (f32.decode a) (f32.decode b)) (f32.decode c))
def fneg (a : Nat) : Nat := if a < 2 ^ 31 then a + 2 ^ 31 else a - 2 ^ 31
def fabs (a : Nat) : Nat := a % 2 ^ 31
def fisNan (a : Nat) : Bool := f32.decode a == .nan
/-- a < b and a ≤ b as numbers; false on a NaN. -/
def flt (a b : Nat) : Bool := Val.lt false (f32.decode a) (f32.decode b)
def fle (a b : Nat) : Bool := !fisNan a && !fisNan b && !flt b a
def feq (a b : Nat) : Bool := fle a b && fle b a
def fmax2 (a b : Nat) : Nat := Val.maxCode f32 a b
/-- An integer as F32 (RNE). -/
def fint (x : Int) : Nat := encode f32 (.det .rne) (ofInt x)
/-- An F32 rounded to an integer; an infinity gives an integer above every use here, a NaN 0 (R80). -/
def fround (m : RM) (a : Nat) : Int :=
  match f32.decode a with
  | .nan => 0
  | .inf neg => if neg then -(2 ^ 200) else 2 ^ 200
  | .fin neg x e => let n : Int := (roundAt (.det m) neg x e 0 : Nat); if neg then -n else n
/-- √ of a code. -/
def sqrtVal : Val → Val
  | .nan => .nan
  | .inf true => .nan
  | .inf false => .inf false
  | .fin neg m e =>
    if m = 0 then .fin neg 0 e
    else if neg then .nan
    else
      let odd := e % 2 ≠ 0
      let m' := if odd then 2 * m else m
      let e' := if odd then e - 1 else e
      let x := m' * 2 ^ 128
      let r := isqrt x
      .fin false (2 * r + bit (r * r != x)) (e' / 2 - 64 - 1)
def fsqrt (m : RM) (a : Nat) : Nat := encode f32 (.det m) (sqrtVal (f32.decode a))
def fone : Nat := 0x3F800000
def fhalf : Nat := 0x3F000000
def finf : Nat := 0x7F800000

/-- What a read of the scene engine gives (R357): a trap, the pages it waits for with the state that records it, or bytes. -/
inductive SRead
  | trap (t : Trap)
  | park (s : State) (why : List (Nat × ParkWhy))
  | bytes (s : State) (b : List Byte)

/-- What an access of a unit for a context meets (R385): the walk fails or permission lacks, it waits, or a physical address. -/
inductive UnitRes
  | bad (cls : TrapClass) (sub level reason : Nat)
  | wait (s : State)
  | ok (s : State) (pa : Nat)

/-- A run cut at 64-byte lines. -/
def lineCuts (va n : Nat) : List (Nat × Nat) :=
  (State.linesOf va n).map fun l => (max va l, min (va + n) (l + 64) - max va l)

namespace State

-- ## Reads of the issuing split

/-- The accesses of reads of runs (address, bytes) for a lane. -/
def readAccs (lane : Nat) (h : Hint) (l : List (Nat × Nat)) : List Access :=
  l.map fun x => { lane := lane, va := x.1, op := .load x.2 h .none }

/-- Reads, all or none; `lane` is the lowest lane concerned. A poisoned byte that the engine consumes is a MACHINE_CHECK (R25). -/
def sceneRead (s : State) (lane : Nat) (h : Hint) (l : List (Nat × Nat)) : SRead :=
  let accs := readAccs lane h l
  match s.firstTrap accs with
  | some t => .trap t
  | none =>
    let p := s.shadePass accs
    if p.rest != [] then .park p.s (p.rest.map (·.2))
    else if p.got.any fun g => g.2.2 != [] then .trap (mkTrap .machineCheck 0 lane (l.headD (0, 0)).1)
    else .bytes p.s (p.got.flatMap fun g => g.2.1)

/-- The trap of a scene instruction of the bundle at `pc`. -/
def sceneTrap (s : State) (pc : Nat) (t : Trap) : State :=
  State.takeTrap { s.modSplit (fun x => { x with pc := pc }) with cur := { s.cur with slot := 6 } } t

/-- The split parks with the captured operands of the lanes that are not finished, each with what it waits for; `prev` are the waits of
the pass before. -/
def sceneWait (s : State) (pc : Nat) (i : Instr) (caps : List (Access × Nat × ParkWhy)) (prev : List (Nat × ParkWhy)) (since : Nat) : State :=
  let s := s.unwait 6
  if caps = [] then s
  else
    let why := caps.map (·.2)
    let r : Replay :=
      { pc := pc, slot := 6, todo := caps.map (·.1), tile := none, rows := [], why := why, since := since, instr := some i, woken := false }
    why.foldl (fun s w => s.parkEffect (prev.elem w) w.1 w.2) (s.modSplit fun x => { x with waits := x.waits ++ [.mem r] })

/-- A lane's captured operands: words, and the address operand kB. -/
def capture (lane base : Nat) (ws : List Nat) : Access :=
  { lane := lane, va := base, op := .store (ws.flatMap (leBytes 4)) false false none }
def capWords (a : Access) : List Nat :=
  match a.op with
  | .store d _ _ _ => (List.range (d.length / 4)).map fun i => recField d (4 * i) 4
  | _ => []

/-- A word for one lane of a v register. -/
def laneWord (d lane x : Nat) : LoadDst × List Byte × List Nat := (.lane d lane false false, leBytes 4 x, [])

/-- The lowest active lane, for a descriptor that every lane shares. -/
def firstLane (l : List Access) : Nat := match l with | a :: _ => a.lane | [] => 0

-- ## Accesses of units

/-- What a wait on a page does for a unit: a SERVICE record once while the page is absent, a copy, or a fill (R261, R263, R264). -/
def unitPark (s : State) (q : Req) (src page : Nat) (why : ParkWhy) : State :=
  match why with
  | .notResident => s.noteService q src page
  | .cow =>
    let c := s.ctx q.ctx
    let quiet := c.serviced.elem page
    let s := s.startCow q src page quiet
    if quiet || s.moving q.ctx page then s else s.setCtx q.ctx { c with serviced := page :: c.serviced }
  | .block r b => s.startFill r b (q.depth + 1)
  | .migrating | .staging => s

/-- One access of a unit in the paged regime of a context. -/
def unitReach (s : State) (q : Req) (src va : Nat) (need : Need) : UnitRes :=
  let s := match s.xlate q va need with
    | .start page at_ e big => (s.startMigration q src page at_ e big).1
    | _ => s
  match s.xlate q va need with
  | .trap cls sub level reason => .bad cls sub level reason
  | .park page why => .wait (s.unitPark q src page why)
  | .ok pa _ blk =>
    let s := s.noteAccess (quadrantOf q.die) pa
    .ok (match blk with | some (r, b) => s.useBlock r b (need != .r && need != .x) | none => s) pa
  | .start _ _ e big => .ok s (leafPa e va big)

/-- A saturating addition of 1 to a word that a unit reaches for a context (R154, R370, R385). -/
def unitIncrement (s : State) (ctx src va pa : Nat) : State :=
  let x := s.atomicAt src pa 4 fun o => some (min (o + 1) 0xFFFFFFFF)
  if x.2 = 0xFFFFFFFF then x.1.semSat ctx src va 0 else x.1

/-- One DONECNT or CREDIT increment (R370, R385): it waits behind earlier increments of the word, waits for its page, is skipped with a
record, or is made. -/
def tryIncrement (s : State) (idx : Nat) (credit : Bool) : State :=
  match nth? s.incs idx with
  | none => s
  | some x =>
    if x.credit != credit || (s.incs.take idx).any (fun y => y.ctx == x.ctx && y.va == x.va) then s
    else
      let q : Req := { ctx := x.ctx, die := dieOf x.src, gang := none, depth := 0 }
      match s.unitReach q x.src x.va .rw with
      | .wait s => s
      | .bad cls sub level reason =>
        { s.logErr { errBase (some x.ctx) x.src cls.code with sub := sub, vaddr := x.va, synd := level + 16 * reason } with
            incs := dropNth s.incs idx }
      | .ok s pa => { s.unitIncrement x.ctx x.src x.va pa with incs := dropNth s.incs idx }

end State
end Sys2Proof.Machine
end

