-- ==== Sys2Proof/Machine/Ray.lean ====
section
/-!
DEFINITION. Rays (R375 to R377): the intersection sequencer and its microwords, HIT, and TRACE, TACC, TQRY and the run of a traversal.
-/
namespace Sys2Proof.Machine

/-- A candidate: t, barycentrics, primitive index and sub (R375). -/
structure Cand where
  t : Nat
  bu : Nat
  bv : Nat
  prim : Nat
  sub : Nat
  deriving DecidableEq, Repr

/-- How a run of the sequencer stands. -/
inductive SeqSt
  | running | ended | abandoned
  | trapped (t : Trap)
  | parked (why : ParkWhy) (page : Nat)

/-- The sequencer while it runs for one lane (R376). -/
structure Seq where
  s : State
  st : SeqSt
  pc : Nat
  q : List Nat
  g : List Nat
  nb : List Nat
  flag : Bool
  stack : List Nat
  best : Option Cand
  fetches : Nat

/-- What stays the same during a run: the lane, BASE, the ray, the mode, and the key of a TACC. -/
structure RayJob where
  lane : Nat
  base : Nat
  ray : List Nat
  any : Bool
  step : Bool
  after : Option (Nat × Nat × Nat)

/-- Order of keys (t, primitive index, sub) (R375). -/
def keyLt (a b : Nat × Nat × Nat) : Bool :=
  flt a.1 b.1 || (feq a.1 b.1 && (decide (a.2.1 < b.2.1) || (a.2.1 == b.2.1 && decide (a.2.2 < b.2.2))))
def candKey (c : Cand) : Nat × Nat × Nat := (c.t, c.prim, c.sub)

/-- Whether a candidate counts. -/
def accepts (j : RayJob) (c : Cand) : Bool :=
  fle (j.ray.getD 6 0) c.t && fle c.t (j.ray.getD 7 0)
    && (match j.after with | none => true | some k => keyLt k (candKey c))

/-- Whether a ray misses without a traversal. -/
def missesAtOnce (j : RayJob) : Bool :=
  j.ray.any fisNan || flt (j.ray.getD 7 0) (j.ray.getD 6 0) || ((j.ray.drop 3).take 3).all (fun x => x % 2 ^ 31 == 0)

/-- The rounding mode of a microword. -/
def rmOf (n : Nat) : RM := match n with | 0 => .rne | 1 => .rtz | 2 => .rdn | _ => .rup

/-- HIT (R376). -/
def seqHit (j : RayJob) (x : Seq) (c : Cand) : Seq :=
  if accepts j c then
    let x := { x with best := match x.best with | some b => if keyLt (candKey c) (candKey b) then some c else some b | none => some c }
    let x := if j.step then x else { x with q := setNth x.q 7 c.t }
    if j.any then { x with st := .ended } else x
  else x

/-- FETCH (R376, R222): the node, in one access. -/
def seqFetch (j : RayJob) (x : Seq) (n : Nat) : Seq :=
  if x.fetches = 65536 then { x with st := .abandoned }
  else
    match x.s.sceneRead j.lane .none [((j.base + 128 * fld n 0 27) % 2 ^ 64, 128)] with
    | .trap t => { x with st := .trapped t }
    | .park s why => { x with s := s, st := .parked (why.headD (0, .notResident)).2 (why.headD (0, .notResident)).1 }
    | .bytes s b => { x with s := s, nb := (List.range 32).map (fun i => recField b (4 * i) 4), fetches := x.fetches + 1 }

/-- One microword (R376). -/
def seqWord (j : RayJob) (x : Seq) (w : Nat) : Seq :=
  let m := rmOf (fld w 56 2)
  let d := fld w 52 4
  let a := fld w 48 4
  let b := fld w 44 4
  let c := fld w 40 4
  let imm := fld w 0 32
  let qa := x.q.getD a 0
  let qb := x.q.getD b 0
  let qc := x.q.getD c 0
  let ga := x.g.getD a 0
  let gb := x.g.getD b 0
  let x := { x with pc := x.pc + 1 }
  let setQ := fun v => { x with q := setNth x.q d v }
  let setG := fun v => { x with g := setNth x.g d v }
  let word := x.nb.getD ((ga + imm) % 32) 0
  match fld w 58 6 with
  | 0x01 => setQ (fadd m qa qb)
  | 0x02 => setQ (fsub m qa qb)
  | 0x03 => setQ (fmul m qa qb)
  | 0x04 => setQ (ffma m qa qb qc)
  | 0x05 => setQ (fdiv m qa qb)
  | 0x06 => setQ (fsqrt m qa)
  | 0x07 => setQ (Val.minCode f32 qa qb)
  | 0x08 => setQ (Val.maxCode f32 qa qb)
  | 0x09 => setQ (fneg qa)
  | 0x0A => setQ (fabs qa)
  | 0x1F => setQ qa
  | 0x0B => setQ word
  | 0x0C => setG word
  | 0x0D => setG imm
  | 0x0E => setQ imm
  | 0x0F => setG ((ga + gb + imm) % 2 ^ 32)
  | 0x10 => setG (ga &&& imm)
  | 0x11 => setG (ga / 2 ^ fld imm 0 5)
  | 0x12 => { x with flag := match c with | 0 => flt qa qb | 1 => fle qa qb | 2 => feq qa qb | _ => fisNan qa || fisNan qb }
  | 0x13 => { x with flag := match c with | 0 => decide (ga < gb) | 1 => decide (ga ≤ gb) | 2 => ga == gb | _ => ga != gb }
  | 0x14 => seqFetch j x ga
  | 0x15 => if 32 ≤ x.stack.length then { x with st := .abandoned } else { x with stack := ga :: x.stack }
  | 0x16 => match x.stack with
    | t :: r => { x with stack := r, flag := true, g := setNth x.g d t }
    | [] => { x with flag := false }
  | 0x17 => { x with pc := fld imm 0 10 }
  | 0x18 => if x.flag then { x with pc := fld imm 0 10 } else x
  | 0x19 => if x.flag then x else { x with pc := fld imm 0 10 }
  | 0x1A => seqHit j x { t := qa, bu := qb, bv := qc, prim := x.g.getD d 0, sub := x.g.getD (d + 1) 0 }
  | 0x1B => { x with st := .ended }
  | 0x1C => setG (wrapTo 32 (toInt 32 true (.det m) (f32.decode qa)))
  | 0x1D => setQ (encode f32 (.det m) (ofInt (signedOf 32 ga)))
  | 0x1E => { x with flag := bitOf word (gb % 32) }
  | _ => x

/-- Microwords until the run ends; the last unit of `fuel` is the word that abandons it. -/
def seqRun (j : RayJob) (prog : List Nat) : Nat → Seq → Seq
  | 0, x => { x with st := .abandoned }
  | fuel + 1, x =>
    match x.st with
    | .running => match nth? prog x.pc with
      | some w => seqRun j prog fuel (seqWord j x w)
      | none => { x with st := .abandoned }
    | _ => x

/-- The run of one lane from its first state. -/
def traceLane (s : State) (prog : List Nat) (j : RayJob) : Seq :=
  let x : Seq :=
    { s := s, st := .running, pc := 0, q := j.ray ++ List.replicate 8 0, g := List.replicate 16 0, nb := List.replicate 32 0
      flag := false, stack := [], best := none, fetches := 0 }
  if missesAtOnce j then { x with st := .ended } else seqRun j prog (2 ^ 20 - 1) x

/-- The result group (R375). -/
def rayWords (x : Seq) : List Nat :=
  match x.st, x.best with
  | .ended, some c => [c.t, c.prim, c.sub, c.bu, c.bv]
  | .ended, none => [finf, 0xFFFFFFFF, 0, 0, 0]
  | _, _ => [finf, 0xFFFFFFFE, 0, 0, 0]

/-- What one pass over the lanes gives. -/
structure RayPass where
  s : State
  got : List (LoadDst × List Byte × List Nat)
  tq : List (Nat × Nat)
  rest : List (Access × Nat × ParkWhy)
  trap : Option Trap

namespace State

/-- Issue of TRACE or TACC: the split waits with its captured rays until a run of the sequencer (R375 to R377). -/
def rayIssue (s : State) (i : Instr) (p : LPred) (d a : VReg) (b : KReg) (acc : Bool) : State :=
  let base := (s.k b).toNat
  let ls := s.lanes p
  if s.cc.store = none then s.takeTrap { illegal 15 with lane := ls.headD 0 }
  else if base % 128 ≠ 0 then s.takeTrap (mkTrap .align 1 (ls.headD 0) base)
  else if ls = [] then s
  else
    let r := fun (n j : Nat) => (s.v n j).toNat
    let caps := ls.map fun l =>
      capture l base ((List.range 8).map (fun k => r (a + k) l) ++ if acc then [r d l, r (d + 1) l, r (d + 2) l] else [])
    let w : Replay :=
      { pc := s.pc, slot := 6, todo := caps, tile := none, rows := [], why := caps.map fun _ => (0, .notResident), since := s.sid
        instr := some i, woken := true }
    (s.nextSeq).modSplit fun x => { x with waits := x.waits ++ [.mem w] }

/-- One lane of a run. -/
def rayLane (prog : List Nat) (any step acc : Bool) (d : Nat) (p : RayPass) (c : Access) : RayPass :=
  let ws := capWords c
  let key := (ws.getD 8 0, ws.getD 9 0, ws.getD 10 0)
  let j : RayJob :=
    { lane := c.lane, base := c.va, ray := ws.take 8, any := any, step := step, after := if acc then some key else none }
  let done := fun (x : Seq) =>
    { p with s := x.s, got := p.got ++ ((rayWords x).zipIdx).map (fun y => laneWord (d + y.2) c.lane y.1),
             tq := p.tq ++ [(c.lane, min x.fetches 0xFFFF)] }
  if acc && decide (0xFFFFFFFE ≤ key.2.1) then done (traceLane p.s [] { j with ray := List.replicate 8 0 })
  else
    let x := traceLane p.s prog j
    match x.st with
    | .trapped t => { p with trap := match p.trap with | some y => some y | none => some t }
    | .parked why page => { p with s := x.s, rest := p.rest ++ [(c, page, why)] }
    | _ => done x

/-- The run of a waiting traversal (R376): results of the lanes done, and a wait for the others. TQRY's count of primitive tests is a
free value: the spec does not say which microwords count (log entry 15). -/
def rayRun (s : State) (r : Replay) (i : Instr) (any step acc : Bool) (d : Nat) : State :=
  match s.cc.store with
  | none => s
  | some prog =>
    let s := { s with coreStore := Sparse.insert s.coreStore s.src (s.gg.ctx + 1) }
    let p := r.todo.foldl (rayLane prog any step acc d) { s := s, got := [], tq := [], rest := [], trap := none }
    match p.trap with
    | some t => s.sceneTrap r.pc t
    | none =>
      let tests := fun l => (Config.freeValue (s.free + l)).toNat % 65536
      let s := (p.s.deliver p.got).modScene fun c =>
        { c with tqry := p.tq.foldl (fun m x => Sparse.set 0 m x.1 (BitVec.ofNat 32 (x.2 + 65536 * tests x.1))) c.tqry }
      State.sceneWait { s with free := s.free + 32 } r.pc i p.rest r.why r.since

/-- The traversal that a split waits for. -/
def rayWait (s : State) : Option Replay :=
  s.split.waits.findSome? fun w => match w with
    | .mem r => (match r.instr with | some (.trace _ _ _ _ _) | some (.tacc _ _ _ _) => some r | _ => none)
    | _ => none

/-- The issuing context of an event that acts for a split. -/
def asSplit (s : State) (grp split : Nat) : State :=
  { s with cur := { grp := grp, split := split, slot := 0, view := none, status := .ran, jumped := false } }

/-- Whether a group of a resident gang holds a split of this number. -/
def hasSplit (s : State) (grp split : Nat) : Bool :=
  (s.groups.any fun x => x.1 == grp && x.2.splits.any fun y => y.1 == split) && resident (s.gang (s.group grp).gang)

end State
open State

/-- TRACE (R375). -/
def execTrace (m : TraceMode) (p : LPred) (d a : VReg) (b : KReg) (s : State) : Out := .next (s.rayIssue (.trace m p d a b) p d a b false)
/-- TACC (R375). -/
def execTacc (p : LPred) (d a : VReg) (b : KReg) (s : State) : Out := .next (s.rayIssue (.tacc p d a b) p d a b true)
/-- TQRY (R375). -/
def execTqry (p : LPred) (d : VReg) (s : State) : Out := .next (s.setLanes d (s.lanes p) fun l => Sparse.get 0 s.rg.scene.tqry l)

/-- The intersection sequencer runs for the waiting lanes of a split (R376, R377). -/
def execIntersectionRun (grp split : Nat) (s : State) : Out :=
  if s.hasSplit grp split then
    let t := s.asSplit grp split
    match t.rayWait with
    | some r => if r.woken = false then .next s else match r.instr with
      | some (.trace m p d a b) => .next (t.rayRun r (.trace m p d a b) (m == .any) (m == .step) false d.val).settleEnding
      | some (.tacc p d a b) => .next (t.rayRun r (.tacc p d a b) false false true d.val).settleEnding
      | _ => .next s
    | none => .next s
  else .next s

end Sys2Proof.Machine
end

