-- ==== Sys2Proof/Machine/Guide.lean ====
section
/-!
DEFINITION. Guide export (R291 to R293, R382 to R385): the staging pool of a render die, its export port and the guide bridge; GBIND, GEXP
and GFLUSH.
-/
namespace Sys2Proof.Machine

/-- The pixel of a staging tile before any GEXP (R382). -/
def blankPixel : List Byte := leBytes 4 0 ++ leBytes 4 finf ++ leBytes 8 0

-- ## The guide-target descriptor (R382)

def gtW (b : List Byte) : Nat := recField b 0 2
def gtH (b : List Byte) : Nat := recField b 2 2
def gtX (b : List Byte) : Nat := recField b 4 2
def gtY (b : List Byte) : Nat := recField b 6 2
def gtDests (b : List Byte) : Nat := recField b 8 1
def gtDest (b : List Byte) (i : Nat) : Nat := recField b (0x10 + 2 * i) 2
def gtCredit (b : List Byte) : Nat := recField b 0x20 8
def destTile (d : Nat) : Nat := tileSrc (fld d 0 4) (fld d 4 3)

def gtFieldsOk (b : List Byte) : Bool :=
  decide (1 ≤ gtW b) && decide (gtW b ≤ 256) && decide (1 ≤ gtH b) && decide (gtH b ≤ 256) && decide (gtX b ≤ 32767)
    && decide (gtY b ≤ 32767) && decide (1 ≤ gtDests b) && decide (gtDests b ≤ 8) && recField b 9 7 == 0
    && (List.range 8).all (fun i => decide (gtDest b i < 128)) && recField b 0x28 24 == 0

/-- The tile index and the pixel within the tile of a pixel of the package's image plane, if the target holds it. -/
def gtPixel (b : List Byte) (x y : Nat) : Option (Nat × Nat) :=
  if gtX b ≤ x ∧ x < gtX b + 16 * gtW b ∧ gtY b ≤ y ∧ y < gtY b + 16 * gtH b then
    let i := x - gtX b
    let j := y - gtY b
    some (j / 16 * gtW b + i / 16, 16 * (j % 16) + i % 16)
  else none

/-- One guide record on its way to staging: its target, tile and pixel. -/
structure GWrite where
  lane : Nat
  at_ : Nat
  idx : Nat
  px : Nat
  data : List Byte

namespace State

-- ## Descriptors of uniform instructions (R357)

/-- Reading a descriptor: its alignment, its read, its fields, then the alignment of its address fields; `done` latches it. -/
def descRun (s : State) (i : Instr) (pc va n : Nat) (fieldsOk : List Byte → Bool) (aligned : List Byte → List (Nat × Nat))
    (prev : List (Nat × ParkWhy)) (since : Nat) (done : State → List Byte → State) : State :=
  if va % 64 ≠ 0 then s.sceneTrap pc (mkTrap .align 1 0 va)
  else match s.sceneRead 0 .none (lineCuts va n) with
    | .trap t => s.sceneTrap pc t
    | .park s' why => s'.sceneWait pc i [(capture 0 va [], why.headD (0, .notResident))] prev since
    | .bytes s' b =>
      if !fieldsOk b then s'.sceneTrap pc (illegal 17)
      else match (aligned b).find? fun x => x.1 % x.2 != 0 with
        | some x => s'.sceneTrap pc (mkTrap .align 1 0 x.1)
        | none => done (s'.unwait 6) b

-- ## Staging (R382, R383)

def isStaged (die ctx at_ idx : Nat) (t : Staged) : Bool := t.die == die && t.ctx == ctx && t.at_ == at_ && t.idx == idx
def stagedFree (s : State) (die : Nat) : Nat := 1024 - (s.staged.filter fun t => t.die == die).length

/-- One record reaches its staging tile, which is taken from the pool if need be. -/
def stagePixel (s : State) (die ctx : Nat) (w : GWrite) : State :=
  if s.staged.any (isStaged die ctx w.at_ w.idx) then
    { s with staged := s.staged.map fun t =>
        if isStaged die ctx w.at_ w.idx t then { t with px := Sparse.insert t.px w.px w.data } else t }
  else { s with staged := s.staged ++ [{ die := die, ctx := ctx, at_ := w.at_, idx := w.idx, px := [(w.px, w.data)] }] }

/-- New tiles that a list of records needs. -/
def newTiles (s : State) (die ctx : Nat) : List GWrite → List (Nat × Nat) → List (Nat × Nat)
  | [], acc => acc
  | w :: r, acc =>
    if s.staged.any (isStaged die ctx w.at_ w.idx) || acc.elem (w.at_, w.idx) then s.newTiles die ctx r acc
    else s.newTiles die ctx r ((w.at_, w.idx) :: acc)

/-- Whether a GFLUSH of another group has named a tile and not placed it (R385). -/
def flushNames (s : State) (die ctx grp : Nat) (w : GWrite) : Bool :=
  s.flushes.any fun f => f.die == die && f.ctx == ctx && f.grp != grp && f.at_ == w.at_ && decide (f.next ≤ w.idx)
    && decide (w.idx < f.stop)

/-- GEXP of a non-fragment image over captured lanes: words xy and the record, then the descriptor. -/
def gexpWrite (c : Access) : Option GWrite :=
  match c.op with
  | .store d _ _ _ =>
    let xy := recField d 0 4
    (gtPixel (d.drop 20) (fld xy 0 16) (fld xy 16 16)).map fun p =>
      { lane := c.lane, at_ := c.va, idx := p.1, px := p.2, data := (d.drop 4).take 16 }
  | _ => none

/-- One pass over captured lanes: all of them, or those that need no new tile while the others park (R383). -/
def gexpRun (s : State) (i : Instr) (pc : Nat) (caps : List Access) (since : Nat) : State :=
  let die := s.die
  let ctx := s.gg.ctx
  let ws := caps.filterMap gexpWrite
  if ws.any (s.flushNames die ctx s.cur.grp) then s.stall
  else if (s.newTiles die ctx ws []).length ≤ s.stagedFree die then
    State.sceneWait (ws.foldl (fun s w => s.stagePixel die ctx w) s) pc i [] [] since
  else
    let has := fun (w : GWrite) => s.staged.any (isStaged die ctx w.at_ w.idx)
    let rest := caps.filter fun c => match gexpWrite c with | some w => !has w | none => false
    State.sceneWait ((ws.filter has).foldl (fun s w => s.stagePixel die ctx w) s) pc i
      (rest.map fun c => (c, 0, .staging)) [] since

/-- The record of a lane. -/
def gexpData (s : State) (a : VReg) (l : Nat) : List Byte := (List.range 4).flatMap fun k => leBytes 4 (s.v (a + k) l).toNat

/-- The fragment group that runs in the issuing group. -/
def myFrag (s : State) : Option (Nat × FragGroup) :=
  match s.rg.scene.frag with
  | some n => s.frags.find? (·.1 == n)
  | none => none

/-- Change the quads of the issuing group's fragments. -/
def modQuads (s : State) (f : Nat → Quad → Quad) : State :=
  match s.myFrag with
  | some (n, g) => { s with frags := Sparse.insert s.frags n { g with quads := (g.quads.zipIdx).map fun x => f x.2 x.1 } }
  | none => s

/-- In a fragment image the record is held at each covered lane until its resolution (R384). -/
def gexpHold (s : State) (p : LPred) (a b : VReg) (at_ : Nat) (desc : List Byte) : State :=
  s.modQuads fun qi q =>
    { q with recs := (q.recs.zipIdx).map fun x =>
        let l := 4 * qi + x.2
        if bitOf (s.active p) l && bitOf q.cov x.2 then
          let xy := (s.v b l).toNat
          x.1 ++ [{ at_ := at_, desc := desc, x := fld xy 0 16, y := fld xy 16 16, data := s.gexpData a l }]
        else x.1 }

-- ## The export port and the bridge (R293, R385)

/-- The 4,096 bytes of a guide tile. -/
def guideBytes (px : Sparse (List Byte)) : List Byte := (List.range 256).flatMap fun i => Sparse.get blankPixel px i

/-- The next tile of a die's first GFLUSH enters the port. -/
def portPlace (s : State) (die : Nat) : State :=
  match s.flushes.findIdx? fun f => f.die == die with
  | none => s
  | some i =>
    match nth? s.flushes i with
    | none => s
    | some f =>
      if 64 ≤ (s.port.filter fun p => p.die == die).length then s
      else
        let px := match s.staged.find? (isStaged die f.ctx f.at_ f.next) with | some t => t.px | none => []
        let t : PortTile :=
          { die := die, ctx := f.ctx, dest := destTile (gtDest f.desc (f.next % gtDests f.desc)), credit := gtCredit f.desc
            bytes := guideBytes px }
        { s with port := s.port ++ [t]
                 staged := s.staged.filter fun t => !isStaged die f.ctx f.at_ f.next t
                 flushes := if f.next + 1 < f.stop then setNth s.flushes i { f with next := f.next + 1 } else dropNth s.flushes i }

/-- The group that holds a tile and may take a guide tile of a context now. -/
def ringGroup (s : State) (dest ctx : Nat) : Option (Nat × Group) :=
  s.groups.find? fun x =>
    let r := x.2.tile.ring
    x.2.core == dest && x.2.kind == .tensor && resident (s.gang x.2.gang) && (s.gang x.2.gang).ctx == ctx && r.rslots != 0 && !r.locked
      && decide ((r.deliv + 2 ^ 32 - r.rel) % 2 ^ 32 < r.rslots)

/-- The head of a destination's queue in a port is delivered (R293): its bytes, then RSEM and DELIV. -/
def deliverTile (s : State) (die dest : Nat) : State :=
  match s.port.findIdx? fun p => p.die == die && p.dest == dest with
  | none => s
  | some i =>
    match nth? s.port i with
    | none => s
    | some t =>
      match s.ringGroup dest t.ctx with
      | none => s
      | some (key, g) =>
        let r := g.tile.ring
        let b := bumpSem (writeSpad g.tile (r.rbase + 4096 * (r.deliv % r.rslots)) t.bytes fun _ => false) r.rsem 1
        let ring := { r with deliv := (r.deliv + 1) % 2 ^ 32, credits := r.credits ++ [(t.ctx, t.credit)] }
        let s := { s.setGroup key { g with tile := { b.1 with ring := ring } } with port := dropNth s.port i }
        if b.2 then s.semSat (s.gang g.gang).ctx (srcOf (16 + quadrantOf (dieOf dest)) 18) 0 r.rsem else s

-- ## Binding (R382)

/-- GBIND of the bundle at `pc`. -/
def gbindRun (s : State) (i : Instr) (pc va : Nat) (prev : List (Nat × ParkWhy)) (since : Nat) : State :=
  s.descRun i pc va 64 gtFieldsOk (fun b => [(gtCredit b, 4)]) prev since fun s b =>
    if (List.range (gtDests b)).any fun i => quadrantOf (dieOf (destTile (gtDest b i))) != quadrantOf s.die then
      s.sceneTrap pc (mkTrap .perm 6 0 0)
    else s.modScene fun c => { c with guide := some (va, b) }

/-- The split's wait on a scene instruction, if `want` takes it. -/
def sceneWaitOf (s : State) (want : Instr → Bool) : Option (Replay × Instr) :=
  s.split.waits.findSome? fun w => match w with
    | .mem r => (match r.instr with | some i => if want i then some (r, i) else none | none => none)
    | _ => none

end State
open State

/-- GBIND (R382). -/
def execGbind (b : KReg) (s : State) : Out := .next (s.nextSeq.gbindRun (.gbind b) s.pc (s.k b).toNat [] s.sid)

/-- GEXP (R384). -/
def execGexp (p : LPred) (a b : VReg) (s : State) : Out :=
  match s.rg.scene.guide with
  | none => .next (s.takeTrap { illegal 16 with lane := (s.lanes p).headD 0 })
  | some (at_, desc) =>
    if s.rg.scene.frag.isSome then .next (s.gexpHold p a b at_ desc)
    else
      let caps : List Access := (s.lanes p).map fun l =>
        { lane := l, va := at_, op := .store (leBytes 4 (s.v b l).toNat ++ s.gexpData a l ++ desc) false false none }
      .next (s.gexpRun (.gexp p a b) s.pc caps s.sid)

/-- GFLUSH (R385). -/
def execGflush (b : KReg) (s : State) : Out :=
  match s.rg.scene.guide with
  | none => .next (s.takeTrap (illegal 16))
  | some (at_, desc) =>
    let first := fld (s.k b).toNat 0 16
    let n := fld (s.k b).toNat 16 16
    if gtW desc * gtH desc < first + n then .next (s.takeTrap (illegal 17))
    else if 64 ≤ (s.port.filter fun p => p.die == s.die).length then .next s.stall
    else if n = 0 then .next s
    else
      let f : Flush := { die := s.die, ctx := s.gg.ctx, grp := s.cur.grp, at_ := at_, desc := desc, next := first, stop := first + n }
      .next { s with flushes := s.flushes ++ [f] }

/-- A tile of a GFLUSH enters the export port of a die (R385). -/
def execGuidePortPlace (die : Nat) (s : State) : Out := .next (s.portPlace die)
/-- The guide bridge delivers the next guide tile for a tensor tile (R293). -/
def execGuideDelivery (die dest : Nat) (s : State) : Out := .next (s.deliverTile die dest)
/-- A CREDIT increment (R385). -/
def execCreditIncrement (idx : Nat) (s : State) : Out := .next (s.tryIncrement idx true)
/-- Lanes of a GEXP that waited for staging tiles (R383). -/
def execStagingReplay (grp split : Nat) (s : State) : Out :=
  if s.hasSplit grp split then
    let t := s.asSplit grp split
    match t.sceneWaitOf fun i => match i with | .gexp _ _ _ => true | _ => false with
    | some (r, i) => .next (t.gexpRun i r.pc r.todo r.since).settleEnding
    | none => .next s
  else .next s

end Sys2Proof.Machine
end

