-- ==== Sys2Proof/Machine/Fill.lean ====
section
/-!
DEFINITION. The fill engine's instructions and its waiting starts (R391 to R401). A change that a STATE page holds back stands in
`heldFails` as (range, block, code), with 256 for a reset and 257 for an eviction.
-/
namespace Sys2Proof.Machine
namespace State

/-- FILLED blocks of a range. -/
def filledBlocks (s : State) (r : Nat) : List (Nat × Block) :=
  (s.blocks.filter fun x => x.1 / 2 ^ 40 == r && x.2.st == .filled).map fun x => (x.1 % 2 ^ 40, x.2)

/-- The physical frame of a block's first byte. -/
def blockFrame (s : State) (x : Range) (b : Nat) : Option Nat :=
  let va := x.vbase + b * 2 ^ x.bsize
  match s.walk x.ctx va with | .leaf _ e big => some (leafPa e va big) | .bad _ _ _ => none

/-- Evict a FILLED block (R397): its cached translations go, accesses on their way are performed, and it becomes EMPTY unless dirty. -/
def evictBlock (s : State) (r b : Nat) : State :=
  match s.range? r with
  | none => s
  | some x =>
    let s := s.dropTlb x.ctx .p64 (x.vbase + b * 2 ^ x.bsize)
    let s := match s.blockFrame x b with | some pa => s.mergeRange pa (2 ^ x.bsize) | none => s
    if (s.block r b).st == .filled && !(s.block r b).dirty then s.setBlock r b { s.block r b with st := .empty, code := 0 } else s

/-- After a FILLDONE: one clean FILLED block too many goes, the least recently used (R397). -/
def applyLimit (s : State) (r b : Nat) : State :=
  match s.range? r with
  | none => s
  | some x =>
    let all := s.filledBlocks r
    if x.limit = 0 ∨ all.length ≤ x.limit then s
    else
      let clean := all.filter fun y => !y.2.dirty && y.1 != b
      match clean with
      | [] => s
      | y :: l =>
        let o := l.foldl (fun o z => if z.2.use < o.2.use then z else o) y
        s.evictBlock r o.1

/-- The block an instruction of the issuing gang names as its generator: the block, none when it ended it before, or the trap (R399). -/
def generatorBlock (s : State) (va : Nat) : Except Trap (Option (Nat × Nat)) :=
  let bad := mkTrap .perm 7 0 va
  match s.kind, s.rangeAt s.gg.ctx va with
  | .shading, some (r, b) =>
    if s.gg.ended.elem (r, b) then .ok none
    else if (s.block r b).st = .filling ∧ s.isGenerator (some s.cg.gang) r b = true then .ok (some (r, b))
    else .error bad
  | _, _ => .error bad

/-- FILLDONE on a block (R399). -/
def fillDone (s : State) (r b : Nat) : State :=
  let s := (s.stamp fillSrc).1
  let s := s.setBlock r b { st := .filled, dirty := false, code := 0, use := s.sid }
  let s := { s.dropInflight r b with fillcnt := s.fillcnt + 1 }
  (s.setGg { s.gg with ended := (r, b) :: s.gg.ended }).applyLimit r b

/-- A change of a block's state that waits for its STATE page (R391). -/
def holdBlock (s : State) (r b code : Nat) : State :=
  State.stateService { s with heldFails := s.heldFails ++ [(r, b, code)] } r b

/-- FILLHINT.RESET and .DROP on a block (R401). -/
def resetBlock (s : State) (r b : Nat) : State :=
  if (s.block r b).st = .failed then
    if (s.stateEntry r b).isSome then s.setBlock r b { s.block r b with st := .empty, code := 0 } else s.holdBlock r b 256
  else s
def dropBlock (s : State) (r b : Nat) : State :=
  if (s.block r b).st == .filled && !(s.block r b).dirty then
    if (s.stateEntry r b).isSome then s.evictBlock r b else s.holdBlock r b 257
  else s

-- ## Starts that waited (R391, R393)

/-- Splits parked on an EMPTY block: its range's PRIO, the park time, the block, and the depth of its fill. -/
def blockWaiters (s : State) : List (Nat × Nat × (Nat × Nat) × Nat) :=
  s.groups.flatMap fun g => g.2.splits.flatMap fun x => x.2.waits.flatMap fun w => match w with
    | .mem r => r.why.filterMap fun y => match y.2 with
      | .block a b =>
        if (s.block a b).st = .empty then
          some ((match s.range? a with | some x => x.prio | none => 0), r.since, (a, b), (s.gang g.2.gang).depth + 1)
        else none
      | _ => none
    | _ => []

/-- A waiting block that no other goes before: higher PRIO, then earlier park time. -/
def nextFill (s : State) (r b : Nat) : Option Nat :=
  let l := s.blockWaiters
  match l.find? fun x => x.2.2.1 == (r, b) with
  | none => none
  | some x =>
    let first := (l.filter fun y => y.2.2.1 == (r, b)).foldl (fun o y => if y.2.1 < o.2.1 then y else o) x
    if l.any fun y => decide (first.1 < y.1) || (first.1 == y.1 && decide (y.2.1 < first.2.1)) then none else some first.2.2.2

/-- Perform a held change of a block's state. -/
def releaseHeld (s : State) (r b code : Nat) : State :=
  let s := { s with heldFails := s.heldFails.filter (· != (r, b, code)) }
  if code < 256 then s.failBlock r b code else if code = 256 then s.resetBlock r b else s.dropBlock r b

end State
open State

/-- FILLDONE (R399, R402). -/
def execFilldone (a : KReg) (s : State) : Out :=
  match s.generatorBlock (s.k a).toNat with
  | .error t => .next (s.takeTrap t)
  | .ok none => .next s
  | .ok (some (r, b)) =>
    if !s.fenceReady .pkg then .next s.stall
    else if (s.stateEntry r b).isNone then .next (s.stateService r b).hold
    else .next (s.fillDone r b)
/-- FILLFAIL (R399). -/
def execFillfail (a b : KReg) (s : State) : Out :=
  match s.generatorBlock (s.k a).toNat with
  | .error t => .next (s.takeTrap t)
  | .ok none => .next s
  | .ok (some (r, n)) =>
    .next ((s.setGg { s.gg with ended := (r, n) :: s.gg.ended }).failBlock r n (128 + fld (s.k b).toNat 0 7))
/-- FILLQ (R400). -/
def execFillq (d a : KReg) (s : State) : Out :=
  let w := match s.rangeAt s.gg.ctx (s.k a).toNat with
    | none => 0
    | some (r, b) =>
      let x := s.block r b
      let dep := match x.st, s.inflightOf r b with | .filling, some f => f.depth | _, _ => 0
      2 ^ 63 + r * 2 ^ 48 + x.code * 2 ^ 40 + dep * 2 ^ 32 + 4 * bit x.dirty + BlockSt.code x.st
  .next (s.deliver [(.kreg d false, leBytes 8 w, [])])
/-- FILLHINT (R401). -/
def execFillhint (w : FillHint) (a : KReg) (s : State) : Out :=
  match s.rangeAt s.gg.ctx (s.k a).toNat with
  | none => .next s
  | some (r, b) =>
    match w with
    | .reset => .next (s.resetBlock r b)
    | .start => .next (if (s.block r b).st = .empty ∧ s.gg.depth < 3 then s.startFill r b (s.gg.depth + 1) else s)
    | .drop => .next (s.dropBlock r b)

/-- The fill engine takes up a block that waited: a held change of its state, a record not yet appended, or its start (R391, R393). -/
def execFillStart (range block : Nat) (s : State) : Out :=
  match s.heldFails.find? fun x => x.1 == range && x.2.1 == block with
  | some (_, _, code) => .next (if (s.stateEntry range block).isSome then s.releaseHeld range block code else s)
  | none =>
    match s.inflightOf range block with
    | some f => .next (if f.pushed then s else s.pushGenerator range block)
    | none => match s.nextFill range block with
      | some d => .next (s.startFill range block d)
      | none => .next s

end Sys2Proof.Machine
end

