-- ==== Sys2Proof/Machine/Raster.lean ====
section
/-!
DEFINITION. Draws and meshlets (R358 to R360), raster setup (R361, R362), fragment groups (R363 to R365), depth and hierarchical depth
(R366 to R370), and the scene instructions that act on them.
-/
namespace Sys2Proof.Machine

-- ## The draw descriptor (R359)

def drDepth (b : List Byte) : Nat := recField b 0 8
def drVw (b : List Byte) : Nat := recField b 8 2
def drVh (b : List Byte) : Nat := recField b 0xA 2
def drVx (b : List Byte) : Nat := recField b 0xC 2
def drVy (b : List Byte) : Nat := recField b 0xE 2
def drZctl (b : List Byte) : Nat := recField b 0x10 1
def drFunc (b : List Byte) : Nat := fld (drZctl b) 0 3
def drWrite (b : List Byte) : Bool := bitOf (drZctl b) 3
def drCull (b : List Byte) : Nat := fld (drZctl b) 4 2
def drKeep (b : List Byte) : Bool := bitOf (drZctl b) 6
def drImage (b : List Byte) : Nat := recField b 0x18 8
def drEntry (b : List Byte) : Nat := recField b 0x20 1
def drArg (b : List Byte) : Nat := recField b 0x28 8
def drDone (b : List Byte) : Nat := recField b 0x30 8

def drFieldsOk (b : List Byte) : Bool :=
  decide (1 ≤ drVw b) && decide (drVw b ≤ 16384) && decide (1 ≤ drVh b) && decide (drVh b ≤ 16384) && decide (drVx b ≤ 32767)
    && decide (drVy b ≤ 32767) && drFunc b != 7 && drCull b != 3 && !bitOf (drZctl b) 7 && recField b 0x11 7 == 0
    && decide (drEntry b < 8) && recField b 0x21 7 == 0 && recField b 0x38 72 == 0

-- ## Raster setup (R361)

/-- A vertex after setup: window coordinates in 1/256 pixel, depth, and its 20 words. -/
structure RVert where
  x : Int
  y : Int
  z : Nat
  w : List Nat

/-- The words of vertex i of a meshlet. -/
def meshVert (m : Sparse W32) (i : Nat) : List Nat := (List.range 20).map fun j => (Sparse.get 0 m (20 * i + j)).toNat

def setupVert (d : List Byte) (v : List Nat) : Option RVert :=
  let c := fun i => v.getD i 0
  if (v.take 4).any fisNan || !flt 0 (c 3) || flt (c 2) 0 || flt (c 3) (c 2) then none
  else
    let x := fadd .rne (fmul .rne (fadd .rne (fdiv .rne (c 0) (c 3)) fone) (fmul .rne fhalf (fint (drVw d)))) (fint (drVx d))
    let y := fadd .rne (fmul .rne (fsub .rne fone (fdiv .rne (c 1) (c 3))) (fmul .rne fhalf (fint (drVh d)))) (fint (drVy d))
    let xf := fround .rne (fmul .rne x (fint 256))
    let yf := fround .rne (fmul .rne y (fint 256))
    if 2 ^ 23 ≤ xf.natAbs ∨ 2 ^ 23 ≤ yf.natAbs then none else some { x := xf, y := yf, z := fdiv .rne (c 2) (c 3), w := v }

/-- The edge function of the edge from a to b at a sample point. -/
def edgeFn (a b : RVert) (px py : Int) : Int := (b.x - a.x) * (py - a.y) - (b.y - a.y) * (px - a.x)

/-- E0, E1 and E2 at a pixel, with the sign of the facing. -/
def edges (t : List RVert) (flip : Bool) (px py : Nat) : List Int :=
  match t with
  | [a, b, c] =>
    let x : Int := 256 * px + 128
    let y : Int := 256 * py + 128
    [edgeFn b c x y, edgeFn c a x y, edgeFn a b x y].map fun e => if flip then -e else e
  | _ => []

/-- The edges from a to b of each Ei, as the direction that the ties of R361 see. -/
def edgeOwns (t : List RVert) : List Bool :=
  match t with
  | [a, b, c] => [(b, c), (c, a), (a, b)].map fun e =>
      decide (0 < e.2.y - e.1.y) || (decide (e.2.y - e.1.y = 0) && decide (e.2.x - e.1.x < 0))
  | _ => []

/-- Whether a pixel of the viewport is covered. -/
def covers (d : List Byte) (t : List RVert) (flip : Bool) (px py : Nat) : Bool :=
  decide (drVx d ≤ px) && decide (px < drVx d + drVw d) && decide (drVy d ≤ py) && decide (py < drVy d + drVh d)
    && ((edges t flip px py).zip (edgeOwns t)).all fun e => decide (0 < e.1) || (e.1 == 0 && e.2)

/-- The filled slot as a triangle that is not culled, with its facing. -/
def setupPrim (d : List Byte) (verts : Sparse W32) (p : Nat) : Option (List RVert × Bool) :=
  let is := [fld p 0 8, fld p 8 8, fld p 16 8]
  if is.any fun i => decide (31 < i) then none
  else match is.mapM fun i => setupVert d (meshVert verts i) with
    | none => none
    | some t =>
      let s := (edges t false 0 0).foldl (· + ·) 0
      if s = 0 ∨ (s > 0 ∧ drCull d = 2) ∨ (s < 0 ∧ drCull d = 1) then none else some (t, decide (s < 0))

/-- Pixels of a quad: (x, y), (x+1, y), (x, y+1), (x+1, y+1) (R363). -/
def quadPixels (x y : Nat) : List (Nat × Nat) := [(x, y), (x + 1, y), (x, y + 1), (x + 1, y + 1)]

/-- The quad at an even origin, if the primitive covers one of its pixels. -/
def formQuad (d : List Byte) (slot : Nat) (t : List RVert) (flip : Bool) (x y : Nat) : Option Quad :=
  let px := quadPixels x y
  let cov := (px.zipIdx).foldl (fun m p => if covers d t flip p.1.1 p.1.2 then setBit m p.2 true else m) 0
  if cov = 0 then none
  else
    let es := px.map fun p => edges t flip p.1 p.2
    some { x := x, y := y, cov := cov, dead := 0, early := 0, prim := slot, tri := t.map fun v => v.z :: v.w, es := es
           sum := (es.headD []).foldl (· + ·) 0, depw := [none, none, none, none], recs := [[], [], [], []] }

/-- Even coordinates that a triangle's span may touch within the viewport. -/
def evenSpan (l : List Int) (lo n : Nat) : List Nat :=
  let mn := l.foldl min (2 ^ 24)
  let mx := l.foldl max (-(2 ^ 24))
  let a := (max (lo : Int) (mn / 256 - 1)).toNat / 2 * 2
  let b := (min ((lo + n : Nat) : Int) (mx / 256 + 2)).toNat
  (List.range ((b - a + 1) / 2)).map fun i => a + 2 * i

/-- The quads of a primitive slot. -/
def primQuads (d : List Byte) (verts : Sparse W32) (slot p : Nat) : List Quad :=
  match setupPrim d verts p with
  | none => []
  | some (t, flip) =>
    (evenSpan (t.map (·.y)) (drVy d) (drVh d)).flatMap fun y =>
      (evenSpan (t.map (·.x)) (drVx d) (drVw d)).filterMap fun x => formQuad d slot t flip x y

/-- The cluster that owns a quad's block (R362); blocks are counted from pixel (0, 0) (log entry 16). -/
def quadCluster (q : Quad) : Nat := (q.x / 16 + 3 * (q.y / 16)) % 10

-- ## Interpolation (R364): `tri` holds z, then the vertex words

def triZ (q : Quad) (i : Nat) : Nat := (q.tri.getD i []).getD 0 0
def triW (q : Quad) (i : Nat) : Nat := (q.tri.getD i []).getD 4 0
def triAttr (q : Quad) (i n : Nat) : Nat := (q.tri.getD i []).getD (5 + n) 0
def quadE (q : Quad) (j i : Nat) : Nat := fint ((q.es.getD j []).getD i 0)
def weigh (q : Quad) (j : Nat) (f : Nat → Nat) (e : Nat → Nat) : Nat :=
  ffma .rne (e 2) (f 2) (ffma .rne (e 1) (f 1) (fmul .rne (e 0) (f 0)))

/-- zr of pixel j of a quad. -/
def rasterZ (q : Quad) (j : Nat) : Nat := fdiv .rne (weigh q j (triZ q) (quadE q j)) (fint q.sum)
/-- INTERP of attribute n. -/
def interpAt (q : Quad) (j n : Nat) : Nat :=
  let qi := fun i => fmul .rne (quadE q j i) (fdiv .rne fone (triW q i))
  fdiv .rne (weigh q j (fun i => triAttr q i n) qi) (fadd .rne (fadd .rne (qi 0) (qi 1)) (qi 2))

/-- What DEPW stores (R365): clamped to [0, 1], then kept on its declared side of zr; NaN stays. -/
def depwValue (m : DepDir) (zr a : Nat) : Nat :=
  if fisNan a then f32.nanCode
  else
    let c := if flt a 0 then 0 else if flt fone a then fone else a
    match m with
    | .none => c
    | .ge => if flt c zr then zr else c
    | .le => if flt zr c then zr else c

-- ## The depth test (R366)

/-- Whether a fragment's depth passes against a word. -/
def depthPasses (func zf zb : Nat) : Bool :=
  match func with
  | 0 => false
  | 1 => flt zf zb
  | 2 => fle zf zb
  | 3 => feq zf zb
  | 4 => flt zb zf
  | 5 => fle zb zf
  | _ => true

/-- The kind of bound that a function keeps: 0 an upper one, 1 a lower one (R368). -/
def boundKind (func : Nat) : Option Nat := match func with | 1 | 2 | 3 => some 0 | 4 | 5 => some 1 | _ => none

/-- The depth word of a pixel. -/
def depthAddr (d : List Byte) (px py : Nat) : Nat := drDepth d + 4 * ((py - drVy d) * drVw d + (px - drVx d))
/-- The 8×8 region of a pixel, as a number. -/
def regionNo (d : List Byte) (px py : Nat) : Nat := (py - drVy d) / 8 * 4096 + (px - drVx d) / 8

/-- A fragment's depth: DEPW's, or zr; none when a NaN was written. -/
def fragDepth (q : Quad) (j : Nat) : Option Nat :=
  match q.depw.getD j none with
  | some z => if fisNan z then none else some z
  | none => some (rasterZ q j)

namespace State

-- ## Hierarchical depth (R368)

def hzGet (s : State) (die ctx depth : Nat) : Option HzBuf := s.hz.find? fun h => h.die == die && h.ctx == ctx && h.depth == depth
def hzPut (s : State) (h : HzBuf) : State :=
  { s with hz := h :: s.hz.filter fun x => !(x.die == h.die && x.ctx == h.ctx && x.depth == h.depth) }

/-- The least upper or greatest lower bound of a region's words, if every one can be read and none is a NaN: 2 × code + kind. -/
def hzBound (s : State) (q : Req) (d : List Byte) (kind px py : Nat) : Option Nat :=
  let x0 := (px - drVx d) / 8 * 8
  let y0 := (py - drVy d) / 8 * 8
  let cells := (List.range 64).filter fun i => decide (x0 + i % 8 < drVw d) && decide (y0 + i / 8 < drVh d)
  match cells.mapM fun i => (s.unitRead q (drDepth d + 4 * ((y0 + i / 8) * drVw d + (x0 + i % 8))) 4).map ofLE with
  | none => none
  | some l =>
    if l.any fisNan then none
    else
      let b := l.foldl (fun b z => if kind = 0 then (if flt b z then z else b) else if flt z b then z else b) (l.headD 0)
      some (2 * b + kind)

/-- After a depth write: the region's bound is formed again, or forgotten. -/
def hzUpdate (s : State) (die ctx : Nat) (d : List Byte) (px py : Nat) : State :=
  let h := match s.hzGet die ctx (drDepth d) with | some h => h | none => { die := die, ctx := ctx, depth := drDepth d, bounds := [] }
  let n := regionNo d px py
  let q : Req := { ctx := ctx, die := die, gang := none, depth := 0 }
  match (boundKind (drFunc d)).bind fun k => s.hzBound q d k px py with
  | some b => s.hzPut { h with bounds := Sparse.insert h.bounds n b }
  | none => s.hzPut { h with bounds := Sparse.erase h.bounds n }

/-- Whether the region's bound shows that a pixel's fragment fails, given the quad's range of depths. -/
def hzFails (h : HzBuf) (d : List Byte) (lo hi px py : Nat) : Bool :=
  match h.bounds.find? (·.1 == regionNo d px py), boundKind (drFunc d) with
  | some (_, b), some k =>
    b % 2 == k && (match drFunc d with
      | 1 => fle (b / 2) lo
      | 2 | 3 => flt (b / 2) lo
      | 4 => fle hi (b / 2)
      | _ => flt hi (b / 2))
  | _, _ => false

/-- Whether the hierarchical test culls a quad: never while an earlier fragment of the buffer, under a function of another kind, is
unresolved, and never where DEPW may move the depth toward passing. -/
def hzCulls (s : State) (m : Meshlet) (img : Option Image) (q : Quad) : Bool :=
  let d := m.draw.desc
  let safe := match img with
    | none => false
    | some i => !imgDw i || (match boundKind (drFunc d) with | some 0 => imgDdir i == 1 | some _ => imgDdir i == 2 | none => false)
  let others := s.frags.any fun x => x.2.die == m.die && x.2.ctx == m.ctx && drDepth x.2.draw.desc == drDepth d
    && boundKind (drFunc x.2.draw.desc) != boundKind (drFunc d)
  match s.hzGet m.die m.ctx (drDepth d) with
  | none => false
  | some h =>
    let js := bitsOf 4 q.cov
    let zs := js.map (rasterZ q)
    let lo := zs.foldl (fun a z => if flt z a then z else a) (zs.headD 0)
    let hi := zs.foldl (fun a z => if flt a z then z else a) (zs.headD 0)
    safe && !others && drDepth d != 0 && !zs.any fisNan
      && js.all fun j => let p := (quadPixels q.x q.y).getD j (0, 0); hzFails h d lo hi p.1 p.2

-- ## Rasterizing a meshlet (R360 to R363)

/-- Cut into fragment groups of at most 8 quads. -/
def quadGroups : Nat → List Quad → List (List Quad)
  | 0, _ => []
  | fuel + 1, l => match l with | [] => [] | _ => l.take 8 :: quadGroups fuel (l.drop 8)

/-- The first meshlet of a die, in meshlet order, that is not rasterized. -/
def nextMeshlet (s : State) (die : Nat) : Option Nat := s.meshlets.findIdx? fun m => m.die == die && !m.rastered

/-- A meshlet of which every fragment is resolved leaves, and its DONECNT increment begins (R370). -/
def finishMeshlet (s : State) (die no : Nat) : State :=
  if s.frags.any fun x => x.2.die == die && x.2.meshlet == no then s
  else match s.meshlets.find? fun m => m.die == die && m.no == no && m.rastered with
    | none => s
    | some m =>
      let s := { s with meshlets := s.meshlets.filter fun x => !(x.die == die && x.no == no) }
      let va := drDone m.draw.desc
      if va = 0 then s
      else { s with incs := s.incs ++ [{ ctx := m.ctx, va := va, src := srcOf die 40, credit := false }] }

/-- The rasterizers form the fragment groups of the next meshlet. -/
def rasterMeshlet (s : State) (die : Nat) : State :=
  match s.nextMeshlet die with
  | none => s
  | some i =>
    match nth? s.meshlets i with
    | none => s
    | some m =>
      let img := s.imageAt m.ctx (drImage m.draw.desc)
      let quads := (m.prims.flatMap fun p => primQuads m.draw.desc m.verts p.1 p.2).filter fun q => !s.hzCulls m img q
      let groups := (List.range 10).flatMap fun c =>
        let mine := quads.filter fun q => quadCluster q == c
        (quadGroups mine.length mine).map fun l => (c, l)
      let s := groups.foldl (fun s g =>
        let f : FragGroup :=
          { die := die, cluster := g.1, meshlet := m.no, draw := m.draw, ctx := m.ctx, rec_ := m.rec_, quads := g.2, gang := none
            ended := false }
        { s with frags := Sparse.insert s.frags s.fragNo f, fragNo := s.fragNo + 1 }) s
      State.finishMeshlet { s with meshlets := setNth s.meshlets i { m with rastered := true } } die m.no

-- ## Resolving fragments (R366 to R370)

/-- A pixel of a fragment group whose fragment still counts. -/
def livePixels (g : FragGroup) : List (Nat × Nat) :=
  (g.quads.zipIdx).flatMap fun x => ((List.range 4).filter fun j => bitOf x.1.cov j && !bitOf x.1.dead j).map fun j => (x.2, j)

def pixelOf (q : Quad) (j : Nat) : Nat × Nat := (quadPixels q.x q.y).getD j (0, 0)

/-- Whether an unresolved earlier fragment of the die and context stands at a pixel of a group (R367). -/
def earlierStands (s : State) (n : Nat) (g : FragGroup) : Bool :=
  let mine := g.quads.map fun q => (q.x, q.y)
  s.frags.any fun x => decide (x.1 < n) && x.2.die == g.die && x.2.ctx == g.ctx && x.2.quads.any fun q => mine.elem (q.x, q.y)

/-- The hierarchical-depth unit of a fragment group. -/
def hzSrc (g : FragGroup) : Nat := srcOf g.die (50 + g.cluster)
def fragReq (g : FragGroup) : Req := { ctx := g.ctx, die := g.die, gang := none, depth := 0 }

/-- The first depth word of a group that has to wait for its page, with what that records. -/
def depthWaits (s : State) (g : FragGroup) (l : List (Nat × Nat)) : Option State :=
  if drDepth g.draw.desc = 0 then none
  else l.findSome? fun x =>
    match nth? g.quads x.1 with
    | none => none
    | some q =>
      let p := pixelOf q x.2
      match s.unitReach (fragReq g) (hzSrc g) (depthAddr g.draw.desc p.1 p.2) .rw with
      | .wait s => some s
      | _ => none

/-- Test and write one pixel (R366): whether the fragment passes. -/
def depthStep (s : State) (g : FragGroup) (q : Quad) (j : Nat) : State × Bool :=
  let d := g.draw.desc
  if drDepth d = 0 then (s, true)
  else
    let p := pixelOf q j
    let va := depthAddr d p.1 p.2
    match s.unitReach (fragReq g) (hzSrc g) va .rw with
    | .bad cls sub level reason =>
      (s.logErr { errBase (some g.ctx) (hzSrc g) cls.code with
        sub := sub, vaddr := va, synd := level + 16 * reason, jobtag := recJobtag g.rec_, gidx := recGidx g.rec_ }, false)
    | .wait s => (s, false)
    | .ok s pa =>
      match fragDepth q j with
      | none => (s, false)
      | some z =>
        let x := s.atomicAt (hzSrc g) pa 4 fun o => if depthPasses (drFunc d) z o && drWrite d then some z else none
        let pass := depthPasses (drFunc d) z x.2
        (if pass && drWrite d then x.1.hzUpdate g.die g.ctx d p.1 p.2 else x.1, pass)

/-- The records that a resolved pixel gives to staging. -/
def recWrites (q : Quad) (j : Nat) : List GWrite :=
  (q.recs.getD j []).filterMap fun r => (gtPixel r.desc r.x r.y).map fun p => { lane := j, at_ := r.at_, idx := p.1, px := p.2, data := r.data }

/-- Update the depth of live pixels early, marking those that fail (R369). -/
def earlyDepth (s : State) (n : Nat) (g : FragGroup) : State :=
  let r := (livePixels g).foldl (fun (p : State × List Quad) x =>
    match nth? p.2 x.1 with
    | none => p
    | some q =>
      let t := p.1.depthStep g q x.2
      (t.1, setNth p.2 x.1 (if t.2 then { q with early := setBit q.early x.2 true } else { q with dead := setBit q.dead x.2 true })))
    (s, g.quads)
  { r.1 with frags := Sparse.insert r.1.frags n { g with quads := r.2 } }

/-- Resolve the fragments of an ended group, when its pixels are next in R367's order, its depth words can be reached, and staging has
room (R383). -/
def resolveGroup (s : State) (n : Nat) (g : FragGroup) : State :=
  let live := livePixels g
  let late := live.filter fun x => match nth? g.quads x.1 with | some q => !bitOf q.early x.2 | none => false
  let ws := live.flatMap fun x => match nth? g.quads x.1 with | some q => recWrites q x.2 | none => []
  if s.earlierStands n g then s
  else if ws.any (s.flushNames g.die g.ctx (2 ^ 60)) then s
  else if s.stagedFree g.die < (s.newTiles g.die g.ctx ws []).length then s
  else match s.depthWaits g late with
    | some s => s
    | none =>
      let s := live.foldl (fun s x =>
        match nth? g.quads x.1 with
        | none => s
        | some q =>
          let t := if bitOf q.early x.2 then (s, true) else s.depthStep g q x.2
          if t.2 then (recWrites q x.2).foldl (fun s w => s.stagePixel g.die g.ctx w) t.1 else t.1) s
      State.finishMeshlet { s with frags := Sparse.erase s.frags n } g.die g.meshlet

-- ## Starting a fragment group (R359, R363, R369)

/-- The record a fragment group runs under: PRIO and JOBTAG of the mesh gang, D = 1, EST 1 µs, GIDX the meshlet's position. -/
def fragRecord (g : FragGroup) : List Byte :=
  leBytes 8 (drImage g.draw.desc) ++ leBytes 1 (drEntry g.draw.desc) ++ leBytes 1 0 ++ leBytes 1 1 ++ leBytes 1 0
    ++ leBytes 1 (recPrio g.rec_) ++ leBytes 1 4 ++ leBytes 2 0 ++ leBytes 4 1 ++ leBytes 4 g.meshlet ++ leBytes 8 g.draw.at_
    ++ leBytes 8 0 ++ leBytes 8 (drArg g.draw.desc) ++ leBytes 4 (recJobtag g.rec_) ++ leBytes 4 1 ++ leBytes 8 0

/-- The image of a draw: shading, FRAG = 1, with a used entry point. -/
def fragImage (s : State) (g : FragGroup) : Except Nat Image :=
  match s.imageAt g.ctx (drImage g.draw.desc) with
  | none => .error 2
  | some i =>
    if i.kind ≠ .shading ∨ imgFrag i = false then .error 2
    else if i.entries.getD (drEntry g.draw.desc) 0xFFFFFFFF = 0xFFFFFFFF then .error 3
    else .ok { i with shape0 := 1, shape1 := 0 }

/-- A bad image: one RECORD record for the draw, and the fragments are discarded. -/
def discardFrags (s : State) (n : Nat) (g : FragGroup) (check : Nat) : State :=
  let s := { s with frags := Sparse.insert s.frags n { g with ended := true, quads := g.quads.map fun q => { q with dead := 15 } } }
  if s.badDraws.elem g.draw.no then s
  else
    State.logErr { s with badDraws := g.draw.no :: s.badDraws } { errBase (some g.ctx) (schedSrc (quadrantOf g.die)) 0x12 with
      sub := check, vaddr := drImage g.draw.desc, jobtag := recJobtag g.rec_, gidx := recGidx g.rec_ }

/-- A group takes a core of its cluster; its gang has one group. -/
def startFrag (s : State) (n : Nat) (g : FragGroup) (i : Image) : Option State :=
  match s.placeShading i ((List.range 4).map fun j => srcOf g.die (4 * g.cluster + j)) with
  | none => none
  | some pl =>
    let key := s.nextGang
    let s := s.startGang g.ctx 0 i (fragRecord g) none [] pl
    let gk := groupKey key 0
    let x := s.group gk
    let mask := 2 ^ (4 * g.quads.length) - 1
    let s := s.setGroup gk
      { x with r := { x.r with k := Sparse.set 0 x.r.k 2 (BitVec.ofNat 64 g.meshlet) }
               scene := { x.scene with frag := some n }
               splits := x.splits.map fun y => (y.1, { y.2 with mask := mask }) }
    some { s with frags := Sparse.insert s.frags n { g with gang := some key } }

/-- One waiting fragment group of a die starts, in the order of their formation where cores allow. -/
def startFrags (s : State) (die : Nat) : State :=
  let waiting := s.frags.filter fun x => x.2.die == die && x.2.gang == none && !x.2.ended
  match waiting.findSome? fun x =>
    match s.fragImage x.2 with
    | .error c => some (s.discardFrags x.1 x.2 c)
    | .ok i =>
      if !imgKd i && !imgDw i then
        if s.earlierStands x.1 x.2 then none
        else match s.depthWaits x.2 (livePixels x.2) with
          | some s => some s
          | none =>
            let s := s.earlyDepth x.1 x.2
            s.startFrag x.1 (Sparse.get x.2 s.frags x.1) i
      else s.startFrag x.1 x.2 i with
  | some s => s
  | none => s

/-- RKICK of the bundle at `pc`: the descriptor is latched, and without HZKEEP the bounds of its buffer start again (R359, R368). -/
def rkickRun (s : State) (i : Instr) (pc va : Nat) (prev : List (Nat × ParkWhy)) (since : Nat) : State :=
  s.descRun i pc va 128 drFieldsOk (fun b => [(drDepth b, 64), (drDone b, 4)]) prev since fun s b =>
    let s := if drKeep b then s
      else { s with hz := s.hz.filter fun h => !(h.die == s.die && h.ctx == s.gg.ctx && h.depth == drDepth b) }
    State.modScene { s with drawNo := s.drawNo + 1 } fun c => { c with draw := some { at_ := va, desc := b, no := s.drawNo } }

/-- The value of a fragment query for a lane; in a group without fragments a free value (log entry 17). -/
def fragLane (s : State) (l : Nat) (f : Quad → Nat → Nat) : W32 :=
  match s.myFrag with
  | some (_, g) => (match nth? g.quads (l / 4) with
    | some q => BitVec.ofNat 32 (f q (l % 4))
    | none => (Config.freeValue (s.free + l)).truncate 32)
  | none => (Config.freeValue (s.free + l)).truncate 32

/-- Write a fragment query to the active lanes of vD. -/
def fragQuery (s : State) (p : LPred) (d : VReg) (f : Quad → Nat → Nat) : State :=
  { s.setLanes d (s.lanes p) (fun l => s.fragLane l f) with free := s.free + 64 }

end State
open State

/-- PEMIT (R358). -/
def execPemit (hi : Bool) (p : LPred) (a : VReg) (s : State) : Out :=
  .next (s.modScene fun c =>
    { c with prims := (s.lanes p).foldl (fun m l => Sparse.insert m (if hi then 32 + l else l) (fld (s.v a l).toNat 0 24)) c.prims })
/-- VEMIT (R358). -/
def execVemit (m : EmitKind) (p : LPred) (a : VReg) (s : State) : Out :=
  let off := match m with | .pos => 0 | .attr k => 4 + 4 * k.val
  .next (s.modScene fun c =>
    { c with verts := (s.lanes p).foldl (fun v l =>
        (List.range 4).foldl (fun v j => Sparse.set 0 v (20 * l + off + j) (s.v (a + j) l)) v) c.verts })
/-- MEND (R360, R357). -/
def execMend (s : State) : Out :=
  match s.rg.scene.draw with
  | none => .next (s.takeTrap (illegal 16))
  | some d =>
    if 64 ≤ (s.meshlets.filter fun m => m.die == s.die && !m.rastered).length then .next s.stall
    else
      let no := Sparse.get 0 s.meshNo s.die
      let m : Meshlet :=
        { die := s.die, no := no, draw := d, ctx := s.gg.ctx, rec_ := s.gg.rec_, verts := s.cg.scene.verts, prims := s.cg.scene.prims
          rastered := false }
      let s := { s with meshlets := s.meshlets ++ [m], meshNo := Sparse.insert s.meshNo s.die (no + 1) }
      .next (s.modScene fun c => { c with verts := [], prims := [] })
/-- RKICK (R359). -/
def execRkick (b : KReg) (s : State) : Out := .next (s.nextSeq.rkickRun (.rkick b) s.pc (s.k b).toNat [] s.sid)

/-- ZQRY (R364). -/
def execZqry (m : ZKind) (p : LPred) (d : VReg) (s : State) : Out :=
  .next (s.fragQuery p d fun q j => match m with
    | .pos => (pixelOf q j).1 % 65536 + 65536 * ((pixelOf q j).2 % 65536)
    | .z => rasterZ q j
    | .cov => bit (bitOf q.cov j)
    | .prim => q.prim)
/-- INTERP (R364). -/
def execInterp (flat : Bool) (n : Fin 16) (p : LPred) (d : VReg) (s : State) : Out :=
  .next (s.fragQuery p d fun q j => if flat then triAttr q 0 n.val else interpAt q j n.val)
/-- DEPW (R365). -/
def execDepw (m : DepDir) (p : LPred) (a : VReg) (s : State) : Out :=
  .next (s.modQuads fun qi q =>
    { q with depw := (q.depw.zipIdx).map fun x =>
        let l := 4 * qi + x.2
        if bitOf (s.active p) l then some (depwValue m (rasterZ q x.2) (s.v a l).toNat) else x.1 })
/-- KILL (R365). -/
def execKill (p : LPred) (s : State) : Out :=
  .next (s.modQuads fun qi q => { q with dead := (List.range 4).foldl (fun m j => if bitOf (s.active p) (4 * qi + j) then setBit m j true else m) q.dead })

/-- The rasterizers of a die take its next meshlet (R360 to R363). -/
def execMeshletRaster (die : Nat) (s : State) : Out := .next (s.rasterMeshlet die)
/-- A fragment group of a die starts (R363). -/
def execFragmentGroupStart (die : Nat) (s : State) : Out := .next (s.startFrags die)
/-- An ended fragment group of a die is resolved (R367). -/
def execFragmentResolve (die idx : Nat) (s : State) : Out :=
  match s.frags.find? (·.1 == idx) with
  | some (n, g) => .next (if g.die == die && g.ended then s.resolveGroup n g else s)
  | none => .next s
/-- A DONECNT increment (R370). -/
def execDonecntIncrement (idx : Nat) (s : State) : Out := .next (s.tryIncrement idx false)

end Sys2Proof.Machine
end

