-- ==== Sys2Proof/Machine/Sched.lean ====
section
/-!
DEFINITION. The scheduler (R106, R107, R113, R114, R127 to R131, R139 to R141, R160): queue windows, the choice of the next gang,
retirement and joins, the decisions of pre-emption, and the wakes of waiting splits.
-/
namespace Sys2Proof.Machine

/-- A gang or record that waits for resources (R114). -/
structure Newcomer where
  saved : Option Nat
  queue : Nat
  prio : Nat
  time : Nat
  image : Image
  ctx : Nat

/-- Rank (R114). -/
def Newcomer.before (a b : Newcomer) : Bool :=
  decide (b.prio < a.prio) || (a.prio == b.prio && ((a.saved.isSome && b.saved.isNone) || (a.saved.isSome == b.saved.isSome &&
    (decide (a.time < b.time) || (a.time == b.time && decide (a.queue < b.queue))))))
def bestCand (l : List Newcomer) : Option Newcomer :=
  match l with
  | [] => none
  | c :: r => some (r.foldl (fun o x => if x.before o then x else o) c)

namespace State

-- ## Queue windows (R106, R107)

def windowPa (q off : Nat) : Nat := 0x400040000000 + 4096 * q + off

/-- A write that reaches a queue's window; the PCI Express port stamps its records (R14). Before the part is up it is discarded
(R443). -/
def windowWrite (s : State) (qn off : Nat) (data : List Byte) : State :=
  let rec_ := fun (c : Option Nat) => s.logErr { errBase c 0x868 0x09 with paddr := windowPa qn off }
  if s.inReset then s else match s.queue? qn with
  | none => rec_ none
  | some q =>
    if data.length ≠ 64 ∨ off % 64 ≠ 0 ∨ 0xFBF < off then rec_ (some q.owner)
    else if queueRoom q = 0 then (s.setQueue qn { q with drops := (q.drops + 1) % 2 ^ 32 }).ctxMsg q.owner 18
    else s.appendRecord (schedSrc 0) qn data none

-- ## Candidates (R114)

/-- The head record of a queue, when it passes checks 1 to 6. -/
def headCand (s : State) (qn : Nat) (q : Queue) : Option Newcomer :=
  match s.headRecord q with
  | none => none
  | some r => match s.checkRecord q r with
    | .error _ => none
    | .ok i => some { saved := none, queue := qn, prio := recPrio r, time := (q.waiting.headD (0, none)).1, image := i, ctx := q.owner }

def savedCand (n : Nat) (g : Gang) : Option Newcomer :=
  match g.saved with
  | some t => some { saved := some n, queue := g.queue, prio := recPrio g.rec_, time := t, image := g.image, ctx := g.ctx }
  | none => none

/-- Whether a group of a gang has bound a guide target (R386), or holds a guide ring (R299). -/
def gangBound (s : State) (n : Nat) : Bool := s.groups.any fun x => x.2.gang == n && x.2.scene.guide.isSome
def gangRing (s : State) (n : Nat) : Bool := s.groups.any fun x => x.2.gang == n && x.2.tile.ring.rslots != 0

/-- A place for a candidate now. -/
def candPlace (s : State) (c : Newcomer) : Option Place :=
  match c.saved with
  | none => s.placeNew c.image
  | some n =>
    let g := s.gang n
    match c.image.kind with
    | .shading => s.placeShading c.image (allCores.filter fun x => !s.gangBound n || dieOf x == dieOf g.core)
    | .tensor => s.placeTensor c.image fun x y => !s.gangRing n || (x == g.x0 && y == g.y0)

/-- A record whose window table cannot be loaded yet (R269): the page to report. -/
def windowBlocked (s : State) (c : Newcomer) : Option Nat :=
  match c.saved, c.image.kind with
  | none, .tensor => match s.winLoad c.ctx c.image with
    | .error (i, n) => s.winRetry c.ctx c.image i n
    | .ok _ => none
  | _, _ => none

def candidates (s : State) : List Newcomer :=
  s.queues.filterMap (fun x => s.headCand x.1 x.2) ++ s.gangs.filterMap fun x => savedCand x.1 x.2

/-- Those that a free resource would take. -/
def eligible (s : State) : List Newcomer := s.candidates.filter fun c => (s.candPlace c).isSome && (s.windowBlocked c).isNone

-- ## Dispatch (R110, R111, R114, R139)

/-- Place the head record of a queue. -/
def dispatchHead (s : State) (qn : Nat) (c : Newcomer) (pl : Place) : State :=
  match s.queue? qn with
  | none => s
  | some q =>
    match s.headRecord q with
    | none => s
    | some r =>
      let load := match c.image.kind with | .tensor => s.winLoad q.owner c.image | .shading => .ok []
      match load with
      | .error (i, n) => s.discardHead qn q r 7 (2 ^ 8 * n + 2 ^ 16 * i)
      | .ok wins =>
        let q' := if !orderedRec r then q
          else if recGidx r = 0 then { q with jobtag := recJobtag r, gcount := recGcount r, nextGidx := 1, jobNo := q.jobNo + 1 }
          else { q with nextGidx := q.nextGidx + 1 }
        let n := s.nextGang
        let s := (s.popHead qn q').startGang q.owner qn c.image r (match q.waiting with | w :: _ => w.2 | [] => none) wins pl
        s.setGang n { s.gang n with job := q'.jobNo }

/-- Dispatch: the best eligible candidate, when it is a record, takes its place; records whose windows wait are reported. -/
def dispatchNext (s : State) : State :=
  let s := s.candidates.foldl (fun s c =>
    match s.candPlace c, s.windowBlocked c with
    | some _, some page => s.noteService { ctx := c.ctx, die := 16, gang := none, depth := 0 } (schedSrc 0) (page / 65536 * 65536)
    | _, _ => s) s
  match bestCand s.eligible with
  | none => s
  | some c => match c.saved, s.candPlace c with
    | none, some pl => s.dispatchHead c.queue c pl
    | _, _ => s

/-- The head record of a queue fails a check: it is popped and discarded (R110). -/
def checkHead (s : State) (qn : Nat) : State :=
  match s.queue? qn with
  | none => s
  | some q => match s.headRecord q with
    | none => s
    | some r => match s.checkRecord q r with
      | .error n => s.discardHead qn q r n 0
      | .ok _ => s

-- ## Retirement (R43, R113, R395)

/-- Nothing of the gang is under way: its groups have ended, and their stores, transfers and held operations are performed. -/
def gangDone (s : State) (n : Nat) : Bool :=
  s.gangs.any (·.1 == n) && (s.gang n).alive == 0 && resident (s.gang n)
    && s.pend.all (fun x => x.grp / 128 != n)
    && s.groups.all fun x => x.2.gang != n || (x.2.splits == [] && x.2.xfers == [] && x.2.held == [] && x.2.tile.swb == [])

/-- The order (gang, group, lane) of ATOMF at job end (R43). -/
def atomfBelow (a b : HeldAtomf) : Bool :=
  decide (a.gidx < b.gidx) || (a.gidx == b.gidx && (decide (a.group < b.group) || (a.group == b.group && decide (a.lane ≤ b.lane))))
def insertAtomf (x : HeldAtomf) : List HeldAtomf → List HeldAtomf
  | [] => [x]
  | y :: r => if atomfBelow y x then y :: insertAtomf x r else x :: y :: r

/-- The held ATOMFs of an ordered job are applied when its last gang has retired. -/
def endJob (s : State) (qn job : Nat) : State :=
  let mine := (s.atomfs.filter fun h => h.queue == qn && h.job == job).foldl (fun l x => insertAtomf x l) []
  let s := { s with atomfs := s.atomfs.filter fun h => !(h.queue == qn && h.job == job) }
  mine.foldl (fun s h => (s.atomicAt h.src h.pa 4 (AtomReq.flt h.op h.w h.x).apply).1) s

/-- One more gang of an ordered job has retired. -/
def jobStep (s : State) (g : Gang) : State :=
  match s.queue? g.queue with
  | none => s
  | some q =>
    let n := Sparse.get 0 q.jobDone g.job + 1
    let s := s.setQueue g.queue { q with jobDone := Sparse.insert q.jobDone g.job n }
    if n = recGcount g.rec_ then s.endJob g.queue g.job else s

def retireGang (s : State) (n : Nat) : State :=
  let g := s.gang n
  let s := if orderedRec g.rec_ then s.jobStep g else s
  let s := match g.fillOf with
    | some (r, b) => if s.isGenerator (some n) r b then s.failBlock r b 0x0F else s
    | none => s
  let s := (s.endFrags n false).freeGang n
  if recJoin g.rec_ = 0 then s
  else
    let qd := quadrantOf (dieOf g.core)
    { s with heldJoin := s.heldJoin ++ [{ ctx := g.ctx, addr := recJoin g.rec_, src := schedSrc qd, quadrant := qd,
                                          jobtag := recJobtag g.rec_, gidx := recGidx g.rec_ }] }

/-- A join decrement (R113): it fails, waits for its page, or is made. -/
def decrementJoin (s : State) (idx : Nat) : State :=
  match nth? s.heldJoin idx with
  | none => s
  | some h =>
    let q : Req := { ctx := h.ctx, die := 16 + h.quadrant, gang := none, depth := 0 }
    let r := { errBase (some h.ctx) h.src 0x13 with jobtag := h.jobtag, gidx := h.gidx }
    let s' := { s with heldJoin := dropNth s.heldJoin idx }
    let proc := match s.seeLeaf q h.addr with | .leaf _ e _ => leafProc e | .bad _ _ _ => false
    if h.addr % 64 ≠ 0 then s'.joinRec r h.addr 4
    else if 2 ^ 52 ≤ h.addr then s'.joinRec r h.addr 5
    else if proc then s'.joinRec r h.addr 5
    else match s.unitReach q h.src h.addr .rw with
      | .bad _ sub _ reason => s'.joinRec r h.addr (if reason = 0 then sub else reason)
      | .wait s => s
      | .ok t pa => State.joinStep { t with heldJoin := dropNth t.heldJoin idx } q r h.src h.addr pa (2 ^ 64 - 1)

/-- A held record is appended once its queue has room, records of one queue in the order they were held (R113, R131). -/
def pushHeld (s : State) (idx : Nat) (again : Bool) : State :=
  match nth? s.heldPush idx with
  | none => s
  | some h =>
    if h.again != again || (s.heldPush.take idx).any fun x => x.queue == h.queue then s
    else match s.queue? h.queue with
      | none => { s with heldPush := dropNth s.heldPush idx }
      | some q =>
        if q.owner ≠ h.ctx then { s with heldPush := dropNth s.heldPush idx }
        else if queueRoom q = 0 then s
        else State.appendRecord { s with heldPush := dropNth s.heldPush idx } h.src h.queue h.rec_ h.fill

-- ## Pre-emption (R127 to R131)

/-- The package as it would be without a gang's resources. -/
def without (s : State) (n : Nat) : State := s.setGang n { s.gang n with saved := some 0 }

/-- A candidate that is not placeable, and would be without gang n. -/
def wouldPlace (s : State) (n : Nat) (c : Newcomer) : Bool :=
  c.saved != some n && (s.candPlace c).isNone && ((s.without n).candPlace c).isSome

/-- The best candidate that wants a gang's resources and has at least a PRIO. -/
def wants (s : State) (n prio : Nat) : Option Newcomer := bestCand (s.candidates.filter fun c => decide (prio ≤ c.prio) && s.wouldPlace n c)

/-- The remaining estimate in microseconds; none when it is unknown (R130). -/
def estimate (s : State) (g : Gang) : Option Nat := if g.est = 0 then none else some (g.est - (s.sid - g.estAt) / 1000)

/-- Bytes of one save area, and the areas a gang needs (R133). -/
def areaBytes (i : Image) : Nat :=
  match i.kind with
  | .shading => (0x500 + 8 * i.nk + 128 * i.nv + 4096 * (i.nt + 1) + 63) / 64 * 64
  | .tensor => 10485760
def areaStep (i : Image) : Nat := (areaBytes i + 65535) / 65536 * 65536

/-- Free areas of a context's pool for a gang: 64 KiB aligned, the lowest that overlap none in use. -/
def findAreas (pool size step : Nat) : Nat → Nat → List (Nat × Nat) → List Nat → Option (List Nat)
  | 0, _, _, _ => none
  | fuel + 1, want, used, acc =>
    if want = 0 then some acc
    else
      let at_ := fun (k : Nat) => pool + 65536 * k
      match (List.range (size / 65536)).find? fun k =>
        decide (at_ k + step ≤ pool + size) && used.all fun u => !overlaps u.1 u.2 (at_ k) step with
      | none => none
      | some k => findAreas pool size step fuel (want - 1) ((at_ k, step) :: used) (acc ++ [at_ k])

/-- Areas in use by the saved gangs of a context. -/
def usedAreas (s : State) (ctx : Nat) : List (Nat × Nat) :=
  (s.gangs.filter fun x => x.2.ctx == ctx).flatMap fun x => x.2.areas.map fun a => (a, areaStep x.2.image)

def gangAreas (s : State) (g : Gang) : Option (List Nat) :=
  let c := s.ctx g.ctx
  findAreas c.savePool c.saveSize (areaStep g.image) (g.ngroups + 1) g.ngroups (s.usedAreas g.ctx) []

/-- Whether a group of a gang holds a meshlet (R386). -/
def heldMeshlet (s : State) (n : Nat) : Bool := s.groups.any fun x => x.2.gang == n && (x.2.scene.verts != [] || x.2.scene.prims != [])

/-- Whether a gang is a fragment group's (R386: never checkpointed or killed). -/
def fragGang (s : State) (n : Nat) : Bool := s.frags.any fun x => x.2.gang == some n

/-- The rows of R130 for a victim; `drainOk` leaves out row 1. -/
def decideVictim (s : State) (n prio : Nat) (drainOk : Bool) : State :=
  let g := s.gang n
  let row1 := drainOk && drainable g.rec_ && (match s.estimate g with | some e => decide (e ≤ s.drainlim) | none => false)
  let row2 := checkpointable g.rec_ && !s.heldMeshlet n && (s.gangAreas g).isSome
  let row3 := killable g.rec_ && decide (recPrio g.rec_ < prio)
  if row1 then s.setGang n { g with drain := some s.sid }
  else if s.fragGang n then s.setGang n { g with drain := none }
  else if row2 then s.setGang n { g with drain := none, preempt := some (s.sid, false) }
  else if row3 then s.setGang n { g with drain := none, preempt := some (s.sid, true) }
  else s.setGang n { g with drain := none }

/-- The end of a gang's quantum (R129). -/
def endQuantum (s : State) (n : Nat) : State :=
  let g := s.gang n
  if !(s.gangs.any (·.1 == n)) || !resident g || decide (s.sid < g.quantumEnd) then s
  else
    let s := s.setGang n { g with quantumEnd := s.sid + s.quantum }
    if g.drain.isSome || g.preempt.isSome then s
    else match s.wants n (recPrio g.rec_) with
      | some c => s.decideVictim n c.prio true
      | none => s

/-- The victim of a priority trigger for a candidate: lowest PRIO, earliest dispatch, lowest source number (R130). -/
def victimFor (s : State) (c : Newcomer) : Option Nat :=
  let l := s.gangs.filter fun x => resident x.2 && decide (recPrio x.2.rec_ < c.prio) && s.wouldPlace x.1 c
  let lower := fun (a b : Nat × Gang) =>
    decide (recPrio a.2.rec_ < recPrio b.2.rec_) || (recPrio a.2.rec_ == recPrio b.2.rec_ && (decide (a.2.dispatched < b.2.dispatched)
      || (a.2.dispatched == b.2.dispatched && decide (a.2.core < b.2.core))))
  match l with
  | [] => none
  | x :: r => some (r.foldl (fun o y => if lower y o then y else o) x).1

/-- A priority trigger, for the best candidate that cannot be placed and has a victim. -/
def priority (s : State) : State :=
  match bestCand (s.candidates.filter fun c => (s.candPlace c).isNone && (s.victimFor c).isSome) with
  | none => s
  | some c => match s.victimFor c with
    | none => s
    | some n => if (s.gang n).drain.isSome || (s.gang n).preempt.isSome then s else s.decideVictim n c.prio true

/-- A drain that has not ended after 2 × DRAINLIM (R131). -/
def endDrain (s : State) (n : Nat) : State :=
  let g := s.gang n
  match g.drain with
  | some t =>
    if s.sid < t + 2000 * s.drainlim ∨ s.gangs.any (·.1 == n) = false then s
    else match s.wants n 0 with
      | some c => s.decideVictim n c.prio false
      | none => s.setGang n { g with drain := none }
  | none => s

/-- A split at trap level with traps masked holds a request (R127). -/
def maskedHandler (x : Split) : Bool := x.tlev && x.tmsk

/-- An ordered gang is pre-empted where every group stands at the end of a quantum (R141). -/
def atQuantumEnd (s : State) (n : Nat) : Bool :=
  !orderedRec (s.gang n).rec_ || s.groups.all fun x => x.2.gang != n || x.2.splits == [] || (x.2.retired == 0 && x.2.held == [])

/-- A decided pre-emption may take effect. -/
def mayPreempt (s : State) (n : Nat) : Bool :=
  s.atQuantumEnd n && s.groups.all fun x => x.2.gang != n || x.2.splits.all fun y => !maskedHandler y.2

/-- The handler budget of a split has run out: the gang is killed, and its record is not appended (R127). -/
def budgetEnd (s : State) (grp split : Nat) : State :=
  let g := s.group grp
  let x := Sparse.get Split.zero g.splits split
  if (s.gang g.gang).preempt.isSome && s.hasSplit grp split && maskedHandler x && decide (65536 ≤ x.budget) then
    s.killGangAs g.gang false 0x14 0x14 0 x.pc
  else s

-- ## Ordered quanta (R43, R141, R218)

/-- A group whose quantum has ended: 4,096 bundles, a value-returning atomic, or its end. -/
def quantumOver (g : Group) : Bool := decide (4096 ≤ g.retired) || g.commitWait || (g.splits == [] && (g.held != [] || g.retired != 0))
def commitGroup (s : State) (grp : Nat) : State :=
  let g := s.group grp
  if s.groups.any (·.1 == grp) && orderedRec (s.gang g.gang).rec_ && resident (s.gang g.gang) && quantumOver g && s.commitAllowed grp then
    s.commit grp
  else s

-- ## Timers, sleeps and semaphore words (R154, R160, R161)

/-- %timer of a group (R137). -/
def timerOf (s : State) (g : Group) : Nat := g.timer + (s.cycle - g.since)

/-- A pending or due TIMER trap of a group: it is raised, and taken by the lowest split that qualifies. -/
def timerEvent (s : State) (grp : Nat) : State :=
  let g := s.group grp
  if !(s.groups.any (·.1 == grp)) || !resident (s.gang g.gang) then s
  else
    let due := g.r.arm && decide (g.r.tcmp.toNat ≤ s.timerOf g)
    let g := if due then { g with r := { g.r with arm := false }, timerPend := true, tile := { g.tile with raised := true } } else g
    let s := if due then s.setGroup grp g else s
    if !g.timerPend then s
    else
      let ok := fun (x : Nat × Split) => !x.2.tlev && !x.2.tmsk && (x.2.waits == [] || g.kind == .tensor)
      match g.splits.find? ok with
      | none => s
      | some x => State.takeTrap ((s.setGroup grp { g with timerPend := false }).asSplit grp x.1) (mkTrap .timer 0 0 0)

/-- Change the waits of one split. -/
def modWaits (s : State) (grp split : Nat) (f : List Wait → List Wait) : State :=
  if s.hasSplit grp split then
    let g := s.group grp
    let x := Sparse.get Split.zero g.splits split
    s.setGroup grp { g with splits := Sparse.insert g.splits split { x with waits := f x.waits } }
  else s

end State
open State

/-- A write to a queue window (R106, R107). -/
def execQueueWindowWrite (q off : Nat) (data : List Byte) (s : State) : Out := .next (s.windowWrite q off data)
/-- Checks 1 to 6 of a head record (R110). -/
def execRecordCheck (q : Nat) (s : State) : Out := .next (s.checkHead q)
/-- Dispatch (R110, R111, R114). -/
def execDispatch (s : State) : Out := .next s.dispatchNext
/-- A gang retires (R113). -/
def execGangRetire (gang : Nat) (s : State) : Out := .next (if s.gangDone gang then s.retireGang gang else s)
/-- A join decrement (R113). -/
def execJoinDecrement (idx : Nat) (s : State) : Out := .next (s.decrementJoin idx)
/-- A continuation that waited for room is pushed (R113). -/
def execContinuationPush (idx : Nat) (s : State) : Out := .next (s.pushHeld idx false)
/-- The end of a quantum (R129). -/
def execQuantumEnd (gang : Nat) (s : State) : Out := .next (s.endQuantum gang)
/-- A priority trigger (R130). -/
def execPriorityTrigger (s : State) : Out := .next s.priority
/-- The end of a drain's time (R131). -/
def execDrainLimit (gang : Nat) (s : State) : Out := .next (s.endDrain gang)
/-- The record of a killed task that waited for room is appended (R131). -/
def execRecordReappend (idx : Nat) (s : State) : Out := .next (s.pushHeld idx true)
/-- A handler budget runs out (R127). -/
def execHandlerBudget (grp split : Nat) (s : State) : Out := .next (s.budgetEnd grp split)
/-- An ordered commit (R43, R141). -/
def execOrderedCommit (grp : Nat) (s : State) : Out := .next (s.commitGroup grp)
/-- A TIMER trap is raised or taken (R160). -/
def execTimerTrap (grp : Nat) (s : State) : Out := .next (s.timerEvent grp)
/-- A sleeping split whose time has come goes on (R161). -/
def execSleepWake (grp split : Nat) (s : State) : Out :=
  .next (s.modWaits grp split fun l => l.filter fun w => match w with | .sleep t => decide (s.sid < t) | _ => true)
/-- A parked SEMWAIT may try again (R154). -/
def execSemwaitRetry (grp split : Nat) (s : State) : Out :=
  .next (s.modWaits grp split fun l => l.map fun w => match w with | .sem p t _ => .sem p t true | w => w)

end Sys2Proof.Machine
end

