-- ==== Sys2Proof/Machine/Save.lean ====
section
/-!
DEFINITION. Save and restore of a gang (R132 to R137): the byte images of its save areas (R134 to R136, R167, R300, R301, R333, R334,
R353), and the events that perform them. The saved gang also stays in the state as data, from which it is restored.
-/
namespace Sys2Proof.Machine

/-- Pieces of a save area: offset and bytes. -/
abbrev Pieces := List (Nat × List Byte)

-- ## Registers

def kImage (r : Regs) (n : Nat) : List Byte := (List.range n).flatMap fun i => leBytes 8 (Sparse.get 0 r.k i).toNat
def vImage (r : Regs) (n vl : Nat) : List Byte :=
  (List.range n).flatMap fun i => (List.range vl).flatMap fun l => leBytes 4 (Sparse.get 0 r.v (64 * i + l)).toNat
def pImage (r : Regs) (bytes vl : Nat) : List Byte :=
  (List.range 16).flatMap fun i => leBytes bytes (if i = 0 then 2 ^ vl - 1 else (Sparse.get 0 r.p i).toNat)
def fImage (r : Regs) : List Byte := (List.range 4).flatMap fun i => leBytes 4 (Sparse.get 0 r.f i).toNat
def tImage (r : Regs) (n size : Nat) : List Byte := (List.range n).flatMap fun i => padTo 0 size (Sparse.get [] r.t i)
def lfsrImage (r : Regs) (vl : Nat) : List Byte := (List.range vl).flatMap fun l => leBytes 4 (Sparse.get 0 r.lfsr l).toNat

/-- A tile's register image (R135). -/
def regsImage (r : Regs) (pc : Nat) : Pieces :=
  [ (0x00000, leBytes 8 pc), (0x00008, leBytes 8 (bit r.fz16)), (0x00010, leBytes 8 r.srseed.toNat), (0x00018, leBytes 8 r.tcmp.toNat)
  , (0x00020, leBytes 8 (bit r.arm)), (0x00028, leBytes 88 0), (0x00080, pImage r 8 64), (0x00100, fImage r), (0x00110, leBytes 240 0)
  , (0x00200, lfsrImage r 64), (0x00300, leBytes 256 0), (0x00400, kImage r 64), (0x00600, vImage r 64 64)
  , (0x04600, (List.range 2048).flatMap fun j => leBytes 4 (r.acc.get j).toNat), (0x06600, tImage r 32 8192) ]

def shiftPieces (o : Nat) (l : Pieces) : Pieces := l.map fun x => (o + x.1, x.2)

-- ## Transform state (R353)

def bindByte (b : Option XBind) : List Byte := leBytes 1 (match b with | some x => 128 + x.code | none => 0)
def tabByte (b : Option TReg) : List Byte := leBytes 1 (match b with | some t => 128 + t.val | none => 0)
def queueWords (n : Nat) (x : XUnitSt) : List Byte :=
  (List.range n).flatMap fun i => leBytes 8 (match nth? x.queue i with | some o => o.done.getD 0 | none => 0)

/-- One transform copy of a tile. -/
def xfmImage (units : Sparse XUnitSt) (exc : Sparse ExcChan) : Pieces :=
  let unit := fun (u : XUnit) =>
    let x := Sparse.get (XUnitSt.zero u) units u.code
    (0x80 * u.code, leBytes 4 x.src ++ leBytes 4 x.dst ++ leBytes 4 x.len ++ bindByte x.inp ++ bindByte x.out ++ tabByte x.tab
      ++ leBytes 1 x.queue.length ++ leBytes 4 x.cfg ++ leBytes 44 0 ++ queueWords 4 x ++ leBytes 32 0)
  [XUnit.dcz, .spx, .exc, .mxq].map unit ++ [(0x200, leBytes 0xE00 0)]
    ++ (List.range 16).map (fun c =>
      let ch := Sparse.get ExcChan.zero exc c
      (0x1000 + 528 * c, (List.range 256).flatMap (fun e => leBytes 2 (Sparse.get 0 ch.h e)) ++ ch.tbl.flatMap (leBytes 1)))
    ++ [(0x3100, leBytes 0xF00 0)]

/-- The transform state of a shading group, bytes 0x250 to 0x27F. -/
def shadeXfm (g : Group) : List Byte :=
  let d := getUnit g .dcz
  let x := getUnit g .spx
  leBytes 2 d.len ++ bindByte d.inp ++ bindByte d.out ++ tabByte d.tab ++ leBytes 1 d.queue.length ++ leBytes 1 d.cfg ++ leBytes 1 0
    ++ queueWords 1 d ++ leBytes 2 x.len ++ bindByte x.inp ++ bindByte x.out ++ leBytes 1 0 ++ leBytes 1 x.queue.length ++ leBytes 2 0
    ++ leBytes 4 x.cfg ++ leBytes 4 0 ++ queueWords 1 x ++ leBytes 8 0

-- ## A shading group (R134, R167)

def splitOf (g : Group) (i : Nat) : Split := Sparse.get Split.zero g.splits i
def fourOf (g : Group) (f : Split → List Byte) : List Byte := (List.range 4).flatMap fun i => f (splitOf g i)
def fourBits (g : Group) (f : Split → Bool) : Nat := (List.range 4).foldl (fun m i => if f (splitOf g i) then setBit m i true else m) 0

/-- Replays of a split. -/
def replaysOf (x : Split) : List Replay := x.waits.filterMap fun w => match w with | .mem r => some r | _ => none
def parkedPage (x : Split) : Bool := (replaysOf x).any fun r => r.why.any fun y => match y.2 with | .block _ _ => false | _ => true
def parkedFill (x : Split) : Bool := (replaysOf x).any fun r => r.why.any fun y => match y.2 with | .block _ _ => true | _ => false

/-- Captured addresses in lane order, and the completed rows of a parked tile load. -/
def replayAddrs (g : Group) : List Byte :=
  (List.range 32).flatMap fun l =>
    leBytes 8 (((g.splits.flatMap fun x => (replaysOf x.2).flatMap (·.todo)).find? fun a => a.lane == l).elim 0 (·.va))
def replayTile (g : Group) : List Byte :=
  ((g.splits.flatMap fun x => (replaysOf x.2).flatMap (·.rows)).foldl (fun b r => match r.1 with
    | .row _ i => patch b (64 * i) r.2.1
    | _ => b) (leBytes 4096 0))

def shadeImage (rec_ : List Byte) (i : Image) (g : Group) : Pieces :=
  let defer := (List.range 4).flatMap fun k => (splitOf g k).stack.reverse
  let o := 0x500 + 8 * i.nk
  [ (0x000, padTo 0 64 rec_), (0x040, fourOf g fun x => leBytes 8 x.pc), (0x060, fourOf g fun x => leBytes 4 x.mask)
  , (0x070, leBytes 1 (fourBits g (·.tlev))), (0x071, leBytes 1 (fourBits g (·.tmsk))), (0x072, fourOf g fun x => leBytes 1 x.stack.length)
  , (0x076, leBytes 1 (fourBits g parkedPage + 16 * fourBits g parkedFill)), (0x077, leBytes 1 (bit g.r.arm + 2 * bit g.timerPend))
  , (0x078, leBytes 8 g.cyc), (0x080, leBytes 8 g.timer), (0x088, leBytes 8 g.r.tcmp.toNat), (0x090, leBytes 8 (bit g.r.fz16))
  , (0x098, leBytes 8 g.r.srseed.toNat), (0x0A0, fourOf g fun x => leBytes 8 x.tepc ++ leBytes 8 x.taddr ++ leBytes 4 x.tcause)
  , (0x0F0, leBytes 8 g.tvec), (0x0F8, leBytes 8 g.barFlags), (0x100, replayAddrs g), (0x200, pImage g.r 4 32), (0x240, fImage g.r)
  , (0x250, shadeXfm g), (0x280, lfsrImage g.r 32)
  , (0x300, padTo 0 512 (defer.flatMap fun e => leBytes 8 e.1 ++ leBytes 4 e.2 ++ leBytes 4 0)), (0x500, kImage g.r i.nk)
  , (o, vImage g.r i.nv 32), (o + 128 * i.nv, replayTile g), (o + 128 * i.nv + 4096, tImage g.r i.nt 4096) ]

-- ## A tensor tile (R135, R136, R167, R300, R301, R334)

/-- The entries of the store-withholding buffer, each with the boundary that stands before it. -/
def swbImages : Option Nat → List SwbEnt → List (List Byte)
  | _, [] => []
  | _, .boundary sc :: r => swbImages (some sc.code) r
  | b, .store pa d p lane stl :: r =>
    let off := pa % 64
    let ent := patch (leBytes 64 0) off d ++ leBytes 8 (pa - off) ++ leBytes 8 ((2 ^ d.length - 1) * 2 ^ off)
      ++ leBytes 1 (match stl with | some sc => 1 + 16 * sc.code | none => 0) ++ leBytes 1 (match b with | some c => 1 + 2 * c | none => 0)
      ++ leBytes 1 0 ++ leBytes 1 0 ++ leBytes 1 lane ++ leBytes 35 0
    padTo 0 128 ent :: swbImages none r
  | b, .atomic pa q lane dst :: r =>
    let uni := match dst with | .kreg _ _ => true | _ => false
    let dreg := match dst with | .kreg d _ => d | .lane d _ _ _ => d | _ => 0
    let k := match q with
      | .int o w x => (if uni then 5 else 2, o.code + 8 * w.code, x, 0)
      | .flt o w x => (3, o.code + 8 * w.code, x, 0)
      | .cas wide c n => (if uni then 5 else 4, (if uni then 7 else 0) + 8 * (if wide then 2 else 0), c, n)
    let ent := leBytes 64 0 ++ leBytes 8 pa ++ leBytes 8 0 ++ leBytes 1 k.1 ++ leBytes 1 (match b with | some c => 1 + 2 * c | none => 0)
      ++ leBytes 1 k.2.1 ++ leBytes 1 dreg ++ leBytes 1 lane ++ leBytes 3 0 ++ leBytes 8 k.2.2.1 ++ leBytes 8 k.2.2.2 ++ leBytes 24 0
    ent :: swbImages none r
/-- An unused entry. -/
def swbNone : List Byte := leBytes 80 0 ++ leBytes 1 15 ++ leBytes 47 0

def streamImage (x : Stream) : List Byte :=
  leBytes 4 x.base ++ leBytes 1 (128 * bit (x.dir != .unbound) + 4 * x.esz + 2 * bit x.wrap + bit (x.dir == .wr)) ++ leBytes 1 0
    ++ x.c.flatMap (leBytes 2) ++ x.d.flatMap (fun d => leBytes 3 (wrapTo 24 d)) ++ leBytes 4 x.consShown ++ leBytes 2 0

def ringImage (t : Tile) : List Byte :=
  let r := t.ring
  let c := t.ckRing
  leBytes 4 r.rbase ++ leBytes 1 r.rslots ++ leBytes 1 r.rsem ++ leBytes 2 0 ++ leBytes 4 r.take ++ leBytes 4 r.rel ++ leBytes 4 r.relpend
    ++ leBytes 4 r.deliv ++ leBytes 4 c.take ++ leBytes 4 c.rbase ++ leBytes 1 c.rslots ++ leBytes 1 c.rsem ++ leBytes 1 t.mcsems.length
    ++ leBytes 29 0 ++ padTo 0 64 (t.mcsems.flatMap fun m => leBytes 4 (m.1 + 2 ^ 15 * m.2))

def matImage (m c : Mat) : List Byte :=
  leBytes 2 m.mopw ++ leBytes 2 c.mopw ++ leBytes 1 m.lp ++ leBytes 1 m.pp ++ leBytes 1 m.dp ++ leBytes 1 0 ++ leBytes 1 c.lp ++ leBytes 1 c.pp
    ++ leBytes 1 c.dp ++ leBytes 501 0

/-- The deferred push: DPTYPE, DPQUEUE and DPREC (R167). -/
def pushImage : DPush → Nat × Nat × List Byte
  | .none => (0, 0, [])
  | .spawn q r => (1, q, r)
  | .spawng q r _ => (2, q, r)
  | .joinw va _ d bind => (if bind then 4 else 3, 0, leBytes 8 va ++ leBytes 8 d)

def tileImage (rec_ : List Byte) (g : Group) : Pieces :=
  let t := g.tile
  let x := splitOf g 0
  let dp := pushImage t.dpush
  [ (0x000000, padTo 0 64 rec_)
  , (0x000040, leBytes 8 (1 + 2 * bit t.mat.frozen + 4 * bit x.tlev + 8 * bit x.tmsk + 16 * bit g.timerPend))
  , (0x000048, leBytes 8 g.cyc), (0x000050, leBytes 8 g.timer), (0x000058, leBytes 8 g.tvec), (0x000060, leBytes 8 x.tepc)
  , (0x000068, leBytes 8 x.tbad), (0x000070, leBytes 8 x.taddr), (0x000078, leBytes 4 x.tcause), (0x00007C, leBytes 1 dp.1)
  , (0x00007D, leBytes 3 0), (0x000080, leBytes 8 dp.2.1), (0x000088, padTo 0 64 dp.2.2), (0x0000C8, leBytes 8 g.barFlags)
  , (0x0000D0, (List.range 8).flatMap fun b => leBytes 2 (Sparse.get 0 t.credit b)), (0x0000E0, leBytes 32 0)
  , (0x000100, (List.range 16).flatMap fun i => leBytes 8 (Sparse.get 0 t.semCount i)), (0x000180, ringImage t)
  , (0x000200, padTo 0 2048 (t.wins.flatMap fun w => leBytes 8 w.vbase ++ leBytes 8 w.len ++ leBytes 8 w.pbase ++ leBytes 8 w.perm))
  , (0x000A00, (List.range 16).flatMap fun i => streamImage (getStream t i) ++ streamImage (Sparse.get Stream.zero t.ckStreams i))
  , (0x000E00, matImage t.mat t.ckMat) ]
  ++ shiftPieces 0x001000 (regsImage g.r x.pc) ++ shiftPieces 0x047600 (regsImage t.ck t.ckpc)
  ++ (let l := swbImages none t.swb
      (List.range 256).map fun i => (0x08DC00 + 128 * i, l.getD i swbNone))
  ++ (let j := t.journal.reverse
      (List.range 512).flatMap fun i =>
        [(0x095C00 + 64 * i, padTo 0 64 (j.getD i (0, [], [])).2.1), (0x09DC00 + 8 * i, leBytes 8 (j.getD i (0, [], [])).1)])
  ++ (List.range 128).map (fun p => (0x0A0000 + 8192 * p, scanImage t.mat t.ckMat p))
  ++ shiftPieces 0x1A0000 (xfmImage g.xfm t.exc) ++ shiftPieces 0x1A4000 (xfmImage t.ckXfm t.ckExc)
  ++ (List.range 131072).map (fun i => (0x200000 + 64 * i, spadGet t (64 * i) 64))

namespace State

/-- Write pieces of a save area through the context's tables, as the scheduler. -/
def writePieces (s : State) (ctx src area : Nat) (l : Pieces) : State :=
  l.foldl (fun s x => (lineCuts (area + x.1) x.2.length).foldl (fun s c =>
    match s.ringWritable ctx c.1 with
    | some pa => s.storeNow src pa ((x.2.drop (c.1 - (area + x.1))).take c.2) false
    | none => s) s) s

/-- Every scoreboard-tracked result of a gang is written, and no traversal is in flight (R132, R386). -/
def quiet (s : State) (n : Nat) : Bool :=
  s.replies.all (fun r => r.grp / 128 != n)
    && s.groups.all fun x => x.2.gang != n || (x.2.xfers == [] && x.2.splits.all fun y => y.2.waits.all fun w => match w with
      | .mem { instr := some (.trace _ _ _ _ _), .. } | .mem { instr := some (.tacc _ _ _ _), .. } | .ending => false
      | _ => true)

/-- A group as it is saved: its engines settle, waits that only hold a bundle go, and its counters stop (R132, R137, R299). -/
def settleTile (t : Tile) : Tile :=
  (List.range 16).foldl (fun t i =>
    let x := getStream t i
    match x.dir with
    | .wr => drainStream t i x.held
    | .rd => setStream t i { x with buf := [] }
    | .unbound => t) { t with matBusy := [] }
def settleGroup (s : State) (g : Group) : Group :=
  let g := xCompleteAll g
  let dt := s.cycle - g.since
  { g with
      tile := settleTile g.tile
      cyc := g.cyc + dt
      timer := g.timer + dt
      since := s.cycle
      splits := g.splits.map fun x =>
        (x.1, { x.2 with fsc := .idle, waits := x.2.waits.filter fun w => match w with | .sem _ _ _ => false | _ => true }) }

/-- Save a gang: the byte images go to its areas, and it waits for restore (R131 to R133). -/
def saveGang (s : State) (n : Nat) (areas : List Nat) : State :=
  let g := s.gang n
  let keys := (s.groups.filter fun x => x.2.gang == n).map (·.1)
  let s := keys.foldl landAll s
  let s := keys.foldl (fun s k => s.setGroup k (s.settleGroup (s.group k))) s
  let src := gangSrc g
  let mine := fun (_ : Nat) (b : CByte) => b.ctx == g.ctx
  let s := match g.image.kind with
    | .shading => (s.writeBack (s.l1Id g.core) (dieOf g.core) g.core mine).dropClean (s.l1Id g.core) (dieOf g.core) mine
    | .tensor => s
  let s := (keys.zip areas).foldl (fun s x =>
    let gr := s.group x.1
    s.writePieces g.ctx src x.2 (match g.image.kind with
      | .shading => shadeImage g.rec_ g.image gr
      | .tensor => tileImage g.rec_ { gr with tile := { gr.tile with mat := { gr.tile.mat with frozen := gr.tile.mat.frozen } } })) s
  let s := s.setGang n { g with saved := some s.sid, areas := areas, preempt := none, drain := none }
  match g.image.kind with | .shading => s.unfuse g.core | .tensor => s

/-- A decided checkpoint or kill takes effect (R127, R131, R132). -/
def preemptNow (s : State) (n : Nat) : State :=
  let g := s.gang n
  match g.preempt with
  | none => s
  | some (_, kill) =>
    if !(s.gangs.any (·.1 == n)) || !resident g || !s.mayPreempt n then s
    else if kill then s.killGang n true 0x0F
    else if !s.quiet n || s.heldMeshlet n then s
    else match s.gangAreas g with
      | some l => s.saveGang n l
      | none => s.setGang n { g with preempt := none }

/-- A saved gang takes a place again (R114, R132, R137). -/
def restoreGang (s : State) (n : Nat) (pl : Place) : State :=
  let g := s.gang n
  let core := (pl.cells.headD (0, 0)).1
  let s := match g.image.kind with | .shading => s.fuseFor g.image core | .tensor => s
  let s := s.setGang n { g with saved := none, areas := [], core := core, x0 := pl.x0, y0 := pl.y0, quantumEnd := s.sid + s.quantum }
  { s with groups := s.groups.map fun x =>
      if x.2.gang == n then
        let c := pl.cells.getD x.2.idx (0, 0)
        (x.1, { x.2 with core := c.1, slot := c.2, since := s.cycle, scene := { x.2.scene with tqry := [] } })
      else x }

/-- Restore a gang when it is the best eligible candidate. -/
def restoreNow (s : State) (n : Nat) : State :=
  match bestCand s.eligible with
  | none => s
  | some c => match c.saved, s.candPlace c with
    | some m, some pl => if m = n then s.restoreGang n pl else s
    | _, _ => s

end State
open State

/-- A decided pre-emption of a gang takes effect: checkpoint, or kill (R131, R132). -/
def execCheckpoint (gang : Nat) (s : State) : Out := .next (s.preemptNow gang)
/-- A saved gang is restored (R132). -/
def execRestore (gang : Nat) (s : State) : Out := .next (s.restoreNow gang)

end Sys2Proof.Machine
end

