-- ==== Sys2Proof/Machine/Texture.lean ====
section
/-!
DEFINITION. Textures (R371 to R374): descriptors, levels, sampling and the latent decoder, and TEX, TEXL, TEXG and TEXQ.
-/
namespace Sys2Proof.Machine

/-- A texture descriptor (R371). -/
structure TexDesc where
  base : Nat
  w : Nat
  h : Nat
  fmt : Nat
  levels : Nat
  filt : Nat
  mlp : Nat
  deriving DecidableEq, Repr

/-- What a texture instruction computes (R373). -/
inductive TexOp
  | sample
  | gather (c : Nat)
  | latent
  | query
  deriving DecidableEq, Repr

def texDesc (b : List Byte) : TexDesc :=
  { base := recField b 0 8, w := recField b 8 2 + 1, h := recField b 0xA 2 + 1, fmt := recField b 0xC 1, levels := recField b 0xD 1
    filt := recField b 0xE 1, mlp := recField b 0x10 8 }

/-- Every field in its range and every reserved field 0 (R371), and the format right for the instruction (R373). -/
def texFieldsOk (op : TexOp) (b : List Byte) : Bool :=
  let d := texDesc b
  decide (d.w ≤ 16384) && decide (d.h ≤ 16384) && decide (d.fmt ≤ 4) && decide (1 ≤ d.levels) && decide (d.levels ≤ 15)
    && fld d.filt 0 2 != 3 && fld d.filt 2 2 != 3 && fld d.filt 4 2 != 3 && fld d.filt 6 2 == 0 && recField b 0xF 1 == 0
    && (d.fmt == 4 || d.mlp == 0) && recField b 0x18 8 == 0
    && (match op with | .sample | .gather _ => d.fmt != 4 | .latent => d.fmt == 4 | .query => true)

-- ## Levels and texels (R371)

def levelDim (n m : Nat) : Nat := max 1 (n / 2 ^ m)
def texelBytes (fmt : Nat) : Nat := match fmt with | 1 => 8 | 4 => 8 | _ => 4
/-- Where level m starts. -/
def levelOff (d : TexDesc) : Nat → Nat
  | 0 => 0
  | m + 1 => (levelOff d m + levelDim d.w m * levelDim d.h m * texelBytes d.fmt + 255) / 256 * 256
def texelAddr (d : TexDesc) (m x y : Nat) : Nat :=
  (d.base + levelOff d m + texelBytes d.fmt * (y * levelDim d.w m + x)) % 2 ^ 64

/-- An F16 or E4M3 code as F32. -/
def widen (f : Fmt) (c : Nat) : Nat := encode f32 (.det .rne) (f.decode c)
/-- The channels of a texel, as F32. -/
def texelValue (fmt : Nat) (b : List Byte) : List Nat :=
  match fmt with
  | 0 => (List.range 4).map fun i => fdiv .rne (fint (recField b i 1)) (fint 255)
  | 1 => (List.range 4).map fun i => widen f16 (recField b (2 * i) 2)
  | 2 => [widen f16 (recField b 0 2), widen f16 (recField b 2 2), 0, fone]
  | 3 => [recField b 0 4, 0, 0, fone]
  | _ => (List.range 8).map fun i => widen e4m3 (recField b i 1)

-- ## Coordinates (R372)

/-- The coordinate an axis uses: NaN and infinities are replaced. -/
def axisCoord (mode c : Nat) : Nat :=
  if isNumber (f32.decode c) then c else if mode = 1 then (if c < 2 ^ 31 then fone else 0) else 0

/-- The floor of a scaled coordinate; where it overflows F32 the spec states no texel, and a free value stands for it (log entry 14): one
for each lane, level and axis. -/
def floorOr (free x : Nat) : Int := if isNumber (f32.decode x) then fround .rdn x else (free : Int)

/-- x0 and the fraction of bilinear sampling. -/
def axisPos (free c dim : Nat) : Int × Nat :=
  let sx := fsub .rne (fmul .rne c (fint dim)) fhalf
  let x0 := floorOr free sx
  (x0, fdiv .rne (fint (fround .rne (fmul .rne (fsub .rne sx (fint x0)) (fint 256)))) (fint 256))

/-- A texel index of an axis: wrap, clamp or mirror. -/
def axisIndex (mode dim : Nat) (x : Int) : Nat :=
  match mode with
  | 0 => (x % (dim : Int)).toNat
  | 1 => (max 0 (min ((dim : Int) - 1) x)).toNat
  | _ => let r := (x % (2 * dim : Int)).toNat; if r < dim then r else 2 * dim - 1 - r

/-- λ before clamping, from the captured words u, v, λ, u0, v0, u1, v1, u2, v2. -/
def lodRaw (d : TexDesc) (explicit : Bool) (c : List Nat) : Nat :=
  if explicit then c.getD 2 0
  else
    let g := fun (i j dim : Nat) => fmul .rne (fabs (fsub .rne (c.getD i 0) (c.getD j 0))) (fint dim)
    let rho := fmax2 (fmax2 (fmax2 (g 5 3 d.w) (g 6 4 d.h)) (g 7 3 d.w)) (g 8 4 d.h)
    encode f32 (.det .rne) (log2Of (f32.decode rho))
/-- λ clamped to the levels; NaN is 0. -/
def lod (d : TexDesc) (explicit : Bool) (c : List Nat) : Nat :=
  let x := lodRaw d explicit c
  if fisNan x || flt x 0 then 0 else if flt (fint (d.levels - 1)) x then fint (d.levels - 1) else x
def lodFloor (d : TexDesc) (explicit : Bool) (c : List Nat) : Nat := (fround .rdn (lod d explicit c)).toNat

/-- The texels of a bilinear sample at level m: c00, c10, c01, c11. -/
def bilinAddrs (d : TexDesc) (free : Nat → Nat) (m : Nat) (c : List Nat) : List Nat :=
  let mu := fld d.filt 2 2
  let mv := fld d.filt 4 2
  let w := levelDim d.w m
  let h := levelDim d.h m
  let x := (axisPos (free (2 * m)) (axisCoord mu (c.getD 0 0)) w).1
  let y := (axisPos (free (2 * m + 1)) (axisCoord mv (c.getD 1 0)) h).1
  let at_ := fun (i j : Int) => texelAddr d m (axisIndex mu w (x + i)) (axisIndex mv h (y + j))
  [at_ 0 0, at_ 1 0, at_ 0 1, at_ 1 1]
def nearestAddr (d : TexDesc) (free : Nat → Nat) (m : Nat) (c : List Nat) : Nat :=
  let ax := fun (mode x dim fr : Nat) => axisIndex mode dim (floorOr fr (fmul .rne (axisCoord mode x) (fint dim)))
  texelAddr d m (ax (fld d.filt 2 2) (c.getD 0 0) (levelDim d.w m) (free (2 * m)))
    (ax (fld d.filt 4 2) (c.getD 1 0) (levelDim d.h m) (free (2 * m + 1)))

/-- a + f × (b − a), per channel. -/
def lerp (f : Nat) (a b : List Nat) : List Nat := (a.zip b).map fun x => fadd .rne x.1 (fmul .rne f (fsub .rne x.2 x.1))
/-- The bilinear value of four texels at level m. -/
def bilinValue (d : TexDesc) (free : Nat → Nat) (m : Nat) (c : List Nat) (t : List (List Nat)) : List Nat :=
  let fa := (axisPos (free (2 * m)) (axisCoord (fld d.filt 2 2) (c.getD 0 0)) (levelDim d.w m)).2
  let fb := (axisPos (free (2 * m + 1)) (axisCoord (fld d.filt 4 2) (c.getD 1 0)) (levelDim d.h m)).2
  lerp fb (lerp fa (t.getD 0 []) (t.getD 1 [])) (lerp fa (t.getD 2 []) (t.getD 3 []))

-- ## The latent decoder (R374)

/-- One layer: outputs as F32, from weights at `wo` (n inputs each) and biases at `bo` of the decoder's bytes. -/
def mlpLayer (b : List Byte) (wo bo n outs : Nat) (x : List Nat) : List Nat :=
  (List.range outs).map fun o =>
    (x.zipIdx).foldl (fun acc k => ffma .rne (widen f16 (recField b (wo + 2 * (n * o + k.2)) 2)) (widen f16 k.1) acc)
      (widen f16 (recField b (bo + 2 * o) 2))
/-- Round(max(acc, +0)) into F16; a NaN stays. -/
def relu16 (a : Nat) : Nat := encode f16 (.det .rne) (if fisNan a then .nan else if flt 0 a then f32.decode a else .fin false 0 0)
def narrow16 (a : Nat) : Nat := encode f16 (.det .rne) (f32.decode a)
/-- The two words of TEXL from the eight latent channels. -/
def latentWords (b : List Byte) (ch : List Nat) : List Nat :=
  let h1 := (mlpLayer b 0 512 8 32 (ch.map narrow16)).map relu16
  let h2 := (mlpLayer b 576 2624 32 32 h1).map relu16
  let o := (mlpLayer b 2688 2944 32 4 h2).map narrow16
  [o.getD 0 0 + 2 ^ 16 * o.getD 1 0, o.getD 2 0 + 2 ^ 16 * o.getD 3 0]

-- ## One lane (R373)

/-- The runs of bytes that a lane reads. -/
def texNeeds (op : TexOp) (d : TexDesc) (explicit : Bool) (free : Nat → Nat) (c : List Nat) : List (Nat × Nat) :=
  let n := texelBytes d.fmt
  let m := lodFloor d explicit c
  let four := fun m => (bilinAddrs d free m c).map fun a => (a, n)
  match op with
  | .query => []
  | .gather _ => four m
  | .latent => four m ++ lineCuts d.mlp 2952
  | .sample => match fld d.filt 0 2 with
    | 0 => [(nearestAddr d free m c, n)]
    | 1 => four m
    | _ => four m ++ four (min (m + 1) (d.levels - 1))

/-- The lane's result words, from those bytes. -/
def texWords (op : TexOp) (d : TexDesc) (explicit : Bool) (free : Nat → Nat) (c : List Nat) (b : List Byte) : List Nat :=
  let n := texelBytes d.fmt
  let m := lodFloor d explicit c
  let t := fun i => texelValue d.fmt ((b.drop (n * i)).take n)
  let quad := fun i => [t i, t (i + 1), t (i + 2), t (i + 3)]
  match op with
  | .query => let m := c.getD 0 0; if m < d.levels then [levelDim d.w m, levelDim d.h m] else [0, 0]
  | .gather ch => (quad 0).map fun x => x.getD ch 0
  | .latent => latentWords (b.drop (4 * n)) (bilinValue d free m c (quad 0))
  | .sample => match fld d.filt 0 2 with
    | 0 => t 0
    | 1 => bilinValue d free m c (quad 0)
    | _ =>
      let l := lod d explicit c
      let f := fdiv .rne (fint (fround .rne (fmul .rne (fsub .rne l (fint m)) (fint 256)))) (fint 256)
      lerp f (bilinValue d free m c (quad 0)) (bilinValue d free (min (m + 1) (d.levels - 1)) c (quad 4))

/-- What one pass over the lanes gives: the state, the words of the lanes done, the lanes left, and a trap. -/
structure TexPass where
  s : State
  got : List (LoadDst × List Byte × List Nat)
  rest : List (Access × Nat × ParkWhy)
  trap : Option Trap

namespace State

/-- The captured words of the active lanes. -/
def texCaps (s : State) (op : TexOp) (l : Bool) (p : LPred) (a : VReg) (b : KReg) : List Access :=
  (s.lanes p).map fun i =>
    let q := i / 4 * 4
    let r := fun (n j : Nat) => (s.v n j).toNat
    capture i (s.k b).toNat (match op with
      | .query => [r a i]
      | _ => [r a i, r (a.val + 1) i, if l then r (a.val + 2) i else 0, r a q, r (a.val + 1) q, r a (q + 1), r (a.val + 1) (q + 1),
              r a (q + 2), r (a.val + 1) (q + 2)])

/-- One lane of a pass. -/
def texLane (op : TexOp) (d : TexDesc) (explicit : Bool) (free : Nat → Nat → Nat) (dst : Nat) (p : TexPass) (c : Access) : TexPass :=
  match p.s.sceneRead c.lane .ro (texNeeds op d explicit (free c.lane) (capWords c)) with
  | .trap t => { p with trap := match p.trap with | some x => some x | none => some t }
  | .park s why => { p with s := s, rest := p.rest ++ [(c, why.headD (0, .notResident))] }
  | .bytes s b =>
    let ws := texWords op d explicit (free c.lane) (capWords c) b
    { p with s := s, got := p.got ++ (ws.zipIdx).map fun x => laneWord (dst + x.2) c.lane x.1 }

/-- A texture instruction of the bundle at `pc` over captured lanes (R357, R371 to R374). -/
def texRun (s : State) (i : Instr) (op : TexOp) (explicit : Bool) (dst pc : Nat) (caps : List Access) (prev : List (Nat × ParkWhy))
    (since : Nat) : State :=
  let lane := firstLane caps
  match caps with
  | [] => s.unwait 6
  | c0 :: _ =>
    if c0.va % 32 ≠ 0 then s.sceneTrap pc (mkTrap .align 1 lane c0.va)
    else match s.sceneRead lane .none [(c0.va, 32)] with
      | .trap t => s.sceneTrap pc t
      | .park s' why => s'.sceneWait pc i (caps.map fun c => (c, why.headD (0, .notResident))) prev since
      | .bytes s' b =>
        let d := texDesc b
        let free := fun lane j => (Config.freeValue (s.free + 32 * lane + j)).toNat
        let accs := caps.flatMap fun c => readAccs c.lane .ro (texNeeds op d explicit (free c.lane) (capWords c))
        if !texFieldsOk op b then s'.sceneTrap pc (mkTrap .illegal 17 lane 0)
        else if d.base % 256 ≠ 0 then s'.sceneTrap pc (mkTrap .align 1 lane d.base)
        else if d.mlp % 64 ≠ 0 then s'.sceneTrap pc (mkTrap .align 1 lane d.mlp)
        else if s'.xferBlocks accs then s.stall
        else match s'.firstTrap accs with
          | some t => s'.sceneTrap pc t
          | none =>
            let r := caps.foldl (texLane op d explicit free dst) { s := s', got := [], rest := [], trap := none }
            match r.trap with
            | some t => s'.sceneTrap pc t
            | none => (State.deliver { r.s with free := r.s.free + 1024 } r.got).sceneWait pc i r.rest prev since

/-- A texture instruction at issue. -/
def texIssue (s : State) (i : Instr) (op : TexOp) (l : Bool) (p : LPred) (d a : VReg) (b : KReg) : State :=
  s.nextSeq.texRun i op l d.val s.pc (s.texCaps op l p a b) [] s.sid

end State
open State

/-- TEX (R373). -/
def execTex (l : Bool) (p : LPred) (d a : VReg) (b : KReg) (s : State) : Out := .next (s.texIssue (.tex l p d a b) .sample l p d a b)
/-- TEXL (R374). -/
def execTexl (l : Bool) (p : LPred) (d a : VReg) (b : KReg) (s : State) : Out := .next (s.texIssue (.texl l p d a b) .latent l p d a b)
/-- TEXG (R373). -/
def execTexg (c : Fin 4) (l : Bool) (p : LPred) (d a : VReg) (b : KReg) (s : State) : Out :=
  .next (s.texIssue (.texg c l p d a b) (.gather c.val) l p d a b)
/-- TEXQ (R373). -/
def execTexq (p : LPred) (d a : VReg) (b : KReg) (s : State) : Out := .next (s.texIssue (.texq p d a b) .query false p d a b)

end Sys2Proof.Machine
end

