-- ==== Sys2Proof/Machine/Paging.lean ====
section
/-!
DEFINITION. The events of the memory path: replies and tile transfers that complete (R21, R208), pulsar ticks (R42), retries of parked
requesters (R263), copies on write and migrations (R264, R267, R268), merge steps (R44), writes that a die applies (R36), evictions
(R190), scrubbing, soft errors and retransmissions (R23 to R26, R448), and the error-ring writer (R276).
-/
namespace Sys2Proof.Machine
namespace State

-- ## Completions and ticks

/-- A transfer of a group completes, or tries its waiting lines again (R208). -/
def transferEvent (s : State) (grp idx : Nat) : State :=
  match nth? (s.group grp).xfers idx with
  | some x => if resident (s.gang (s.group grp).gang) then (s.asSplit grp x.split).xferComplete idx else s
  | none => s

/-- A FENCESC that has drained before tick n takes it (R42). -/
def takeTick (n : Nat) (x : Split) : Split :=
  match x.fsc with
  | .drained t => if t < 512 * n then { x with fsc := .taken n } else x
  | .idle | .taken _ => x

/-- A die observes the tick of the present 512 counts (R20). -/
def tick (s : State) (die : Nat) : State :=
  { s with groups := s.groups.map fun x =>
      if dieOf x.2.core == die && resident (s.gang x.2.gang) then
        (x.1, { x.2 with splits := x.2.splits.map fun y => (y.1, takeTick (s.sid / 512) y.2) })
      else x }

-- ## Retries (R263)

/-- A waiting split's slot-0 access: the bundle goes on once its page can be reached, else it waits on. -/
def retryControl (s : State) (r : Replay) : State :=
  let blocked := r.todo.any fun a => match s.xlate s.reqHere a.va a.op.need with | .park _ _ => true | _ => false
  if blocked then
    s.modSplit fun x => { x with waits := x.waits.map fun w => match w with
      | .mem q => if q.slot = r.slot then .mem { q with woken := false } else w
      | _ => w }
  else s.unwait r.slot

/-- The retry of one wait: its unfinished lanes, at the captured addresses. -/
def retry (s : State) (r : Replay) : State :=
  match r.instr with
  | none => if r.slot = 0 then s.retryControl r else s.nextSeq.memRun r.pc r.slot r.todo r.tile r.rows r.why r.since
  | some (.tex l p d a b) => s.nextSeq.texRun (.tex l p d a b) .sample l d.val r.pc r.todo r.why r.since
  | some (.texl l p d a b) => s.nextSeq.texRun (.texl l p d a b) .latent l d.val r.pc r.todo r.why r.since
  | some (.texg c l p d a b) => s.nextSeq.texRun (.texg c l p d a b) (.gather c.val) l d.val r.pc r.todo r.why r.since
  | some (.texq p d a b) => s.nextSeq.texRun (.texq p d a b) .query false d.val r.pc r.todo r.why r.since
  | some (.rkick b) => s.nextSeq.rkickRun (.rkick b) r.pc ((r.todo.map (·.va)).headD 0) r.why r.since
  | some (.gbind b) => s.nextSeq.gbindRun (.gbind b) r.pc ((r.todo.map (·.va)).headD 0) r.why r.since
  | some _ => s

/-- Waits whose retry is a run of a unit of its own: a traversal, or a GEXP. -/
def unitRetry (r : Replay) : Bool :=
  match r.instr with
  | some (.trace _ _ _ _ _) | some (.tacc _ _ _ _) | some (.gexp _ _ _) => true
  | _ => false

/-- The waits that are called to retry, lowest slot first as they stand; a trap or a kill ends the pass. -/
def retryAll (s : State) : State :=
  let due := s.split.waits.filterMap fun w => match w with | .mem r => if r.woken && !unitRetry r then some r else none | _ => none
  let s := due.foldl (fun s r => if s.cur.status == .trapped || s.cur.status == .killed then s else s.retry r) s
  if s.cur.status == .trapped || s.cur.status == .killed then s else s.settleEnding

def retryEvent (s : State) (grp split : Nat) : State := if s.hasSplit grp split then (s.asSplit grp split).retryAll else s

/-- Every 1,048,576 counts a requester that waits on an absent page is called to retry. -/
def periodWake (now : Nat) (w : Wait) : Wait :=
  match w with
  | .mem r =>
    if decide (r.since + 1048576 ≤ now) && r.why.any (fun z => z.2 == .notResident) then
      .mem { r with woken := true, since := now - (now - r.since) % 1048576 }
    else w
  | _ => w

def periodEvent (s : State) (grp split : Nat) : State :=
  if s.hasSplit grp split then
    ((s.asSplit grp split).modSplit fun x => { x with waits := x.waits.map (periodWake s.sid) }).retryAll
  else s

-- ## Copies of pages (R264, R267)

/-- The 20 dies have applied every write that any home has performed. -/
def catchAll (s : State) : State := (List.range 20).foldl catchUp s

/-- A frame's bytes and marks go to another frame, 8 bytes at a time in their marks (R25); every die sees the copy. -/
def copyFrame (s : State) (src dst size : Nat) : State :=
  let lines := ((s.pend.filter fun x => overlaps x.pa x.data.length src size || overlaps x.pa x.data.length dst size).map (·.pa)).map lineOf
  let s := (lines.foldl mergeLine s).catchAll
  let s := State.touchPage s dst
  { s with mem := Sparse.setAll 0 s.mem ((run dst size).zip (s.bytesAt src size))
           poison := (List.range (size / 8)).foldl (fun m i => poisonStore m (dst + 8 * i) 8 (s.anyPoisoned (src + 8 * i) 8)) s.poison }

/-- The source number of the engine of a quadrant that moves pages: its copy engine 0 (log entry 28). -/
def moverSrc (quadrant : Nat) : Nat := srcOf (16 + quadrant) 0

/-- A leaf with its frame replaced; a copy on write also clears COW and sets PRES. -/
def movedLeaf (m : PageMove) : Nat :=
  let e := m.leaf - 65536 * fld m.leaf 16 32 + m.dst
  if m.cow then setBit (setBit e 6 false) 7 true else e

/-- Compare-and-swap of the leaf: whether it stood as at the start. -/
def swapLeaf (s : State) (m : PageMove) : State × Bool :=
  let x := s.atomicAt (moverSrc m.quadrant) m.leafAt 8 fun o => if o = m.leaf then some (movedLeaf m) else none
  (x.1, x.2 == m.leaf)

/-- Dirty bytes of a frame in any cache go home, and its copies are dropped (R267 step 2). -/
def flushFrame (s : State) (frame size : Nat) : State :=
  let hit := fun (x : Nat × CByte) => decide (frame ≤ x.1 % 2 ^ 48) && decide (x.1 % 2 ^ 48 < frame + size)
  let dieOfL1 := fun (id : Nat) => if id < 4096 then dieOf id else (id - 4096) / 16
  let d2 := s.l2.filter fun x => hit x && x.2.dirty
  let d1 := s.l1.filter fun x => hit x && x.2.dirty
  let s := d2.foldl (fun s x => s.storeNow (srcOf (x.1 / 2 ^ 48) 60) (x.1 % 2 ^ 48) [x.2.val] x.2.bad) s
  let s := d1.foldl (fun s x => s.storeNow (srcOf (dieOfL1 (x.1 / 2 ^ 48)) 60) (x.1 % 2 ^ 48) [x.2.val] x.2.bad) s
  { s with l1 := s.l1.filter (fun x => !hit x), l2 := s.l2.filter fun x => !hit x }

/-- A page move completes or is abandoned: R264 steps 2 to 4, or R267 steps 2 to 5. -/
def finishMove (s : State) (m : PageMove) : State :=
  let size := pageSize m.big
  let s := { s with moves := s.moves.filter fun x => !(x == m) }
  let s := if m.cow then s else s.flushFrame m.src size
  let r := (s.copyFrame m.src m.dst size).swapLeaf m
  let s := r.1
  let span : InvSpan := if m.big then .p2m else .p64
  let s :=
    if r.2 then
      let s := s.dropTlb m.ctx span m.va
      if m.cow then s
      else
        let p := s.pool m.quadrant
        s.setPool m.quadrant { p with ret := p.ret ++ [(m.src, m.big)], migcnt := p.migcnt + 1 }
    else s.setPool m.quadrant (giveFrame (s.pool m.quadrant) m.big m.dst)
  s.wakePage m.ctx span m.va

def cowEvent (s : State) (ctx va : Nat) : State :=
  match s.moves.find? fun m => m.cow && m.ctx == ctx && m.va == va with
  | some m => s.finishMove m
  | none => s
def migrationEvent (s : State) (idx : Nat) : State :=
  match nth? s.moves idx with
  | some m => if m.cow then s else s.finishMove m
  | none => s

/-- A thrash pin ends at its time (R268). -/
def pinEnd (s : State) (n : Nat) : State :=
  let r := s.region n
  match r.pinnedTil with
  | some t => if t ≤ s.sid then s.setRegion n { r with pinnedTil := none } else s
  | none => s

-- ## Evictions (R190, R201, R260)

/-- Bytes of one cache leave it: dirty ones of an L1 to the die L2, dirty ones of a die L2 to their home as stores of the L2. -/
def evict (s : State) (what : EvictWhat) (unit addr len : Nat) : State :=
  let hit := fun (k : Nat) => k / 2 ^ 48 == unit && decide (addr ≤ k % 2 ^ 48) && decide (k % 2 ^ 48 < addr + len)
  match what with
  | .l1 =>
    let die := if unit < 4096 then dieOf unit else (unit - 4096) / 16
    let dirty := s.l1.filter fun x => hit x.1 && x.2.dirty
    { s with l1 := s.l1.filter (fun x => !hit x.1)
             l2 := dirty.foldl (fun m x => Sparse.insert m (cacheKey die (x.1 % 2 ^ 48)) x.2) s.l2 }
  | .l2 =>
    let dirty := s.l2.filter fun x => hit x.1 && x.2.dirty
    let s := dirty.foldl (fun s x => s.storeNow (srcOf unit 60) (x.1 % 2 ^ 48) [x.2.val] x.2.bad) s
    { s with l2 := s.l2.filter fun x => !hit x.1 }
  | .ro => { s with ro := s.ro.filter fun x => !hit x.1 }
  | .tlb => { s with tlb := s.tlb.filter fun t => !(t.die == unit && decide (addr ≤ t.va) && decide (t.va < addr + len)) }

-- ## Errors of stored words (R24 to R26, R446, R448)

/-- The check unit of a word that a soft error strikes, as (place, unit, address). -/
def flipAt (w : SoftWhere) (unit addr : Nat) : Nat × Nat :=
  match w with
  | .memory => (0, (checkUnit addr).1)
  | .vreg | .kreg => (unit, addr)
  | .spad => (unit, addr / 4 * 4)

/-- The mark of a word that no check can correct. -/
def markWord (s : State) (w : SoftWhere) (unit addr : Nat) : State :=
  match w with
  | .memory => { s with poison := Sparse.set 0 s.poison (checkUnit addr).1 (2 ^ (checkUnit addr).2 - 1) }
  | .vreg => s.setGroup unit ((s.group unit).mark (.v (addr / 64) (addr % 64)))
  | .kreg => s.setGroup unit ((s.group unit).mark (.k addr))
  | .spad =>
    let g := s.group unit
    s.setGroup unit { g with tile := { g.tile with spadPoison := Sparse.set 0 g.tile.spadPoison (addr / 4) 15 } }

/-- Whether a place exists: an address with a home, or a word of a resident group. -/
def wordExists (s : State) (w : SoftWhere) (unit addr : Nat) : Bool :=
  let here := s.groups.any fun x => x.1 == unit && resident (s.gang x.2.gang)
  match w with
  | .memory => paKind addr == .first || paKind addr == .second
  | .vreg => here && decide (addr < 64 * 64)
  | .kreg => here && decide (addr < 64)
  | .spad => here && (s.group unit).kind == .tensor && decide (addr < 0x800000)

/-- `bits` bits or symbols of a word flip: one is corrected by the next check, more mark the word (R25, R448). -/
def softEvent (s : State) (w : SoftWhere) (unit addr bits : Nat) : State :=
  if bits = 0 || !s.wordExists w unit addr then s
  else
    let k := flipAt w unit addr
    let old := (s.flips.filter fun f => f.w == w && f.unit == k.1 && f.addr == k.2).foldl (fun n f => n + f.bits) 0
    let f : Flip := { w := w, unit := k.1, addr := k.2, bits := old + bits }
    let s := { s with flips := s.flips.filter (fun f => !(f.w == w && f.unit == k.1 && f.addr == k.2)) ++ [f] }
    if old + bits = 1 then s else s.markWord w unit addr

/-- The die and the scrubber that visit a word (R26). -/
def scrubber (s : State) (w : SoftWhere) (unit addr : Nat) : Nat × Nat :=
  match w with
  | .memory => (16 + homeOf addr, srcOf (16 + homeOf addr) 110)
  | .vreg | .kreg | .spad => (dieOf (s.group unit).core, (s.group unit).core)

/-- A scrubber visits a word: one wrong bit is corrected and counted, more are recorded in the device ring (R26, R445, R446). -/
def scrubEvent (s : State) (w : SoftWhere) (unit addr : Nat) : State :=
  let k := flipAt w unit addr
  match s.flips.find? fun f => f.w == w && f.unit == k.1 && f.addr == k.2 with
  | none => s
  | some f =>
    let by_ := s.scrubber w unit addr
    let s := { s with flips := s.flips.filter fun g => !(g == f) }
    if f.bits = 1 then { s with corrected := Sparse.insert s.corrected by_.1 (Sparse.get 0 s.corrected by_.1 + 1) }
    else
      let s := { s with uncorrected := Sparse.insert s.uncorrected by_.1 (Sparse.get 0 s.uncorrected by_.1 + 1) }
      s.logErr { errBase none by_.2 0x07 with flags := 2, paddr := if w == .memory then k.2 else 0 }

/-- A flit for a line fails its check on a path; after the third failed retransmission the path is retrained, the line is marked, and the
receiving unit writes a record (R23). -/
def flitEvent (s : State) (src dst pa : Nat) : State :=
  let key := (4096 * src + dst) * 2 ^ 48 + lineOf pa
  let n := Sparse.get 0 s.flitFails key
  if n < 3 then { s with flitFails := Sparse.set 0 s.flitFails key (n + 1) }
  else
    let s := { s with flitFails := Sparse.set 0 s.flitFails key 0 }
    let s := if paHasHome pa then { s with poison := poisonStore s.poison (lineOf pa) 64 true } else s
    s.logErr { errBase none dst 0x07 with flags := 2, paddr := lineOf pa }

-- ## The error-ring writer (R274, R276, R445)

def ringWriterSrc : Nat := 0x815
/-- The base of the device ring. -/
def deviceRing : Nat := 0x7FFFF00000

/-- The 64 bytes of a record. -/
def errBytes (r : ErrRec) (seq : Nat) : List Byte :=
  leBytes 8 r.time ++ leBytes 2 r.src ++ leBytes 1 r.cls ++ leBytes 1 r.flags ++ leBytes 1 r.sub ++ leBytes 1 r.lane ++ leBytes 2 0
    ++ leBytes 8 r.vaddr ++ leBytes 8 r.paddr ++ leBytes 8 r.synd ++ leBytes 4 r.jobtag ++ leBytes 4 r.gidx ++ leBytes 8 r.pc
    ++ leBytes 8 seq

/-- A record goes to the device ring. -/
def putDevice (s : State) (r : ErrRec) : State :=
  let n := s.devCount
  let s := s.storeNow ringWriterSrc (deviceRing + 64 * (n % 16384)) (errBytes r (n + 1)) false
  State.raiseMsg { s with devCount := n + 1 } (bitOf s.irqDev 16) s.irqDev

/-- A record goes to its context's ring, or, where the ring's page cannot be written at once, to the device ring; a MACHINE_CHECK of a
context also leaves a copy in the device ring. -/
def putRecord (s : State) (r : ErrRec) : State :=
  match r.ctx with
  | none => s.putDevice { r with jobtag := 0, gidx := 0 }
  | some c =>
    if !(s.ctxs.any (·.1 == c)) then s
    else
    let x := s.ctx c
    let n := x.errCount
    let s := s.setCtx c { x with errCount := n + 1 }
    match s.ringWritable c (x.errRing + 64 * (n % 2 ^ x.errLog2)) with
    | none => s.putDevice r
    | some pa =>
      let s := (s.storeNow ringWriterSrc pa (errBytes r (n + 1)) false).ctxMsg c 17
      if r.cls = 7 then s.putDevice { r with jobtag := 0, gidx := 0 } else s

/-- The record that comes first in the order of R49. -/
def firstErr : List ErrRec → Option ErrRec
  | [] => none
  | x :: l => match firstErr l with
    | none => some x
    | some y => if y.time < x.time ∨ (y.time = x.time ∧ y.src < x.src) then some y else some x

/-- The writer writes the next record 8,192 counts after its time. -/
def writeErr (s : State) : State :=
  match firstErr s.errs with
  | none => s
  | some r =>
    if r.time + 8192 ≤ s.sid then
      match s.errs.findIdx? fun x => x == r with
      | some i => State.putRecord { s with errs := dropNth s.errs i } r
      | none => s
    else s

end State
open State

/-- An asynchronous tile transfer completes (R208). -/
def execTileTransferComplete (grp idx : Nat) (s : State) : Out := .next (s.transferEvent grp idx)
/-- A reply writes its registers (R21, R52). -/
def execReply (idx : Nat) (s : State) : Out := .next (s.replyAt idx)
/-- A die observes a pulsar tick (R20, R42). -/
def execPulsarTick (die : Nat) (s : State) : Out := .next (s.tick die)
/-- A parked split that a wake condition has called retries (R263). -/
def execParkedReplay (grp split : Nat) (s : State) : Out := .next (s.retryEvent grp split)
/-- The periodic retry of a split that waits on an absent page (R263). -/
def execParkedRetryPeriod (grp split : Nat) (s : State) : Out := .next (s.periodEvent grp split)
/-- A copy on write completes (R264). -/
def execCopyOnWrite (ctx va : Nat) (s : State) : Out := .next (s.cowEvent ctx va)
/-- A migration completes (R267). -/
def execMigration (idx : Nat) (s : State) : Out := .next (s.migrationEvent idx)
/-- A thrash pin ends (R268). -/
def execThrashPinEnd (region : Nat) (s : State) : Out := .next (s.pinEnd region)
/-- A slice's merge step over one line (R44). -/
def execMergeStep (line : Nat) (s : State) : Out := .next (s.mergeLine line)
/-- A die applies a remote write (R36). -/
def execRemoteWriteApply (die idx : Nat) (s : State) : Out := .next (s.applyRemote die idx)
/-- An eviction (R190, R260). -/
def execCacheEviction (what : EvictWhat) (unit addr len : Nat) (s : State) : Out := .next (s.evict what unit addr len)
/-- A scrubber visits a word (R26). -/
def execScrub (w : SoftWhere) (unit addr : Nat) (s : State) : Out := .next (s.scrubEvent w unit addr)
/-- A soft error (R448). -/
def execSoftError (w : SoftWhere) (unit addr bits : Nat) (s : State) : Out := .next (s.softEvent w unit addr bits)
/-- A retransmission (R23). -/
def execFlitRetransmit (src dst pa : Nat) (s : State) : Out := .next (s.flitEvent src dst pa)
/-- The error-ring writer writes a record (R276). -/
def execErrorRingWrite (s : State) : Out := .next s.writeErr

end Sys2Proof.Machine
end

