-- ==== Sys2Proof/Machine/RegUse.lean ====
section
/-!
DEFINITION. The registers that an instruction names: what it reads and writes for R52, R54 (with R148, R217, R234, R307, R355) and R61,
and its latency class (R66).
-/
namespace Sys2Proof.Machine

/-- One register that an instruction names; `grp` marks the members of a group of consecutive registers, which must lie below the
declared count as a whole (R195, R233, R356). -/
structure Use where
  reg : RegId
  wr : Bool
  grp : Bool
  deriving DecidableEq, Repr

-- ## Builders

def rk (n : KReg) : List Use := [{ reg := .k n, wr := false, grp := false }]
def wk (n : KReg) : List Use := [{ reg := .k n, wr := true, grp := false }]
def rv (n : VReg) : List Use := [{ reg := .v n, wr := false, grp := false }]
def wv (n : VReg) : List Use := [{ reg := .v n, wr := true, grp := false }]
def rvs (n c : Nat) : List Use := (List.range c).map fun i => { reg := .v (n + i), wr := false, grp := true }
def wvs (n : VReg) (c : Nat) : List Use := (List.range c).map fun i => { reg := .v (n.val + i), wr := true, grp := true }
def rks (n : KReg) (c : Nat) : List Use := (List.range c).map fun i => { reg := .k (n.val + i), wr := false, grp := true }
/-- p0 reads as all ones and takes no write, so it stands for no use (R54, R186). -/
def rp (n : Nat) : List Use := if n = 0 then [] else [{ reg := .p n, wr := false, grp := false }]
def wp (n : Nat) : List Use := if n = 0 then [] else [{ reg := .p n, wr := true, grp := false }]
def rt (n : TReg) : List Use := [{ reg := .t n, wr := false, grp := false }]
def wt (n : TReg) : List Use := [{ reg := .t n, wr := true, grp := false }]
def ra (n : AReg) : List Use := [{ reg := .a n, wr := false, grp := false }]
def wa (n : AReg) : List Use := [{ reg := .a n, wr := true, grp := false }]
def rs (n : SReg) : List Use := [{ reg := .s n, wr := false, grp := false }]
def rb : VK → List Use
  | .v n => rv n
  | .k n => rk n

/-- One-source, two-source and three-operand vector forms under a lane predicate. -/
def use1 (p : LPred) (d a : VReg) : List Use := rp p ++ wv d ++ rv a
def use2 (p : LPred) (d a : VReg) (b : VK) : List Use := use1 p d a ++ rb b
def use3 (d a b : KReg) : List Use := wk d ++ rk a ++ rk b

/-- A lane operand of 64 bits names a pair. -/
def rvw (wide : Bool) (n : VReg) : List Use := if wide then rvs n 2 else rv n
def wvw (wide : Bool) (n : VReg) : List Use := if wide then wvs n 2 else wv n

/-- The registers an instruction names, in a core of a kind. -/
def uses (kd : CoreKind) (i : Instr) : List Use :=
  match i with
  | .nopSlot0 _ | .nop | .merge _ | .bara _ _ | .barw _ _ | .bar _ _ | .yield _ | .done _ | .trap _ _ | .tret _ | .tmask _ | .tunmask _
  | .ckpt _ | .halt _ _ => []
  | .br _ p _ | .brc _ p _ _ => rp p
  | .brx _ a | .ret _ a | .timehint _ a | .sleep _ a => rk a
  | .call _ _ => wk 7
  | .callx _ a b => rk a ++ wk b
  | .semsig _ a _ _ | .semwait _ a _ _ => if kd = .shading then rk a else []
  | .semtry _ a b _ _ => (if kd = .shading then rk a else []) ++ wk b
  | .spawn _ a b | .spawng _ a b => rks a 8 ++ rk b
  | .joinw _ a b _ => rk a ++ rk b
  | .timerset _ a arm => if arm then rk a else []
  | .govarm _ a b | .govstep _ a b | .govq _ a b _ | .winld _ a b | .csld _ a b => rk a ++ wk b
  | .ptinv _ a n => if n = .all then [] else rk a
  -- scalar
  | .kmov d a | .knot d a | .kpopc _ d a | .kclz _ d a | .kctz _ d a | .kbfe _ d a _ _ => wk d ++ rk a
  | .kmovi d _ => wk d
  | .khi d _ => wk d
  | .kadd _ d a b | .ksub _ d a b | .kmul _ d a b | .kshl _ d a b | .kshr _ d a b | .ksar _ d a b | .krot _ d a b => use3 d a b
  | .kmulh d a b _ | .kdivs d a b | .kand d a b | .kor d a b | .kxor d a b => use3 d a b
  | .kmin _ d a b _ | .kmax _ d a b _ => use3 d a b
  | .kcmp _ d a b _ => use3 d a b
  | .kmad _ d a b => use3 d a b ++ rk d
  | .kaddi d a _ | .kandImm d a _ | .korImm d a _ | .kxorImm d a _ => wk d ++ rk a
  | .kshlImm _ d a _ | .kshrImm _ d a _ | .ksarImm _ d a _ | .krotImm _ d a _ => wk d ++ rk a
  | .ksel d a b x => use3 d a b ++ rk x
  | .kbfi d a _ _ => wk d ++ rk a ++ rk d
  | .krfl _ d a => wk d ++ rv a
  | .krdl _ d a b => wk d ++ rv a ++ rk b
  | .krds d _ => wk d
  | .kwrs _ b => rk b
  | .pand d a b _ _ | .por d a b _ _ | .pxor d a b _ _ => wp d ++ rp a ++ rp b
  | .pnot d a => wp d ++ rp a
  | .pmovk d a => wp d ++ rk a
  | .kmovp d a => wk d ++ rp a
  -- vector
  | .vadd _ _ _ p d a b | .vsub _ _ _ p d a b | .vmul _ _ _ p d a b => use2 p d a b
  | .vmad _ _ _ p d a b => use2 p d a b ++ rv d
  | .vmulh _ _ p d a b | .vmin _ _ p d a b | .vmax _ _ p d a b => use2 p d a b
  | .vneg _ _ p d a | .vabs _ _ p d a => use1 p d a
  | .vand p d a b | .vor p d a b | .vxor p d a b | .vsel p d a b | .vbfly p d a b => use2 p d a b
  | .vnot p d a => use1 p d a
  | .vshl _ p d a b | .vshr _ p d a b | .vsar _ p d a b | .vbfe _ p d a b => use2 p d a b
  | .vbfi p d a b => use2 p d a b ++ rv d
  | .vpopc _ p d a | .vclz _ p d a | .vfclass _ p d a => use1 p d a
  | .vcmp _ _ p d a b => rp p ++ wp d ++ rv a ++ rb b
  | .vfcmp _ p d a b => rp p ++ wp d ++ rv a ++ rb b
  | .vmov p d b => rp p ++ wv d ++ rb b
  | .vmovAcc p d _ a => rp p ++ wv d ++ ra a
  | .vmovi _ p d _ => rp p ++ wv d
  | .vfadd _ _ p d a b | .vfsub _ _ p d a b | .vfmul _ _ p d a b | .vfdivs _ _ p d a b => use2 p d a b
  | .vfma _ _ p d a b | .vfms _ _ p d a b => use2 p d a b ++ rv d
  | .vfmin _ p d a b | .vfmax _ p d a b => use2 p d a b
  | .vfrcp _ _ p d a | .vfrsq _ _ p d a | .vfexp2 _ _ p d a | .vflog2 _ _ p d a | .vfrnd _ _ p d a => use1 p d a
  | .vcvt _ _ _ p d a => use1 p d a
  | .vcvtn _ _ _ _ p d a | .vcvtw _ _ _ _ p d a => use1 p d a
  | .vcvtf _ _ _ _ _ p d a => use1 p d a
  | .vqmx _ _ _ d a _ x => wv d ++ rvs a 2 ++ wv x
  | .vdqmx _ _ _ d a _ x => wvs d 2 ++ rv a ++ rv x
  | .vshuf p d a b => use1 p d a ++ rv b
  | .vshufImm _ p d _ => rp p ++ wv d ++ rv d
  | .vbcast p d a b => use1 p d a ++ rk b
  | .vred _ _ _ p d a | .vscan _ _ _ p d a => use1 p d a
  | .vballot _ p d a => rp p ++ wv d ++ rp a
  | .vvote _ p d a => rp p ++ wp d ++ rp a
  | .vactive _ p d => rp p ++ wv d
  | .vftwos p d a b | .vftwop p d a b => rp p ++ wvs d 2 ++ rv a ++ rb b
  -- memory
  | .ld w _ p d a b => rp p ++ wvw w.is64 d ++ rk a ++ rb b
  | .st w _ p d a b => rp p ++ rvw w.is64 d ++ rk a ++ rb b
  | .ldu _ _ d a b | .lda _ _ d a b => use3 d a b
  | .stu _ _ d a b | .stl _ _ d a b => rk d ++ rk a ++ rk b
  | .ldt _ t a b | .spldt t a b => wt t ++ rk a ++ rk b
  | .stt _ t a b | .spstt t a b => rt t ++ rk a ++ rk b
  | .ldta k _ t a b => wk k ++ wt t ++ rk a ++ rk b
  | .stta k _ t a b => wk k ++ rt t ++ rk a ++ rk b
  | .spld w p d a b => rp p ++ wvw w.is64 d ++ rk a ++ rb b
  | .spst w p d a b => rp p ++ rvw w.is64 d ++ rk a ++ rb b
  | .atom _ w p d a b =>
    rp p ++ (if w.is64 then wvs d 2 ++ rvs (d.val + 2) 2 else wvs d 1 ++ rvs (d.val + 1) 1) ++ rk a ++ rb b
  | .atomf _ _ p d a b => rp p ++ wvs d 1 ++ rvs (d.val + 1) 1 ++ rk a ++ rb b
  | .cas w p d a b =>
    rp p ++ (if w == .d then wvs d 2 ++ rvs (d.val + 2) 4 else wvs d 1 ++ rvs (d.val + 1) 2) ++ rk a ++ rb b
  | .atomu o _ d a b =>
    wk d ++ (List.range (match o with | .op _ => 1 | .cas => 2)).map (fun i => ({ reg := .k (d.val + 1 + i), wr := false, grp := true } : Use))
      ++ rk a ++ rk b
  | .rwb a b | .rinv a b | .rflush a b => rk a ++ rk b
  | .pref _ p a b => rp p ++ rk a ++ rb b
  | .fence _ | .fencesc => []
  | .nodest d a b => rv d ++ rk a ++ rk b
  | .filldone a | .fillhint _ a => rk a
  | .fillfail a b => rk a ++ rk b
  | .fillq d a => wk d ++ rk a
  | .l1q d => wk d
  -- matrix
  | .mpush r _ | .mlds _ r _ => rs r ++ rs (r ^^^ 1)
  | .mpushTile r t _ | .mldsTile _ r t _ => rs r ++ rt t
  | .mshift _ | .macc _ | .mswap | .mopImm _ _ _ _ _ _ | .mclr | .mwait | .mfreeze _ => []
  | .mdrain a _ _ => wa a
  | .mopReg k | .mscan _ k => rk k
  | .mstat k => wk k
  | .mrda a t _ => ra a ++ wt t
  | .mwra a t _ _ _ => wa a ++ rt t
  -- stream
  | .sbind s a _ _ _ => rs s ++ rk a
  | .spat s a b _ => rs s ++ rk a ++ rk b
  | .spatRing a b | .mcastSp a b => rk a ++ rk b
  | .srst s _ | .sdrain s => rs s
  | .sstat s a => rs s ++ wk a
  | .speek s t _ => rs s ++ wt t
  | .mcast t a b => rt t ++ rk a ++ rk b
  | .mcsem a _ => rk a
  | .gtake a => wk a
  | .grls => []
  -- scene
  | .pemit _ p a => rp p ++ rv a
  | .vemit _ p a => rp p ++ rvs a 4
  | .mend => []
  | .rkick b | .gflush b | .gbind b => rk b
  | .zqry _ p d => rp p ++ wv d
  | .depw _ p a => rp p ++ rv a
  | .kill p => rp p
  | .interp _ _ p d => rp p ++ wv d
  | .tex l p d a b | .texg _ l p d a b => rp p ++ wvs d 4 ++ rvs a (if l then 3 else 2) ++ rk b
  | .texl l p d a b => rp p ++ wvs d 2 ++ rvs a (if l then 3 else 2) ++ rk b
  | .texq p d a b => rp p ++ wvs d 2 ++ rv a ++ rk b
  | .trace _ p d a b => rp p ++ wvs d 5 ++ rvs a 8 ++ rk b
  | .tqry p d => rp p ++ wv d
  | .tacc p d a b => rp p ++ wvs d 5 ++ rvs d 5 ++ rvs a 8 ++ rk b
  | .gexp p a b => rp p ++ rvs a 4 ++ rv b
  -- transform
  | .xmov _ _ a | .xcfg _ a => rk a
  | .xmovt _ _ b => match b with | .t n => rt n | .s n => rs n
  | .xget _ d | .xgets _ d | .xstat _ d => wk d
  | .xwait _ | .xrst _ => []
  -- events
  | .transformComplete _ _ | .matrixRetire _ | .tileTransferComplete _ _ | .reply _ | .transferUnit _ _ | .multicastLand _
  | .mcsemIncrement _ | .guideDelivery _ _ | .guidePortPlace _ | .creditIncrement _ | .stagingReplay _ _ | .meshletRaster _
  | .fragmentGroupStart _ | .fragmentResolve _ _ | .donecntIncrement _ | .intersectionRun _ _ | .queueWindowWrite _ _ _
  | .recordCheck _ | .dispatch | .gangRetire _ | .joinDecrement _ | .continuationPush _ | .quantumEnd _ | .priorityTrigger
  | .drainLimit _ | .checkpoint _ | .restore _ | .recordReappend _ | .handlerBudget _ _ | .orderedCommit _ | .timerTrap _
  | .sleepWake _ _ | .semwaitRetry _ _ | .pulsarTick _ | .parkedReplay _ _ | .parkedRetryPeriod _ _ | .copyOnWrite _ _
  | .migration _ | .thrashPinEnd _ | .fillStart _ _ | .mergeStep _ | .cacheEviction _ _ _ _ | .scrub _ _ _
  | .flitRetransmit _ _ _ | .errorRingWrite | .msixMessage _ | .commandWindowWrite _ _ _ | .build _ | .destroy _ | .seal _
  | .registerWrite _ | .plainRegisterWrite _ _ _ | .catalogueLoad _ | .translationUpdate _ | .copy _ _ | .attest _ | .quantum _
  | .frame64 _ _ | .frame2m _ _ | .rframe _ | .rtcount _ | .rangeLoad _ | .rangeRemove _ | .resync _ _ | .hostRead _ _
  | .hostWrite _ _ | .unlistedAccess _ _ | .linkFrame _ _ _ _ _ _ _ | .linkAck _ _ _ | .resyncFrame _ _ | .linkRetrain _ | .reset
  | .powerLimit _ | .thermalTrip | .managementRead _ | .managementReset | .sealCompletion _ | .remoteWriteApply _ _
  | .softError _ _ _ _ | .idleIssueEnd _ | .linkDown _ | .msixTableWrite _ _ | .hostAtomicop _ _ _ _ _ => []

/-- The registers read and written. -/
def regReads (kd : CoreKind) (i : Instr) : List RegId := ((uses kd i).filter fun u => !u.wr).map (·.reg)
def regWrites (kd : CoreKind) (i : Instr) : List RegId := ((uses kd i).filter fun u => u.wr).map (·.reg)

/-- Whether a register class falls under R54. -/
def grouped : RegId → Bool
  | .v _ | .k _ | .p _ | .f _ => true
  | .t _ | .a _ | .s _ => false

/-- The latency class of an instruction's results, if they have a stated latency (R66). -/
def latClass (i : Instr) : Option Nat :=
  match i with
  | .kmov _ _ | .kmovi _ _ | .khi _ _ | .kadd _ _ _ _ | .kaddi _ _ _ | .ksub _ _ _ _ | .kand _ _ _ | .kor _ _ _ | .kxor _ _ _ | .knot _ _
  | .kshl _ _ _ _ | .kshr _ _ _ _ | .ksar _ _ _ _ | .krot _ _ _ _ | .kandImm _ _ _ | .korImm _ _ _ | .kxorImm _ _ _ | .kshlImm _ _ _ _
  | .kshrImm _ _ _ _ | .ksarImm _ _ _ _ | .krotImm _ _ _ _ | .kmin _ _ _ _ _ | .kmax _ _ _ _ _ | .kcmp _ _ _ _ _ | .ksel _ _ _ _
  | .kpopc _ _ _ | .kclz _ _ _ | .kctz _ _ _ | .kbfe _ _ _ _ _ | .kbfi _ _ _ _ | .pand _ _ _ _ _ | .por _ _ _ _ _ | .pxor _ _ _ _ _
  | .pnot _ _ => some 0
  | .kmul _ _ _ _ | .kmulh _ _ _ _ | .kmad _ _ _ _ | .kdivs _ _ _ => some 1
  | .krfl _ _ _ | .krdl _ _ _ _ | .krds _ _ | .pmovk _ _ | .kmovp _ _ => some 2
  | .vadd _ _ _ _ _ _ _ | .vsub _ _ _ _ _ _ _ | .vneg _ _ _ _ _ | .vabs _ _ _ _ _ | .vmin _ _ _ _ _ _ | .vmax _ _ _ _ _ _
  | .vand _ _ _ _ | .vor _ _ _ _ | .vxor _ _ _ _ | .vnot _ _ _ | .vshl _ _ _ _ _ | .vshr _ _ _ _ _ | .vsar _ _ _ _ _
  | .vbfe _ _ _ _ _ | .vbfi _ _ _ _ | .vpopc _ _ _ _ | .vclz _ _ _ _ | .vcmp _ _ _ _ _ _ | .vsel _ _ _ _ | .vmov _ _ _
  | .vmovi _ _ _ _ => some 3
  | .vmul _ _ _ _ _ _ _ | .vmulh _ _ _ _ _ _ | .vmad _ _ _ _ _ _ _ => some 4
  | .vfadd _ _ _ _ _ _ | .vfsub _ _ _ _ _ _ | .vfmul _ _ _ _ _ _ | .vfma _ _ _ _ _ _ | .vfms _ _ _ _ _ _ | .vfmin _ _ _ _ _
  | .vfmax _ _ _ _ _ | .vfcmp _ _ _ _ _ | .vftwos _ _ _ _ | .vftwop _ _ _ _ => some 5
  | .vfrcp _ _ _ _ _ | .vfrsq _ _ _ _ _ | .vfdivs _ _ _ _ _ _ | .vfexp2 _ _ _ _ _ | .vflog2 _ _ _ _ _ | .vfrnd _ _ _ _ _
  | .vfclass _ _ _ _ => some 6
  | .vcvt _ _ _ _ _ _ | .vcvtn _ _ _ _ _ _ _ | .vcvtw _ _ _ _ _ _ _ | .vcvtf _ _ _ _ _ _ _ _ => some 7
  | .vqmx _ _ _ _ _ _ _ | .vdqmx _ _ _ _ _ _ _ => some 8
  | .vshuf _ _ _ _ | .vshufImm _ _ _ _ | .vbcast _ _ _ _ | .vbfly _ _ _ _ => some 9
  | .vred _ _ _ _ _ _ | .vscan _ _ _ _ _ _ | .vballot _ _ _ _ | .vvote _ _ _ _ | .vactive _ _ _ => some 10
  | .spld _ _ _ _ _ | .spldt _ _ _ => some 11
  | .vmovAcc _ _ _ _ | .mrda _ _ _ => some 12
  | _ => none

end Sys2Proof.Machine
end

