-- ==== Sys2Proof/Machine/Seal.lean ====
section
/-!
DEFINITION. The checks of the sealing engine on an image (R53, R54, R58 to R73): the header, the format records, each slot word, groups,
and, in a tensor image, paths.
-/
namespace Sys2Proof.Machine

/-- A rejection: the reason, the slot charged (0xFF for none) and the byte offset (R73). -/
structure Reject where
  reason : Nat
  slot : Nat
  offset : Nat
  deriving DecidableEq, Repr

-- ## Step 1: the header (R61, R63, R64, R67)

/-- The latency classes that the code uses. -/
def usedClasses (code : List (List (Dec Instr))) : List Nat :=
  code.flatMap fun b => b.filterMap fun w => match w with | .ok i => latClass i | .error _ => none

/-- The header's checks in ascending offset: offset, reason, and whether it fails. `len` is the length in the command, `privQueue`
whether the command came through the privileged window (R60, R73). -/
def headerChecks (h : List Byte) (len : Nat) (privQueue : Bool) (used : List Nat) : List (Nat × Nat × Bool) :=
  let f := fun (off n : Nat) => recField h off n
  let shading := f 6 1 == 0
  let flags := f 7 1
  let count := fun (n : Nat) => decide (n < 8 || 64 < n) || n % 8 != 0
  let code := f 0x60 4
  let clen := f 0x64 4
  let used0 := fun (i : Nat) => f (0x40 + 4 * i) 4 != 0xFFFFFFFF
  let zeros := fun (lo n : Nat) => (upFrom lo n).map fun o => ((o, 0x9006, f o 1 != 0) : Nat × Nat × Bool)
  [(0x00, 0x9001, f 0 4 != 0x1F6A8E3D), (0x04, 0x9002, f 4 2 != 0x0100), (0x06, 0x9003, decide (1 < f 6 1)),
   (0x07, 0x9006, decide (64 ≤ flags) || fld flags 4 2 == 3 || (fld flags 4 2 != 0 && !bitOf flags 3)
      || (!shading && (bitOf flags 1 || bitOf flags 2 || bitOf flags 3))),
   (0x07, 0x3002, bitOf flags 0 && !privQueue),
   (0x08, 0x9004, count (f 8 1)), (0x09, 0x9004, count (f 9 1)), (0x0A, 0x9004, f 0xA 1 != 16),
   (0x0B, 0x9004, decide (32 < f 0xB 1) || f 0xB 1 % 2 != 0),
   (0x0C, 0x9004, f 0xC 1 != 0 && (shading || f 0xC 1 != 16)), (0x0D, 0x9004, f 0xD 1 != 0 && (shading || f 0xD 1 != 16))]
  ++ zeros 0x0E 2
  ++ (List.range 16).map (fun c =>
      (0x10 + c, 0x9005, decide (63 < f (0x10 + c) 1) || (decide (13 ≤ c) && f (0x10 + c) 1 != 0)
        || (used.elem c && f (0x10 + c) 1 == 0) || (c == 11 && !shading && used.elem c && decide (f (0x10 + c) 1 < 4))))
  ++ [(0x30, 0x7006, decide (256 < f 0x30 2)), (0x30, 0x9006, shading && f 0x30 2 != 0),
      (0x32, 0x7006, decide (512 < f 0x32 2)), (0x32, 0x9006, shading && f 0x32 2 != 0)]
  ++ zeros 0x34 12
  ++ (List.range 8).map (fun i => (0x40 + 4 * i, 0x9006, (used0 i && f (0x40 + 4 * i) 4 % 32 != 0) || (i == 0 && !used0 0)))
  ++ [(0x60, 0x9006, decide (code < 0x100) || code % 32 != 0),
      (0x64, 0x9006, clen == 0 || clen % 32 != 0 || decide (len < code + clen)
        || (List.range 8).any fun i => used0 i && (decide (f (0x40 + 4 * i) 4 < code) || decide (code + clen ≤ f (0x40 + 4 * i) 4))),
      (0x68, 0x9006, f 0x68 4 % 65536 != 0 || (f 0x6C 4 != 0 && decide (f 0x68 4 < code + clen) && f 0x68 4 != 0)),
      (0x6C, 0x9006, f 0x68 4 == 0 && f 0x6C 4 != 0),
      (0x70, 0x9006, shading && f 0x70 4 != 0), (0x74, 0x9006, decide (64 < f 0x74 2) || (shading && f 0x74 2 != 0)),
      (0x76, 0x9006, decide (1 < f 0x76 2)),
      (0x78, 0x9006, f 0x78 1 == 0 || decide ((if shading then 32 else 16) < f 0x78 1)),
      (0x79, 0x9006, if shading then f 0x79 1 != 0 else f 0x79 1 == 0 || decide (8 < f 0x79 1))]
  ++ zeros 0x7A 0x86

def headerReject (l : List (Nat × Nat × Bool)) : Option Reject :=
  (l.find? (·.2.2)).map fun x => { reason := x.2.1, slot := 0xFF, offset := x.1 }

-- ## Step 2: format records (R65)

def recordLegal (r : Nat) : Bool :=
  if fld r 16 2 = 3 then r == 3 * 2 ^ 16
  else
    let e := fld r 28 4
    let m := fld r 24 4
    let sg := fld r 23 1
    let nanp := fld r 21 2
    decide (1 ≤ e ∧ e ≤ 7 ∧ m ≤ 7) && fld r 18 2 == 0 && fld r 8 8 == 0 && nanp != 3 && (recordWidth r == some (sg + e + m))
      && (nanp != 1 || decide (2 ≤ e)) && (bitOf r 20 || nanp != 0)

def formatReject (i : Image) : Option Reject :=
  (i.fmt.findIdx? fun r => !recordLegal r).map fun n => { reason := 0x6001, slot := 0xFF, offset := 0x20 + 4 * n }

-- ## Step 3: slot words (R56 to R61, R64, R65)

/-- Whether a word's opcode is a privileged form (R60). -/
def privWord (slot w : Nat) : Bool :=
  match slot with
  | 0 => fld w 25 6 == 0x1F || fld w 25 6 == 0x20 || fld w 25 6 == 0x21
  | 1 => fld w 26 6 == 0x26 && specialPrivileged (fld w 12 6)
  | 5 => fld w 26 6 == 0x0E || fld w 26 6 == 0x0F
  | _ => false

/-- The declared count of a register's class. -/
def declared (i : Image) : RegId → Nat
  | .k _ => i.nk | .v _ => i.nv | .p _ => 16 | .t _ => i.nt | .a _ => i.na | .s _ => i.ns | .f _ => 4
def regNo : RegId → Nat
  | .k n | .v n | .p n | .t n | .a n | .s n | .f n => n
def overCount (i : Image) (u : Use) : Bool := decide (declared i u.reg ≤ regNo u.reg)

/-- A tile-source MPUSH or MLDS of an image without stream registers carries SR = 0, which names no stream (R305). -/
def namesNone (i : Image) (x : Instr) (u : Use) : Bool :=
  match x with
  | .mpushTile _ _ _ | .mldsTile _ _ _ _ => i.ns == 0 && u.reg == .s 0
  | _ => false

/-- The format registers that a word selects with an immediate, with whether the record fits (R65, R246, R248, R249). -/
def formatOk (i : Image) (x : Instr) : Bool :=
  let rec_ := fun n => i.fmt.getD n 0
  let is8 := recordWidth (rec_ 0) == some 8
  let elems : Nat → Nat := fun n => match recordWidth (rec_ n) with | some 4 => 8 | some _ => 4 | none => 0
  let qf := fun (t : QFmt) (c : Nat) => match t with
    | .f1 => decide (2 * c < elems 1) | .f2 => decide (2 * c < elems 2) | .f3 => decide (2 * c < elems 3)
    | _ => true
  match x with
  | .vcvt t _ s _ _ _ => (t != .f8x4 && s != .f8x4) || is8
  | .vcvtn t _ s _ _ _ _ => (t != .f8x4 && s != .f8x4) || is8
  | .vcvtw t _ s _ _ _ _ => (t != .f8x4 && s != .f8x4) || is8
  | .vcvtf t _ f _ g _ _ _ => decide ((g.val + 1) * (match t with | .f32 => 1 | _ => 2) ≤ elems f.val)
  | .vqmx t _ c _ _ _ _ => qf t c
  | .vdqmx t _ c _ _ _ _ => qf t c
  | .mopImm _ w x f _ _ => recordFits (rec_ f) w && recordFits (rec_ f) x
  | _ => true

/-- MOP (imm): the pair of entry and formats (R310). -/
def mopOk (x : Instr) : Bool :=
  match x with
  | .mopImm e w v f ws xs => mopBad (mopWord e w v f ws xs) 0 != some 2
  | _ => true

/-- Fragment declarations (R64, R356). -/
def fragBad (i : Image) (x : Instr) : Option Nat :=
  match x with
  | .kill _ => if !imgFrag i then some 0x8004 else if !imgKd i then some 0x8001 else none
  | .depw m _ _ =>
    if !imgFrag i then some 0x8004 else if !imgDw i then some 0x8002
    else if imgDdir i != 0 && imgDdir i != m.code then some 0x8003 else none
  | .interp _ _ _ _ | .zqry _ _ _ => if imgFrag i then none else some 0x8004
  | _ => none

/-- The reason for which one slot word is rejected. -/
def wordReject (i : Image) (slot w : Nat) : Option Nat :=
  let priv := privWord slot w && !bitOf i.flags 0
  match decodeSlot i.kind slot w with
  | .error r => some (if r < 0x2000 ∨ r = 0x3001 ∨ r = 0x2004 then r else if priv then 0x3002 else r)
  | .ok x =>
    let us := uses i.kind x
    if priv then some 0x3002
    else if us.any fun u => u.grp && overCount i u then some 0x2007
    else if us.any fun u => overCount i u && !namesNone i x u then some 0x2003
    else if !mopOk x then some 0xA001
    else if !formatOk i x then some 0x6002
    else fragBad i x

/-- The first slot word rejected, bundles in address order. -/
def wordsReject (i : Image) (code : List (List Nat)) : Option Reject :=
  (code.zipIdx).findSome? fun b => (b.1.zipIdx).findSome? fun w =>
    (wordReject i w.2 w.1).map fun r => { reason := r, slot := w.2, offset := i.codeOff + 32 * b.2 }

-- ## Steps 4 and 5: what a failure is charged to (R70)

/-- A failure: bundle number, slot, place of its reason in the table of R70, reason. -/
structure Charge where
  bundle : Nat
  slot : Nat
  order : Nat
  reason : Nat
  deriving DecidableEq, Repr

def Charge.before (a b : Charge) : Bool :=
  decide (a.bundle < b.bundle) || (a.bundle == b.bundle && (decide (a.slot < b.slot) || (a.slot == b.slot && decide (a.order < b.order))))

/-- The failure that a step reports. -/
def firstCharge (l : List Charge) : Option Charge :=
  match l with
  | [] => none
  | c :: r => some (r.foldl (fun o x => if x.before o then x else o) c)

-- ## Step 4: groups (R53, R54)

/-- The eight instructions of a bundle, decoded; and its S bit. -/
structure Bun where
  ins : List Instr
  stop : Bool
  deriving DecidableEq, Repr

def Bun.ctl (b : Bun) : Instr := b.ins.getD 0 .nop

/-- The static target of a bundle in bundles from the start of the code (R53). -/
def staticTarget (n : Nat) (b : Bun) : Option Int :=
  match b.ctl with
  | .br _ _ o | .brc _ _ _ o | .call _ o => some ((n : Int) + signedOf 19 o.toNat)
  | _ => none

/-- Instructions that can transfer control (R53). -/
def endsGroup (i : Instr) : Bool :=
  match i with
  | .br _ _ _ | .brc _ _ _ _ | .brx _ _ | .call _ _ | .callx _ _ _ | .ret _ _ | .tret _ | .trap _ _ | .halt _ _ | .done _ | .yield _
  | .sleep _ _ => true
  | _ => false

/-- The number of each bundle within its group, from 1. -/
def groupNumbers : Nat → List Bun → List Nat
  | _, [] => []
  | n, b :: r => n :: groupNumbers (if b.stop then 1 else n + 1) r

/-- Bundles that start a group. -/
def groupStarts (code : List Bun) : List Nat := ((groupNumbers 1 code).zipIdx).filterMap fun x => if x.1 = 1 then some x.2 else none

/-- Pairs under R54 in scan order: the registers read and written so far in the group are kept. -/
def pairScan (kd : CoreKind) : List (Nat × Nat × Instr × Bool) → List RegId → List RegId → List Charge
  | [], _, _ => []
  | (n, sl, i, first) :: l, rds, wrs =>
    let rds := if first then [] else rds
    let wrs := if first then [] else wrs
    let r := (regReads kd i).filter grouped
    let w := (regWrites kd i).filter grouped
    let bad := r.any (fun x => wrs.elem x) || w.any (fun x => wrs.elem x || rds.elem x)
    let more := pairScan kd l (r ++ rds) (w ++ wrs)
    if bad then { bundle := n, slot := sl, order := 5, reason := 0x4001 } :: more else more

/-- The instructions in scan order, each with whether it is the first of its group. -/
def scanOrder (code : List Bun) : List (Nat × Nat × Instr × Bool) :=
  let starts := groupStarts code
  (code.zipIdx).flatMap fun b => (b.1.ins.zipIdx).map fun i => (b.2, i.2, i.1, i.2 == 0 && starts.elem b.2)

def groupCharges (i : Image) (code : List Bun) : List Charge :=
  let starts := groupStarts code
  let last := code.length - 1
  let targets := (code.zipIdx).filterMap fun b => match staticTarget b.2 b.1 with
    | some t =>
      if t < 0 ∨ (code.length : Int) ≤ t then some { bundle := b.2, slot := 0, order := 0, reason := 0x5001 }
      else if starts.elem t.toNat then none else some { bundle := b.2, slot := 0, order := 1, reason := 0x5002 }
    | none => none
  let entries := i.entries.filterMap fun e =>
    let n := (e - i.codeOff) / 32
    if e = 0xFFFFFFFF ∨ starts.elem n then none else some { bundle := n, slot := 0xFF, order := 2, reason := 0x5002 }
  let ends := (code.zipIdx).filterMap fun b =>
    if endsGroup b.1.ctl && !b.1.stop then some { bundle := b.2, slot := 0, order := 3, reason := 0x5004 } else none
  let long := ((groupNumbers 1 code).zipIdx).filterMap fun x =>
    if x.1 = 17 then some { bundle := x.2, slot := 0xFF, order := 4, reason := 0x4003 } else none
  let tail := match code.getLast? with
    | some b => if b.stop then [] else [{ bundle := last, slot := 0xFF, order := 6, reason := 0x4004 }]
    | none => []
  targets ++ entries ++ ends ++ long ++ pairScan i.kind (scanOrder code) [] [] ++ tail

-- ## Step 5: paths of a tensor image (R68, R69, R71)

def isCkpt (b : Bun) : Bool := match b.ctl with | .ckpt _ => true | _ => false

/-- The successors of a bundle that the code itself gives: a static target, and the next bundle, to which a call returns. Targets in
registers stand at CKPT bundles (R75), where paths end. -/
def successors (len n : Nat) (b : Bun) : List Nat :=
  let next := if n + 1 < len then [n + 1] else []
  let target := match staticTarget n b with | some t => if 0 ≤ t ∧ t < len then [t.toNat] else [] | none => []
  match b.ctl with
  | .br _ _ _ => target
  | .brc _ _ _ _ | .call _ _ => target ++ next
  | .brx _ _ | .ret _ _ | .tret _ | .trap _ _ | .halt _ _ | .done _ => []
  | _ => next

def dedup : List Nat → List Nat
  | [] => []
  | x :: r => let l := dedup r; if l.elem x then l else x :: l

/-- Bundles one step on. -/
def stepOn (succ : List (List Nat)) (front : List Nat) : List Nat := dedup (front.flatMap fun n => succ.getD n [])

/-- Bundles at each distance 1, 2, … up to `n` steps. -/
def distances (succ : List (List Nat)) : Nat → List Nat → List (List Nat)
  | 0, _ => []
  | n + 1, front => match stepOn succ front with
    | [] => []
    | f => f :: distances succ n f

/-- Bundles reached in any number of steps, at least one. -/
def reached (succ : List (List Nat)) : Nat → List Nat → List Nat → List Nat
  | 0, seen, _ => seen
  | n + 1, seen, front =>
    match (stepOn succ front).filter fun x => !seen.elem x with
    | [] => seen
    | f => reached succ n (seen ++ f) f

/-- Control points of R69. -/
def controlPoint (i : Instr) : Bool :=
  match i with
  | .brx _ _ | .call _ _ | .callx _ _ _ | .ret _ _ | .trap _ _ | .tret _ | .sleep _ _ | .yield _ | .ckpt _ => true
  | _ => false

/-- The bundles that the image's entry points name. -/
def entryBundles (i : Image) : List Nat := i.entries.filterMap fun e => if e = 0xFFFFFFFF then none else some ((e - i.codeOff) / 32)

/-- 0x4005 and 0x4006: what lies within a write's stated latency along every path (R68, R69). -/
def latencyCharges (i : Image) (code : List Bun) (succ : List (List Nat)) : List Charge :=
  let beforeEntry := ((entryBundles i).filter fun e => decide (0 < e)).map (· - 1)
  (code.zipIdx).flatMap fun b => b.1.ins.flatMap fun x =>
    match latClass x with
    | none => []
    | some c =>
      let ws := regWrites .tensor x
      if ws = [] then []
      else
        let lat := i.lat.getD c 0
        let near := dedup (distances succ (lat - 1) [b.2]).flatten
        let early := near.flatMap fun n => match nth? code n with
          | none => []
          | some t => (t.ins.zipIdx).filterMap fun y =>
            if (regReads .tensor y.1 ++ regWrites .tensor y.1).any fun r => ws.elem r then
              some { bundle := n, slot := y.2, order := 7, reason := 0x4005 }
            else none
        -- a write in the control point's own bundle has not elapsed before it either
        let open_ := (dedup (if lat = 0 then near else b.2 :: near)).flatMap fun n => match nth? code n with
          | none => []
          | some t =>
            (if controlPoint t.ctl then [{ bundle := n, slot := 0, order := 8, reason := 0x4006 }] else [])
            ++ (if beforeEntry.elem n then [{ bundle := n, slot := 0xFF, order := 8, reason := 0x4006 }] else [])
        early ++ open_

/-- Where checkpoint intervals start (R71). -/
def intervalStarts (i : Image) (code : List Bun) : List Nat :=
  dedup (entryBundles i ++ (code.zipIdx).filterMap fun b => if isCkpt b.1 ∧ b.2 + 1 < code.length then some (b.2 + 1) else none)

/-- The backward branch of a bundle that closes a cycle without CKPT. -/
def closes (code : List Bun) (inner : List (List Nat)) (b : Bun × Nat) : Option Nat :=
  match staticTarget b.2 b.1 with
  | some t =>
    if 0 ≤ t && t ≤ b.2 && (inner.getD b.2 []).elem t.toNat
        && (t.toNat == b.2 || (reached inner code.length [] [t.toNat]).elem b.2) then some t.toNat
    else none
  | none => none

/-- 0x7001: a cycle without CKPT, or an interval of more than 4,096 bundles (R71). A path that goes round a cycle is charged to the edge
that closes it, and the lengths are those of the other paths. -/
def cycleCharges (i : Image) (code : List Bun) (inner : List (List Nat)) : List Charge :=
  let back := (code.zipIdx).filterMap fun b => (closes code inner b).map fun t => (b.2, t)
  let open_ := inner.zipIdx.map fun x => x.1.filter fun t => !back.elem (x.2, t)
  let far := (distances open_ 4096 (intervalStarts i code)).getD 4095 []
  back.map (fun e => { bundle := e.1, slot := 0, order := 9, reason := 0x7001 })
    ++ far.map fun n => { bundle := n, slot := 0xFF, order := 9, reason := 0x7001 }

/-- Store-buffer entries and journaled lines of a bundle's memory instruction (R71). -/
def storeWeight (i : Instr) : Nat :=
  match i with
  | .stu _ _ _ _ _ | .stl _ _ _ _ _ | .atomu _ _ _ _ _ => 1
  | .st _ _ _ _ _ _ | .atom _ _ _ _ _ _ | .atomf _ _ _ _ _ _ | .cas _ _ _ _ _ => 64
  | .stt _ _ _ _ | .stta _ _ _ _ _ => 128
  | _ => 0
def lineWeight (i : Instr) : Nat :=
  match i with
  | .spst _ _ _ _ _ => 64
  | .spstt _ _ _ => 128
  | _ => 0

/-- The greatest count with which each bundle is reached without exceeding the bound, by relaxation. -/
def maxCounts (weight : List Nat) (bound : Nat) (inner : List (List Nat)) : Nat → Sparse Nat → Sparse Nat
  | 0, m => m
  | fuel + 1, m =>
    let next := m.foldl (fun (acc : Sparse Nat) x =>
      let out := x.2 - 1 + weight.getD x.1 0
      if bound < out then acc
      else (inner.getD x.1 []).foldl (fun a j => if Sparse.get 0 a j < out + 1 then Sparse.insert a j (out + 1) else a) acc) m
    if next = m then m else maxCounts weight bound inner fuel next

/-- 0x7002 and 0x7003: the store whose count first exceeds a bound (R71). -/
def countCharges (i : Image) (code : List Bun) (inner : List (List Nat)) (weigh : Instr → Nat) (bound order reason : Nat) : List Charge :=
  let weight := code.map fun b => weigh (b.ins.getD 4 .nop)
  let m := maxCounts weight bound inner (code.length * (bound + 2)) ((intervalStarts i code).foldl (fun a n => Sparse.insert a n 1) [])
  m.filterMap fun x =>
    if bound < x.2 - 1 + weight.getD x.1 0 then some { bundle := x.1, slot := 4, order := order, reason := reason } else none

/-- What slot 5 makes of the array between an MWAIT and a CKPT: waited for, unchanged, or busy. -/
def mtxAfter (busy : Bool) (b : Bun) : Bool :=
  match b.ins.getD 5 .nop with
  | .mwait => false
  | .nop | .mstat _ | .mrda _ _ _ => busy
  | _ => true

/-- Bundles that some path from an entry point, or from a matrix instruction, reaches without an MWAIT. -/
def busyIn (code : List Bun) (succ : List (List Nat)) : Nat → List Nat → List Nat
  | 0, l => l
  | fuel + 1, l =>
    let next := dedup (l ++ (code.zipIdx).flatMap fun b => if mtxAfter (l.elem b.2) b.1 then succ.getD b.2 [] else [])
    if next.length = l.length then l else busyIn code succ fuel next

/-- 0x7004, 0x7005 and 0x7007 (R71). -/
def ckptCharges (i : Image) (code : List Bun) (succ : List (List Nat)) : List Charge :=
  let busy := busyIn code succ code.length (dedup (entryBundles i))
  let at_ := fun n => match nth? code n with | some b => isCkpt b | none => false
  (code.zipIdx).flatMap fun b =>
    (if isCkpt b.1 && mtxAfter (busy.elem b.2) b.1 then [{ bundle := b.2, slot := 0, order := 12, reason := 0x7004 }] else [])
    ++ (if b.1.ins.getD 4 .nop == .fencesc && (b.2 == 0 || !at_ (b.2 - 1)) then [{ bundle := b.2, slot := 4, order := 13, reason := 0x7005 }]
        else [])
    ++ (match b.1.ctl with
        | .call _ _ | .callx _ _ _ => if at_ (b.2 + 1) then [] else [{ bundle := b.2, slot := 0, order := 14, reason := 0x7007 }]
        | _ => [])

def pathCharges (i : Image) (ckst ckln : Nat) (code : List Bun) : List Charge :=
  let succ := (code.zipIdx).map fun b => successors code.length b.2 b.1
  let inner := (code.zipIdx).map fun b => if isCkpt b.1 then [] else successors code.length b.2 b.1
  latencyCharges i code succ ++ cycleCharges i code inner ++ countCharges i code inner storeWeight ckst 10 0x7002
    ++ countCharges i code inner lineWeight ckln 11 0x7003 ++ ckptCharges i code succ

-- ## All checks

/-- The bundles of a code section as slot words. -/
def bundleWords (code : List Byte) (n : Nat) : List (List Nat) := (State.pieces 32 n code).map fun b => (State.pieces 4 8 b).map ofLE

def bunOf (kd : CoreKind) (ws : List Nat) : Bun :=
  { ins := (ws.zipIdx).map fun w => match decodeSlot kd w.2 w.1 with | .ok i => i | .error _ => .nop
    stop := decide (2 ^ 31 ≤ ws.getD 0 0) }

def chargeReject (i : Image) (l : List Charge) : Option Reject :=
  (firstCharge l).map fun c => { reason := c.reason, slot := c.slot, offset := i.codeOff + 32 * c.bundle }

/-- The first failure among the header bytes, given the code that CODEOFF and CODELEN name. -/
def checkHeader (h : List Byte) (len : Nat) (privQueue : Bool) (code : List Byte) : Option Reject :=
  let i := parseImage 0 h
  let ws := (bundleWords code (code.length / 32)).map fun b => (b.zipIdx).map fun w => decodeSlot i.kind w.2 w.1
  headerReject (headerChecks h len privQueue (usedClasses ws))

/-- Steps 2 to 5. -/
def checkCode (h code : List Byte) : Option Reject :=
  let i := parseImage 0 h
  let ws := bundleWords code (code.length / 32)
  match formatReject i with
  | some r => some r
  | none => match wordsReject i ws with
    | some r => some r
    | none =>
      let bs := ws.map (bunOf i.kind)
      match chargeReject i (groupCharges i bs) with
      | some r => some r
      | none =>
        if i.kind = .tensor then chargeReject i (pathCharges i (recField h 0x30 2) (recField h 0x32 2) bs) else none

namespace State

-- ## The pages (R70, R72, R74)

/-- The page rules for one image page: the reason it is rejected for, or its physical page. -/
def imagePage (s : State) (ctx va : Nat) : Except Nat Nat :=
  if 2 ^ 52 ≤ va || !s.ctxs.any (·.1 == ctx) then .error 0x9007
  else match s.walk ctx va with
    | .bad _ _ _ => .error 0x9007
    | .leaf _ e big =>
      if leafW e || leafCow e || !leafPres e then .error 0x9007
      else if leafProc e || paKind (leafPfn e) == .host then .error 0x9009
      else .ok (leafPa e va big / 65536)

/-- The pages of an image from its base, or the first rejection. -/
def imagePages (s : State) (ctx vbase : Nat) : List Nat → Except Reject (List Nat)
  | [] => .ok []
  | i :: r => match s.imagePage ctx (vbase + 65536 * i) with
    | .error e => .error { reason := e, slot := 0xFF, offset := 65536 * i }
    | .ok p => match s.imagePages ctx vbase r with
      | .error e => .error e
      | .ok l => .ok (p :: l)

/-- Bytes of an image, page by page; a page that cannot be read gives zeros, for its own check rejects the image. -/
def imageBytes (s : State) (ctx vbase off n : Nat) : List Byte :=
  (run (vbase + off) n).map fun a => match s.walk ctx a with | .leaf _ e big => s.byteAt (leafPa e a big) | .bad _ _ _ => 0

/-- What the engine finds: the pages that carry the sealing mark, the rejection if there is one, and the digest (R70, R73, R74). -/
structure Verdict where
  pages : List Nat
  bad : Option Reject
  digest : List Byte

/-- The verdict on an image of a context (R70). -/
def judge (s : State) (ctx vbase len : Nat) (privQueue : Bool) : Verdict :=
  let no := fun (pages : List Nat) (r : Reject) => ({ pages := pages, bad := some r, digest := [] } : Verdict)
  if vbase % 65536 ≠ 0 then no [] { reason := 0x9006, slot := 0xFF, offset := 0 }
  else match s.imagePage ctx vbase with
    | .error e => no [] { reason := e, slot := 0xFF, offset := 0 }
    | .ok p0 =>
      let h := s.imageBytes ctx vbase 0 256
      let i := parseImage vbase h
      let stop := i.codeOff + i.codeLen
      let code := if len < stop then [] else s.imageBytes ctx vbase i.codeOff i.codeLen
      match checkHeader h len privQueue code with
      | some r => no [p0] r
      | none => match s.imagePages ctx vbase (upFrom 1 ((stop - 1) / 65536)) with
        | .error r => no [p0] r
        | .ok l => match checkCode h code with
          | some r => no (p0 :: l) r
          | none => { pages := p0 :: l, bad := none, digest := sha512 (s.imageBytes ctx vbase 0 stop) }

end State
end Sys2Proof.Machine
end

