-- ==== Sys2Proof/Machine/HostOps.lean ====
section
/-!
DEFINITION. What the host interface and the links share: the registers of BAR0 (R128, R266, R389, R420 to R422, R434, R438), frames on a
link (R429 to R431), the range table (R388 to R390), and completion records (R423).
-/
namespace Sys2Proof.Machine

/-- The first address of BAR0 (R419). -/
def bar0 : Nat := 0x400000000000
/-- The PCI Express port and the command unit (R9). -/
def portSrc : Nat := 0x868
def cmdSrc : Nat := 0x816
/-- The privileged window's number. -/
def privWin : Nat := 4096

-- ## Fused values (R435 to R439), by word of `Config.fused` (log entry 11)

def fusedBytes (first words : Nat) : List Byte := (upFrom first words).flatMap fun i => leBytes 8 (Config.fused i).toNat
def devPub : List Byte := fusedBytes 0 4
def rollbackCount : Nat := (Config.fused 4).toNat % 2 ^ 32
def certBytes : List Byte := fusedBytes 8 96
def fwDigest : List Byte := fusedBytes 104 8
def fwKey : List Byte := fusedBytes 112 4
def fwVersion : Nat := (Config.fused 116).toNat % 2 ^ 32
/-- The digest of a stock image (R437), which the spec does not print. -/
def stockDigest (kind : Nat) : List Byte := fusedBytes (200 + 8 * kind) 8

namespace State

def built (s : State) (c : Nat) : Bool := s.ctxs.any (·.1 == c)

def window (s : State) (w : Nat) : Window := Sparse.get { pending := [], accept := 0, done := 0, drops := 0 } s.windows w
def setWindow (s : State) (w : Nat) (x : Window) : State := { s with windows := Sparse.insert s.windows w x }

/-- A PERM record in the device ring (R14, R419, R420, R422). -/
def devicePerm (s : State) (src pa : Nat) : State := s.logErr { errBase none src 0x09 with paddr := pa }

/-- An address without a home: the decoder of the requester's quadrant records it (R14). -/
def decoderPerm (s : State) (ctx : Option Nat) (src pa : Nat) : State :=
  let c := match ctx with | some n => if s.built n then some n else none | none => none
  s.logErr { errBase c (srcOf (16 + quadrantOf (dieOf src)) 23) 0x09 with paddr := pa }

-- ## Completion (R73, R423)

/-- Write a record at a physical DONEADDR as a release at SYS scope, count it and ask for a message. -/
def finish (s : State) (win src done : Nat) (rec_ : List Byte) : State :=
  if paHasHome done && paHasHome (done + rec_.length - 1) then
    let s := s.storeNow src done rec_ false
    let w := s.window win
    let s := s.setWindow win { w with done := (w.done + 1) % 2 ^ 32 }
    if win < privWin then s.ctxMsg win 16 else s.raiseMsg (bitOf s.irqPriv 16) s.irqPriv
  else s.decoderPerm (if win < privWin then some win else none) src done

/-- The 64-byte record of R423. -/
def completion (s : State) (win src done status flags count addr : Nat) : State :=
  let x := s.stamp src
  x.1.finish win src done (leBytes 8 x.2 ++ leBytes 2 src ++ leBytes 1 status ++ leBytes 1 flags ++ leBytes 4 0 ++ leBytes 8 count
    ++ leBytes 8 addr ++ leBytes 32 0)

-- ## Links (R429 to R433)

def linkZero : Link := { st := 0, retrains := 0, txSeq := 0, rxSeq := 0, replay := [], tx := [], rx := [] }
def link (s : State) (n : Nat) : Link := Sparse.get linkZero s.links n
def setLink (s : State) (n : Nat) (x : Link) : State := { s with links := Sparse.insert s.links n x }
/-- The source number of a link's port. -/
def linkSrc (n : Nat) : Nat := srcOf (16 + n / 3) (100 + n % 3)
/-- The link to a peer, if it has a route. -/
def routeOf (s : State) (peer : Nat) : Option Nat :=
  match Sparse.get 0 s.route peer with | 0 => none | n + 1 => some n

def chanOf (m : Sparse ExcChan) (c : Nat) : ExcChan := Sparse.get ExcChan.zero m c
/-- The channel's counts and table after a flit. -/
def chanAfter (c : ExcChan) (fmt : Nat) (raw : List Byte) : ExcChan :=
  let wide := fmt == 2
  excUpdate c ((excElems wide raw).map fun x => fld x (excMant wide) 8)
/-- A resync resets the channels of a mask. -/
def resetMask (m : Sparse ExcChan) (mask : Nat) : Sparse ExcChan := m.filter fun x => !bitOf mask x.1

/-- One frame in the form in which the sender's tables stand for it, and the tables after it (R430, R431). Only whole flits are coded. -/
def codeFrame (tx : Sparse ExcChan) (f : LinkFrame) : LinkFrame × Sparse ExcChan :=
  match f.mask with
  | some m => (f, resetMask tx m)
  | none =>
    if f.fmt = 0 ∨ f.raw.length ≠ 256 then ({ f with coded := false, body := f.raw }, tx)
    else
      let b := (excEncode (f.fmt == 2) 1 (chanOf tx f.channel) f.raw).1
      let tx' := Sparse.set ExcChan.zero tx f.channel (chanAfter (chanOf tx f.channel) f.fmt f.raw)
      if b.length < 256 then ({ f with coded := true, body := b }, tx') else ({ f with coded := false, body := f.raw }, tx')

/-- Put a frame on a link under the next sequence number. -/
def sendFrame (s : State) (n : Nat) (f : LinkFrame) : State :=
  let l := s.link n
  let r := codeFrame l.tx { f with seq := l.txSeq }
  s.setLink n { l with txSeq := (l.txSeq + 1) % 2 ^ 32, replay := l.replay ++ [r.1], tx := r.2 }

/-- A resync frame, on a link that is up. -/
def sendResync (s : State) (n mask : Nat) : State :=
  if (s.link n).st = 2 ∧ n < 12 then
    s.sendFrame n { seq := 0, mask := some (mask % 65536), channel := 0, fmt := 0, coded := false, pa := 0, raw := [], body := [] }
  else s

-- ## The migration pools (R266)

/-- Push a free frame. -/
def pushFrame (s : State) (q value : Nat) (big : Bool) : State :=
  let p := s.pool q
  let held := if big then p.free2m else p.free64
  if q < 4 ∧ value % pageSize big = 0 ∧ paKind value = .first ∧ homeOf value = q ∧ held.length < 1024 then
    (s.setPool q (giveFrame p big value)).wakeFrames q
  else s.devicePerm cmdSrc value

/-- What a read of RFRAME answers, and the queue after it. -/
def popRframe (s : State) (q : Nat) : State × Nat :=
  let p := s.pool q
  match p.ret with
  | [] => (s, 0)
  | (f, big) :: r => (s.setPool q { p with ret := r }, f + 2 ^ 63 * bit big)

-- ## The range table (R388 to R390)

def setRtcount (s : State) (v : Nat) : State := if v ≤ 1024 then { s with rtcount := v } else s.devicePerm cmdSrc (bar0 + 0x30008)

/-- A write of the command register: one command at a time. -/
def startRange (s : State) (v : Nat) : State :=
  if s.rtOp.isSome then s.devicePerm cmdSrc (bar0 + 0x30010)
  else { s with rtOp := some (fld v 0 10, bitOf v 16), rtlast := fld v 0 10 }

/-- Blocks of a range that are FILLING. -/
def anyFilling (s : State) (r : Nat) : Bool := s.blocks.any fun x => x.1 / 2 ^ 40 == r && x.2.st == .filling

/-- Clear a range: its blocks, what waited for their STATE pages, and its entry; requesters parked on it retry. -/
def clearRange (s : State) (r : Nat) : State :=
  let s := s.wake fun _ _ why => match why with | .block a _ => a == r | _ => false
  { s with ranges := Sparse.erase s.ranges r
           blocks := s.blocks.filter (fun x => x.1 / 2 ^ 40 != r)
           inflight := s.inflight.filter (fun f => f.range != r)
           heldFails := s.heldFails.filter fun x => x.1 != r }

/-- The fields of an entry. -/
def rangeOf (b : List Byte) : Range :=
  { vbase := recField b 0 8, len := recField b 8 8, bsize := recField b 0x10 1, prio := recField b 0x11 1, ctx := recField b 0x14 2
    gen := recField b 0x18 8, state := recField b 0x20 8, limit := recField b 0x28 4, queue := recField b 0x2C 4 }

/-- A page that the STATE array or the template needs (status 7). -/
def rangePage (s : State) (ctx va : Nat) (w : Bool) : Bool :=
  decide (va < 2 ^ 52) && match s.walk ctx va with
    | .leaf _ e _ => leafPres e && leafR e && (!w || leafW e) && !leafCow e && !leafProc e
    | .bad _ _ _ => false
/-- One address in each 64 KiB page of a run. -/
def pagesIn (va n : Nat) : List Nat :=
  if n = 0 then [] else (List.range ((va + n - 1) / 65536 - va / 65536 + 1)).map fun i => max va (65536 * (va / 65536 + i))

/-- The status of loading an entry (R390). -/
def rangeStatus (s : State) (idx : Nat) (b : List Byte) : Nat :=
  let x := rangeOf b
  if s.rtcount ≤ idx then 6
  else if 2 ≤ recField b 0x12 1 ∨ recField b 0x13 1 ≠ 0 ∨ recField b 0x16 2 ≠ 0 ∨ 16 ≤ x.prio ∨ ofLE (b.drop 0x30) ≠ 0 then 1
  else if x.vbase % 65536 ≠ 0 ∨ x.len = 0 ∨ x.len % 65536 ≠ 0 ∨ x.bsize < 12 ∨ 16 < x.bsize ∨ recField b 0x12 1 = 0 ∨ 4095 < x.ctx
      ∨ x.gen % 64 ≠ 0 ∨ x.state % 16 ≠ 0 ∨ 131071 < x.queue ∨ 2 ^ 52 < x.vbase + x.len then 2
  else if !s.built x.ctx then 4
  else if !(s.rangePage x.ctx x.gen false && (pagesIn x.state (16 * (x.len / 2 ^ x.bsize))).all fun a => s.rangePage x.ctx a true) then 7
  else
    let t := (s.unitRead { ctx := x.ctx, die := 16, gang := none, depth := 0 } x.gen 64).getD []
    let q := s.queue? x.queue
    if recReserved t then 1
    else if recKind t != 0 || !(match q with | some q => q.owner == x.ctx && q.kind == .shading | none => false) then 2
    else if s.ranges.any (fun y => y.1 != idx && y.2.ctx == x.ctx && overlaps y.2.vbase y.2.len x.vbase x.len) then 3
    else if s.anyFilling idx then 5 else 0

/-- Each block of a new range is EMPTY, and so says the STATE array. -/
def writeEmpty (s : State) (r : Nat) (x : Range) : State :=
  (List.range (x.len / 2 ^ x.bsize)).foldl (fun s b => match s.stateEntry r b with
    | some pa => s.storeNow fillSrc pa (blockBytes Block.zero) false
    | none => s) s

/-- The command in progress completes. -/
def finishRange (s : State) (idx : Nat) (remove : Bool) : State :=
  if s.rtOp = some (idx, remove) then
    let b := s.bytesAt (s.rtbase + 64 * idx) 64
    let st := if remove then (if s.anyFilling idx then 5 else 0) else s.rangeStatus idx b
    let s := { s with rtOp := none, rtstatus := st }
    if st ≠ 0 then s
    else if remove then s.clearRange idx
    else
      let s := s.clearRange idx
      State.writeEmpty { s with ranges := Sparse.insert s.ranges idx (rangeOf b) } idx (rangeOf b)
  else s

-- ## The registers (R128, R266, R389, R421, R434, R438)

/-- A register of `lo` to `hi` bits after a write of 4 or 8 bytes. -/
def mergeWrite (old v size lo n : Nat) : Nat := (fld (if size = 4 then v + old / 2 ^ 32 * 2 ^ 32 else v) lo n) * 2 ^ lo

def setQuantum (s : State) (v : Nat) : State := if v < 100000 ∨ 2 ^ 32 ≤ v then s else { s with quantum := v }
/-- A context's interrupt register exists while the context does. -/
def setIrq (s : State) (c v : Nat) : State :=
  if s.built c then s.setCtx c { s.ctx c with irq := fld v 0 11 + 2 ^ 16 * fld v 16 3 } else s
def irqWord (v : Nat) : Nat := fld v 0 11 + 2 ^ 16 * fld v 16 1
def setRoute (s : State) (n v : Nat) : State :=
  if v = 15 then { s with route := Sparse.erase s.route n }
  else if v < 12 then { s with route := Sparse.insert s.route n (v + 1) } else s

def writeSched (s : State) (o v : Nat) : State :=
  if o = 0 then s.setQuantum (v % 2 ^ 32) else if o = 8 then { s with drainlim := v % 2 ^ 32 } else s
def writePool (s : State) (o v : Nat) : State :=
  let q := o / 4096
  match o % 4096 with
  | 0 => s.pushFrame q v false
  | 8 => s.pushFrame q v true
  | 0x18 => if fld v 16 16 = 0 then s else s.setPool q { s.pool q with thresh := fld v 16 16, rem := bitOf v 1, en := bitOf v 0 }
  | _ => s
def writeFill (s : State) (o v size : Nat) : State :=
  match o with
  | 0 => { s with rtbase := mergeWrite s.rtbase v size 12 36 }
  | 8 => s.setRtcount v
  | 0x10 => s.startRange v
  | _ => s
def writeIrq (s : State) (o v : Nat) : State :=
  if o < 0x8000 then s.setIrq (o / 8) v
  else if o = 0x8000 then { s with irqDev := irqWord v }
  else if o = 0x8008 then { s with irqPriv := irqWord v }
  else if o = 0x8010 then { s with irqIdle := irqWord v }
  else s
def writeLink (s : State) (o v size : Nat) : State :=
  if o < 0x180 then (if o % 32 = 0 ∧ size = 8 then s.sendResync (o / 32) (fld v 32 16) else s)
  else if o < 0x280 then (List.range size).foldl (fun s i => s.setRoute (o - 0x180 + i) (fld v (8 * i) 4)) s
  else if o = 0x280 then { s with pwbase := mergeWrite s.pwbase v size 16 32 }
  else if o = 0x288 then { s with pwlimit := mergeWrite s.pwlimit v size 16 32 }
  else s

/-- A write of a register, by its offset in BAR0; nothing where no register block lies or the form is not one of R423. -/
def writeReg (s : State) (off value size : Nat) : Option State :=
  let v := value % 2 ^ (8 * size)
  if (size != 4 && size != 8) || off % 8 != 0 then none
  else if 0x10000 ≤ off ∧ off < 0x11000 then some (s.writeSched (off - 0x10000) v)
  else if 0x20000 ≤ off ∧ off < 0x24000 then some (s.writePool (off - 0x20000) v)
  else if 0x30000 ≤ off ∧ off < 0x31000 then some (s.writeFill (off - 0x30000) v size)
  else if 0x40000 ≤ off ∧ off < 0x49000 then some (s.writeIrq (off - 0x40000) v)
  else if 0x50000 ≤ off ∧ off < 0x50400 then some (s.writeLink (off - 0x50000) v size)
  else if 0x60000 ≤ off ∧ off < 0x61000 then some s
  else none

/-- The command window at an offset of BAR0. -/
def windowAt (off : Nat) : Option Nat :=
  if off < 4096 then some privWin
  else if 0x10000000 ≤ off ∧ off < 0x11000000 then some ((off - 0x10000000) / 4096) else none
/-- The queue window at an offset of BAR0. -/
def queueAt (off : Nat) : Option Nat := if 0x40000000 ≤ off ∧ off < 0x60000000 then some ((off - 0x40000000) / 4096) else none

def bytesWord (l : List Byte) (o : Nat) : Nat := ofLE ((l.drop o).take 8)

def poolWord (s : State) (o : Nat) : Nat :=
  let p := s.pool (o / 4096)
  match o % 4096 with
  | 0x10 => p.free64.length + 2 ^ 16 * p.free2m.length
  | 0x18 => bit p.en + 2 * bit p.rem + 2 ^ 16 * p.thresh
  | 0x20 => (s.popRframe (o / 4096)).2
  | 0x28 => p.migcnt % 2 ^ 64
  | _ => 0
def fillWord (s : State) (o : Nat) : Nat :=
  match o with
  | 0 => s.rtbase
  | 8 => s.rtcount
  | 0x18 => s.rtlast + 2 ^ 40 * s.rtstatus + 2 ^ 63 * bit s.rtOp.isNone
  | 0x20 => s.inflight.length
  | 0x28 => s.fillcnt % 2 ^ 64
  | 0x30 => s.failcnt % 2 ^ 64
  | _ => 0
def linkWord (s : State) (o : Nat) : Nat :=
  if o < 0x180 then
    let l := s.link (o / 32)
    if o % 32 = 0 then l.st else if o % 32 = 8 then l.retrains % 2 ^ 32 else 0
  else if o < 0x280 then
    ofLE ((List.range 8).map fun i => BitVec.ofNat 8 (match s.routeOf (o - 0x180 + i) with | some n => n | none => 15))
  else if o = 0x280 then s.pwbase else if o = 0x288 then s.pwlimit else 0
def secWord (s : State) (o : Nat) : Nat :=
  if o = 0 then s.bootstat else if o = 8 then rollbackCount
  else if 0x40 ≤ o ∧ o < 0x60 then bytesWord devPub (o - 0x40)
  else if 0x80 ≤ o ∧ o < 0xC0 then bytesWord fwDigest (o - 0x80)
  else if 0x100 ≤ o ∧ o < 0x400 then bytesWord certBytes (o - 0x100) else 0
def windowWord (s : State) (w o : Nat) : Nat :=
  let x := s.window w
  if o = 0xFC0 then x.accept + 2 ^ 32 * x.done else if o = 0xFC8 then x.drops else 0
def queueWord (s : State) (qn o : Nat) : Nat :=
  match s.queue? qn with
  | none => 0
  | some q => if o = 0xFC0 then q.head + 2 ^ 32 * q.tail else if o = 0xFC8 then q.drops + 2 ^ 32 * q.logcap else 0

/-- The 64-bit word of BAR0 at an 8-byte aligned offset; nothing where R420 lists nothing. -/
def regWord (s : State) (off : Nat) : Option Nat :=
  match windowAt off, queueAt off with
  | some w, _ => some (s.windowWord w (off % 4096))
  | none, some q => some (s.queueWord q (off % 4096))
  | none, none =>
    if 0x10000 ≤ off ∧ off < 0x11000 then
      some (if off = 0x10000 then s.quantum else if off = 0x10008 then s.drainlim else if off = 0x10010 then 65536 else 0)
    else if 0x20000 ≤ off ∧ off < 0x24000 then some (s.poolWord (off - 0x20000))
    else if 0x30000 ≤ off ∧ off < 0x31000 then some (s.fillWord (off - 0x30000))
    else if 0x40000 ≤ off ∧ off < 0x48000 then some ((s.ctx ((off - 0x40000) / 8)).irq)
    else if 0x48000 ≤ off ∧ off < 0x49000 then
      some (if off = 0x48000 then s.irqDev else if off = 0x48008 then s.irqPriv else if off = 0x48010 then s.irqIdle else 0)
    else if 0x50000 ≤ off ∧ off < 0x50400 then some (s.linkWord (off - 0x50000))
    else if 0x60000 ≤ off ∧ off < 0x61000 then some (s.secWord (off - 0x60000))
    else none

/-- Pools whose RFRAME a read of a run of BAR0 touches. -/
def rframesRead (off n : Nat) : List Nat := (List.range 4).filter fun q => overlaps (0x20020 + 4096 * q) 8 off n

/-- A host read of BAR0: the bytes, 0 with one record where an offset is not listed, and the frames it pops. While the part is in reset
only the security registers answer (R435). -/
def readBar0 (s : State) (off n : Nat) : State × List Byte :=
  let word := fun (a : Nat) => s.regWord (a / 8 * 8)
  let b := (run off n).map fun a => BitVec.ofNat 8 (fld ((word a).getD 0) (8 * (a % 8)) 8)
  if s.inReset then
    (s, (run off n).zip b |>.map fun x => if 0x60000 ≤ x.1 ∧ x.1 < 0x61000 then x.2 else 0)
  else
    let t := (rframesRead off n).foldl (fun s q => (s.popRframe q).1) s
    ((if (run off n).any fun a => (word a).isNone then t.devicePerm portSrc (bar0 + off) else t), b)

end State
end Sys2Proof.Machine
end

