-- ==== Sys2Proof/Machine/Host.lean ====
section
/-!
DEFINITION. The host interface (R143 to R145, R418 to R428, R435 to R439): command windows and every command, the register blocks, BAR2
and interrupts. A command's event does nothing unless that command is the next of its window.
-/
namespace Sys2Proof.Machine

/-- Byte runs that an opcode uses beside OPC, CTXID and DONEADDR (R143, R423). -/
def cmdUses : Nat → List (Nat × Nat)
  | 0x01 => [(8, 0x29), (0x30, 0x48)]
  | 0x02 => [(8, 0x48)]
  | 0x03 => [(8, 0x18)]
  | 0x04 => [(8, 0x19)]
  | 0x05 => [(8, 0x18)]
  | 0x06 => [(8, 0x18)]
  | 0x10 => [(8, 0x23)]
  | 0x20 => [(8, 0x30)]
  | _ => []

def cmdOpc (c : List Byte) : Nat := recField c 0 1
def cmdCtx (c : List Byte) : Nat := recField c 4 2
def cmdDone (c : List Byte) : Nat := recField c 0x48 8

/-- Every byte that the opcode does not use is 0 (R423). -/
def cmdBlank (c : List Byte) : Bool :=
  (c.zipIdx).all fun x => x.1 == 0 || [0, 4, 5].elem x.2 || (decide (0x48 ≤ x.2) && decide (x.2 < 0x50))
    || (cmdUses (cmdOpc c)).any fun r => decide (r.1 ≤ x.2) && decide (x.2 < r.2)

/-- The window may carry the opcode, and names its own context (R423). -/
def cmdAllowed (win : Nat) (c : List Byte) : Bool :=
  (cmdUses (cmdOpc c)) != [] && cmdBlank c && (win == privWin || (cmdCtx c == win && !([1, 2, 4, 5].elem (cmdOpc c))))

/-- Flags of a copy (R425). -/
def copyFlags (c : List Byte) : Nat := recField c 0x20 2
def copyPeer (c : List Byte) : Bool := bitOf (copyFlags c) 3
def copyFmt (c : List Byte) : Nat := fld (copyFlags c) 4 2

/-- The field rules of each opcode that a refusal covers (R423 to R425). -/
def cmdFields (win : Nat) (c : List Byte) : Bool :=
  match cmdOpc c with
  | 0x04 => decide (recField c 0x18 1 < 16)
  | 0x06 => decide (recField c 0x10 8 < 3) && decide (recField c 8 8 < 2 ^ 52)
  | 0x10 =>
    let f := copyFlags c
    let len := recField c 0x18 8
    recField c 8 8 % 64 == 0 && recField c 0x10 8 % 64 == 0 && len % 64 == 0 && len != 0 && decide (len < 2 ^ 40) && fld f 6 2 == 0
      && fld f 12 4 == 0 && copyFmt c != 3 && (!bitOf f 3 || bitOf f 2) && (win == privWin || fld f 1 2 == 0)
      && (bitOf f 3 || recField c 0x22 1 == 0)
  | _ => true

namespace State

-- ## Windows (R422)

/-- A write that reaches a command window. -/
def commandWrite (s : State) (win off : Nat) (data : List Byte) : State :=
  if s.inReset || decide (privWin < win) then s
  else if data.length ≠ 128 ∨ off % 128 ≠ 0 ∨ 0xF7F < off then
    s.devicePerm portSrc (bar0 + (if win = privWin then 0 else 0x10000000 + 4096 * win) + off)
  else if win < privWin ∧ s.built win = false then s
  else
    let w := s.window win
    if 256 ≤ w.pending.length then
      let s := s.setWindow win { w with drops := (w.drops + 1) % 2 ^ 32 }
      if win < privWin then s.ctxMsg win 18 else s
    else s.setWindow win { w with pending := w.pending ++ [data], accept := (w.accept + 1) % 2 ^ 32 }

/-- The next command of a window, once the one before it has completed. -/
def nextCommand (s : State) (win : Nat) : Option (List Byte) :=
  if s.inReset || s.seals.any (fun j => j.win == win) then none else (s.window win).pending.head?

def popCommand (s : State) (win : Nat) : State :=
  let w := s.window win
  s.setWindow win { w with pending := w.pending.drop 1 }

/-- Run the next command of a window: refuse it, or, where its opcode is `opc`, perform `f`. -/
def command (s : State) (win opc : Nat) (f : State → List Byte → State) : State :=
  match s.nextCommand win with
  | none => s
  | some c =>
    if !(cmdAllowed win c && cmdFields win c) then (s.popCommand win).completion win cmdSrc (cmdDone c) 0x21 0 0 0
    else if cmdOpc c = opc then f (s.popCommand win) c
    else s

/-- A command that completes at once with a status. -/
def complete (s : State) (win : Nat) (c : List Byte) (status addr : Nat) : State :=
  s.completion win cmdSrc (cmdDone c) status 0 0 addr

-- ## Build (R143, R144)

/-- The physical pages of a run, when each is valid, resident, writable and ordinary. -/
def ringPages (s : State) (ctx va n : Nat) (host : Bool) : Option (List Nat) :=
  (pagesIn va n).mapM fun a =>
    if 2 ^ 52 ≤ a then none
    else match s.walk ctx a with
      | .leaf _ e big =>
        let pa := leafPa e a big
        if leafPres e && leafW e && !leafCow e && !leafProc e && !leafSm e && (host || paKind pa != .host) then some (pageOf pa) else none
      | .bad _ _ _ => none

/-- A queue from its ring descriptor (R105). -/
def queueOf (ctx : Nat) (d : List Byte) : Option Queue :=
  let log := recField d 8 1
  if recField d 0 8 % 4096 = 0 ∧ 6 ≤ log ∧ log ≤ 16 ∧ recField d 9 1 < 2 ∧ ofLE (d.drop 10) = 0 then
    some { owner := ctx, ring := recField d 0 8, logcap := log, kind := if recField d 9 1 = 0 then .shading else .tensor, head := 0
           tail := 0, drops := 0, waiting := [], jobtag := 0, gcount := 0, nextGidx := 0, jobNo := 0, jobDone := [] }
  else none

/-- The context that a build command describes. -/
def ctxOf (c : List Byte) : Ctx :=
  { Ctx.zero with
      ptroot := recField c 0x08 8, qfirst := recField c 0x10 4, qcount := recField c 0x14 4, errRing := recField c 0x20 8
      errLog2 := recField c 0x28 1, savePool := recField c 0x30 8, saveSize := recField c 0x38 8
      cssel := (List.range 4).map fun i => recField c (0x40 + 2 * i) 2 }

/-- The fields of R143 and R257 lie in their ranges, and the context, its queues and its catalogue entries are free or present. -/
def buildFields (s : State) (n : Nat) (x : Ctx) : Bool :=
  decide (n < 4096) && decide (x.qfirst < 131072) && decide (1 ≤ x.qcount) && decide (x.qfirst + x.qcount ≤ 131072)
    && x.ptroot % 65536 == 0 && decide (6 ≤ x.errLog2) && decide (x.errLog2 ≤ 20) && x.savePool % 65536 == 0 && x.saveSize % 65536 == 0
    && !s.built n && !s.queues.any (fun q => decide (x.qfirst ≤ q.1) && decide (q.1 < x.qfirst + x.qcount))
    && (x.cssel.zipIdx).all fun e => decide (e.1 < 256) && s.catalogue.any fun y => y.1 == 256 * e.2 + e.1

/-- The queues of a build and the pages it pins. -/
def buildParts (s : State) (n : Nat) (x : Ctx) (desc : Nat) : Option (List Queue × List Nat) := do
  let t := s.setCtx n x
  let raw ← t.unitRead { ctx := n, die := 16, gang := none, depth := 0 } desc (16 * x.qcount)
  let qs ← (pieces 16 x.qcount raw).mapM (queueOf n)
  let rings ← qs.mapM fun q => t.ringPages n q.ring (64 * 2 ^ q.logcap) false
  let err ← t.ringPages n x.errRing (64 * 2 ^ x.errLog2) true
  let pool ← t.ringPages n x.savePool x.saveSize true
  some (qs, rings.flatten ++ err ++ pool)

def buildContext (s : State) (c : List Byte) : State × Nat :=
  let n := cmdCtx c
  let x := ctxOf c
  if s.buildFields n x then
    match s.buildParts n x (recField c 0x18 8) with
    | none => (s, 0x22)
    | some (qs, pins) =>
      let s := s.setCtx n { x with pins := pins }
      ({ s with queues := (qs.zipIdx).foldl (fun m q => Sparse.insert m (x.qfirst + q.2) q.1) s.queues
                pinned := s.pinned ++ pins.filter fun p => !s.pinned.elem p }, 0)
  else (s, 0x22)

-- ## Destroy (R145)

/-- What belongs to a context outside its gangs goes. -/
def dropContext (s : State) (n : Nat) : State :=
  let pins := (s.ctxs.filter fun x => x.1 != n).flatMap fun x => x.2.pins
  { s with frags := s.frags.filter (fun f => f.2.ctx != n)
           meshlets := s.meshlets.filter (fun m => m.ctx != n)
           hz := s.hz.filter (fun h => h.ctx != n)
           staged := s.staged.filter (fun t => t.ctx != n)
           flushes := s.flushes.filter (fun t => t.ctx != n)
           port := s.port.filter (fun t => t.ctx != n)
           incs := s.incs.filter (fun t => t.ctx != n)
           coreStore := s.coreStore.filter (fun x => x.2 != n + 1)
           errs := s.errs.filter (fun r => r.ctx != some n)
           heldPush := s.heldPush.filter (fun h => h.ctx != n)
           heldJoin := s.heldJoin.filter (fun h => h.ctx != n)
           heldFails := s.heldFails.filter (fun h => s.ranges.any fun r => r.1 == h.1)
           atomfs := s.atomfs.filter (fun h => match s.queue? h.queue with | some q => q.owner != n | none => false)
           copies := s.copies.filter (fun j => cmdCtx j.cmd != n || (j.win == privWin && fld (copyFlags j.cmd) 1 2 == 3))
           seals := s.seals.filter (fun j => j.ctx != n)
           tlb := s.tlb.filter (fun t => t.ctx != n)
           queues := s.queues.filter (fun q => q.2.owner != n)
           pinned := s.pinned.filter (fun p => pins.elem p || !(s.ctx n).pins.elem p)
           ctxs := Sparse.erase s.ctxs n }

def destroyContext (s : State) (n : Nat) : State :=
  if !s.built n then s
  else
    let s := s.setWindow n { s.window n with pending := [] }
    let mine := (s.gangs.filter fun g => g.2.ctx == n).map (·.1)
    let s := mine.foldl (fun s g => s.dropFrames g false) s
    let s := ((s.ranges.filter fun r => r.2.ctx == n).map (·.1)).foldl clearRange s
    let s := mine.foldl (fun s g => s.killGang g false 0x0F) s
    s.dropContext n

-- ## Seal (R70, R73, R74)

def startSeal (s : State) (win : Nat) (c : List Byte) : State :=
  let v := s.judge (cmdCtx c) (recField c 8 8) (recField c 0x10 8) (win == privWin)
  let r := v.bad.getD { reason := 0, slot := 0, offset := 0 }
  let j : SealJob :=
    { win := win, ctx := cmdCtx c, vbase := recField c 8 8, done := cmdDone c, pages := v.pages, aborted := false
      status := if v.bad.isSome then 1 else 0, slot := r.slot, reason := r.reason, offset := r.offset, digest := v.digest
      quadrant := match v.pages with | p :: _ => homeOf (65536 * p) | [] => 0 }
  { s with seals := s.seals ++ [j] }

/-- The sealed pages are a set, kept in ascending order. -/
def addPage (p : Nat) : List Nat → List Nat
  | [] => [p]
  | q :: l => if p < q then p :: q :: l else if p = q then q :: l else q :: addPage p l

def endSeal (s : State) (idx : Nat) : State :=
  match nth? s.seals idx with
  | none => s
  | some j =>
    let src := srcOf (16 + j.quadrant) 16
    let s := { s with seals := dropNth s.seals idx }
    let ok := j.status == 0 && !j.aborted
    let s := if ok then { s with sealed_ := j.pages.foldl (fun l p => addPage p l) s.sealed_ } else s
    let x := s.stamp src
    let st := if j.aborted then 2 else j.status
    x.1.finish j.win src j.done (leBytes 8 x.2 ++ leBytes 2 src ++ leBytes 1 st ++ leBytes 1 (if j.aborted then 0xFF else j.slot)
      ++ leBytes 2 (if j.aborted then 0x9008 else j.reason) ++ leBytes 2 0 ++ leBytes 8 (if j.aborted then 0 else j.offset)
      ++ leBytes 8 j.vbase ++ leBytes 32 0 ++ (if ok then j.digest else leBytes 64 0))

-- ## Catalogue load (R437)

/-- Bytes of host memory that the device reads. -/
def readHost (s : State) (pa n : Nat) : State × List Byte := ((linesOf pa n).foldl noteHostRead s, s.bytesAt pa n)

/-- Entries from an offset on: each is its 128 header bytes and as many image bytes as it says. Answers the offset of the first bad one. -/
def loadEntries (s : State) (pa len : Nat) : Nat → Nat → State × Option Nat
  | 0, _ => (s, none)
  | fuel + 1, off =>
    if len ≤ off then (s, none)
    else if len < off + 0x80 then (s, some off)
    else
      let h := s.readHost (pa + off) 0x80
      let n := recField h.2 4 4
      if len < off + 0x80 + n then (h.1, some off)
      else
        let b := h.1.readHost (pa + off + 0x80) n
        let num := recField h.2 0 2
        let kind := recField h.2 2 1
        if 255 < num ∨ 3 < kind ∨ Config.verifies (ofLE fwKey) (ofLE b.2) (ofLE (h.2.drop 0x40)) = false then (b.1, some off)
        else
          loadEntries { b.1 with catalogue := Sparse.insert b.1.catalogue (256 * kind + num) { stock := false, bytes := h.2 ++ b.2 } } pa len
            fuel (off + 0x80 + n)

def loadCatalogue (s : State) (win : Nat) (c : List Byte) : State :=
  let a := recField c 8 8
  let len := recField c 0x10 8
  if 2 ^ 47 < a + len then s.complete win c 0x22 0
  else
    let r := s.loadEntries (2 ^ 47 + a) len (len / 0x80 + 1) 0
    match r.2 with
    | none => r.1.complete win c 0 0
    | some off => r.1.complete win c 0x22 off

-- ## Translation update (R424)

def invSpan (size : Nat) : InvSpan := match size with | 0 => .p64 | 1 => .p2m | _ => .all

def updateTranslation (s : State) (win : Nat) (c : List Byte) : State :=
  let n := cmdCtx c
  let sp := invSpan (recField c 0x10 8)
  let s := if s.built n then (s.dropTlb n sp (recField c 8 8)).wakePage n sp (recField c 8 8) else s
  s.complete win c 0 0

-- ## Copy engines (R425, R426, R430, R432, R433)

def copySphys (c : List Byte) : Bool := bitOf (copyFlags c) 1
def copyDphys (c : List Byte) : Bool := bitOf (copyFlags c) 2
def copySrc (c : List Byte) : Nat := recField c 8 8
def copyDst (c : List Byte) : Nat := recField c 0x10 8
def copyLen (c : List Byte) : Nat := recField c 0x18 8
/-- The context for which a copy acts, if it translates an address. -/
def copyCtx (c : List Byte) : Option Nat := if copySphys c && copyDphys c then none else some (cmdCtx c)

def startCopy (s : State) (win : Nat) (c : List Byte) : State :=
  let j : CopyJob := { win := win, cmd := c, engine := none, at_ := 0, bad := false, sent := [], refused := none, stop := none }
  { s with copies := s.copies ++ [j] }

/-- The home of a copy's address, and whether that is host memory. -/
def copyHome (s : State) (c : List Byte) (a : Nat) (phys : Bool) : Nat × Bool :=
  let of_ := fun (pa : Nat) => (homeOf pa, paKind pa == .host)
  if phys then of_ a
  else if a < 2 ^ 52 ∧ s.built (cmdCtx c) = true then
    match s.walk (cmdCtx c) a with | .leaf _ e big => of_ (leafPa e a big) | .bad _ _ _ => (0, false)
  else (0, false)

/-- The quadrant whose base die executes a copy. -/
def copyQuadrant (s : State) (c : List Byte) : Nat :=
  let d := s.copyHome c (copyDst c) (copyDphys c)
  if copyPeer c || d.2 then (s.copyHome c (copySrc c) (copySphys c)).1 else d.1

/-- The lowest free engine of the base die. -/
def freeEngine (s : State) (q : Nat) : Option Nat := ((List.range 16).map (srcOf (16 + q))).find? fun e => s.copies.all fun j => j.engine != some e

/-- What one line of a copy meets: a failure with its class, a wait, or a physical address. -/
inductive CopyReach
  | bad (s : State) (cls : Nat)
  | wait (s : State)
  | ok (s : State) (pa : Nat)

def copyReach (s : State) (c : List Byte) (src a : Nat) (phys : Bool) (need : Need) : CopyReach :=
  if phys then (if paHasHome a then .ok s a else .bad (s.decoderPerm (copyCtx c) src a) 0x09)
  else if !s.built (cmdCtx c) then .bad s 0x0A
  else match s.unitReach { ctx := cmdCtx c, die := dieOf src, gang := none, depth := 0 } src a need with
    | .bad cls _ _ _ => .bad s cls.code
    | .wait s => .wait s
    | .ok s pa => .ok s pa

def setCopy (s : State) (idx : Nat) (j : CopyJob) : State := { s with copies := setNth s.copies idx j }

/-- One 64-byte line of a copy in this package: read in one access at its home, written as one store. -/
def copyLine (s : State) (idx : Nat) (j : CopyJob) (src : Nat) : State :=
  let a := copySrc j.cmd + j.at_
  let b := copyDst j.cmd + j.at_
  match s.copyReach j.cmd src a (copySphys j.cmd) .r with
  | .wait s => s
  | .bad s cls => s.setCopy idx { j with stop := some (cls, a) }
  | .ok s pa => match s.copyReach j.cmd src b (copyDphys j.cmd) .w with
    | .wait s => s
    | .bad s cls => s.setCopy idx { j with stop := some (cls, b) }
    | .ok s pb =>
      let bad := s.anyPoisoned pa 64
      let s := (s.noteHostRead pa).storeNow src pb (s.bytesAt pa 64) bad
      s.setCopy idx { j with at_ := j.at_ + 64, bad := j.bad || bad }

/-- The lines of a flit: a wait for one of them, or their addresses and the failure that ends them early. -/
inductive FlitRes
  | wait (s : State)
  | lines (s : State) (pas : List Nat) (stop : Option (Nat × Nat))

def flitLines (c : List Byte) (src a : Nat) : Nat → State → List Nat → FlitRes
  | 0, s, acc => .lines s acc none
  | n + 1, s, acc =>
    let at_ := a + 64 * acc.length
    match s.copyReach c src at_ (copySphys c) .r with
    | .wait s => .wait s
    | .bad s cls => .lines s acc (some (cls, at_))
    | .ok s pa => flitLines c src a n s (acc ++ [pa])

/-- One flit of a copy to a peer goes out as a frame (R429, R430). -/
def copyFlit (s : State) (idx : Nat) (j : CopyJob) (src : Nat) : State :=
  match s.routeOf (recField j.cmd 0x22 1) with
  | none => s.setCopy idx { j with stop := some (0x22, copyDst j.cmd + j.at_) }
  | some n =>
    let l := s.link n
    if l.st = 0 then s.setCopy idx { j with stop := some (0x22, copyDst j.cmd + j.at_), sent := [] }
    else if l.st = 1 then s
    else match flitLines j.cmd src (copySrc j.cmd + j.at_) (min 4 ((copyLen j.cmd - j.at_) / 64)) s [] with
      | .wait s => s
      | .lines s [] e => s.setCopy idx { j with stop := e }
      | .lines s pas e =>
        let raw := pas.flatMap fun pa => s.bytesAt pa 64
        let bad := pas.any fun pa => s.anyPoisoned pa 64
        let s := pas.foldl noteHostRead s
        let s := s.sendFrame n { seq := 0, mask := none, channel := fld (copyFlags j.cmd) 8 4, fmt := copyFmt j.cmd, coded := false
                                 pa := copyDst j.cmd + j.at_, raw := raw, body := [] }
        s.setCopy idx { j with at_ := j.at_ + 64 * pas.length, bad := j.bad || bad, sent := j.sent ++ [l.txSeq], stop := e }

/-- A copy has nothing left to do: its completion, by its engine. -/
def endCopy (s : State) (idx : Nat) (j : CopyJob) (src : Nat) : State :=
  let st := match j.stop, j.refused with | some x, _ => x | none, some pa => (0x09, pa) | none, none => (0, 0)
  State.completion { s with copies := dropNth s.copies idx } j.win src (cmdDone j.cmd) st.1 (bit j.bad) j.at_ st.2

/-- A copy in progress takes its next step. -/
def stepCopy (s : State) (idx : Nat) (j : CopyJob) : State :=
  match j.engine with
  | none => match s.freeEngine (s.copyQuadrant j.cmd) with
    | none => s
    | some e => s.setCopy idx { j with engine := some e }
  | some src =>
    if j.stop.isNone && decide (j.at_ < copyLen j.cmd) then
      if copyPeer j.cmd then s.copyFlit idx j src else s.copyLine idx j src
    else if j.sent = [] then s.endCopy idx j src
    else s

/-- Positions in the list of copies of those of a window. -/
def copiesOf (s : State) (win : Nat) : List Nat := ((s.copies.zipIdx).filter fun x => x.1.win == win).map (·.2)

def copyEvent (s : State) (win : Nat) (job : Option Nat) : State :=
  match job with
  | none => match s.nextCommand win with
    | some c =>
      if cmdAllowed win c && cmdFields win c && cmdOpc c == 0x10 && bitOf (copyFlags c) 0 && s.copiesOf win != [] then s
      else s.command win 0x10 fun s c => s.startCopy win c
    | none => s
  | some k => match nth? (s.copiesOf win) k with
    | none => s
    | some idx => match nth? s.copies idx with
      | none => s
      | some j => if s.inReset then s else s.stepCopy idx j

-- ## Attest (R439)

/-- The digest of a catalogue entry. -/
def entryDigest (s : State) (kind num : Nat) : List Byte :=
  match s.catalogue.find? fun y => y.1 == 256 * kind + num with
  | some y => if y.2.stock then stockDigest kind else sha512 y.2.bytes
  | none => []

/-- DIGEST of the sealed image at a base, or zeros. -/
def imageDigest (s : State) (ctx base : Nat) : List Byte :=
  match s.imageAt ctx base with
  | none => leBytes 64 0
  | some i => match s.sealedBytes ctx base (i.codeOff + i.codeLen) with
    | none => leBytes 64 0
    | some b => sha512 b

def attestReport (s : State) (c : List Byte) (time : Nat) : List Byte :=
  let n := cmdCtx c
  let base := recField c 0x28 8
  let body := leBytes 4 0x4E514154 ++ leBytes 2 n ++ leBytes 2 0 ++ leBytes 8 time ++ (c.drop 8).take 32 ++ fwDigest
    ++ sha512 (((s.ctx n).cssel.zipIdx).flatMap fun e => s.entryDigest e.2 e.1)
    ++ (if base = 0 then leBytes 64 0 else s.imageDigest n base) ++ leBytes 4 fwVersion ++ leBytes 12 0
  body ++ leBytes 64 (Config.signature (ofLE body)).toNat

def attestRun (s : State) (win : Nat) (c : List Byte) : State :=
  if s.built (cmdCtx c) then
    let x := s.stamp cmdSrc
    x.1.finish win cmdSrc (cmdDone c) (x.1.attestReport c x.2)
  else s.complete win c 0x22 0

-- ## BAR0 and BAR2 (R419, R420, R428)

/-- A host write to BAR0 outside the events that have rows of their own: a register block ignores it. -/
def writeBar0 (s : State) (off : Nat) (data : List Byte) : State :=
  match windowAt off, queueAt off with
  | some w, _ => s.commandWrite w (off % 4096) data
  | none, some q => s.windowWrite q (off % 4096) data
  | none, none => if (s.regWord (off / 8 * 8)).isSome then s else s.devicePerm portSrc (bar0 + off)

/-- The aligned 64-byte parts of a run: address and bytes. -/
def lineParts : Nat → Nat → List Byte → List (Nat × List Byte)
  | 0, _, _ => []
  | fuel + 1, pa, data =>
    match data with
    | [] => []
    | _ :: _ => let n := 64 - pa % 64; (pa, data.take n) :: lineParts fuel (pa + n) (data.drop n)

/-- The address and length of the reserved part of a run, if it has one. -/
def reservedIn (pa n : Nat) : Option Nat := (run pa n).find? fun a => paKind a == .reserved

def writePart (s : State) (pa : Nat) (data : List Byte) : State :=
  match paKind pa with
  | .first | .second => s.storeNow portSrc pa data false
  | .host => { s with mem := Sparse.setAll 0 s.mem ((run pa data.length).zip data) }
  | .reserved | .device => s

/-- A write by the host: BAR0, BAR2, or its own memory. -/
def hostStore (s : State) (pa : Nat) (data : List Byte) : State :=
  if s.inReset then s
  else if paKind pa = .device then s.writeBar0 (pa - bar0) data
  else
    let s := match reservedIn pa data.length with | some a => s.devicePerm portSrc a | none => s
    (lineParts (data.length + 1) pa data).foldl (fun s x => s.writePart x.1 x.2) s

/-- A read by the host of BAR0, BAR2 or its own memory. -/
def hostLoad (s : State) (pa n : Nat) : State :=
  if paKind pa = .device then
    let r := s.readBar0 (pa - bar0) n
    { r.1 with lastRead := r.2 }
  else if s.inReset then { s with lastRead := List.replicate n 0 }
  else
    let b := (run pa n).map fun a => match paKind a with
      | .first | .second => s.byteAt a
      | .host => s.memByte a
      | .reserved | .device => 0
    let s := match reservedIn pa n with | some a => s.devicePerm portSrc a | none => s
    { s with lastRead := b }

/-- The operation of a host AtomicOp on its old value (R418). -/
def atomicNew (op : HostAtomOp) (n x y old : Nat) : Option Nat :=
  match op with
  | .fetchAdd => some ((old + x) % 2 ^ (8 * n))
  | .swap => some (x % 2 ^ (8 * n))
  | .cas => if old = x % 2 ^ (8 * n) then some (y % 2 ^ (8 * n)) else none

/-- An AtomicOp of the host on BAR2, naturally aligned; elsewhere it has no effect and answers 0, with the record of R419. -/
def hostAtomic (s : State) (op : HostAtomOp) (wide : Bool) (pa x y : Nat) : State :=
  let n := if wide then 8 else 4
  if s.inReset || pa % n != 0 then { s with lastRead := List.replicate n 0 }
  else match paKind pa with
    | .first | .second =>
      let r := s.atomicAt portSrc pa n (atomicNew op n x y)
      { r.1 with lastRead := leBytes n r.2 }
    | .host | .reserved | .device => { s.devicePerm portSrc pa with lastRead := List.replicate n 0 }

-- ## MSI-X (R421)

/-- The message of a vector is sent, or its pending bit is set while its table entry is masked. -/
def sendMessage (s : State) (v : Nat) : State :=
  match s.msgs.findIdx? (· == v) with
  | none => s
  | some i =>
    let s := { s with msgs := dropNth s.msgs i }
    if s.msixOpen.elem v || s.msixPend.elem v then s else { s with msixPend := s.msixPend ++ [v] }

/-- A write of the MSI-X table in BAR4: 2,048 entries of 16 bytes, the mask in bit 0 of byte 12; unmasking sends a pending message. -/
def writeTable (s : State) (off : Nat) (data : List Byte) : State :=
  ((run off data.length).zip data).foldl (fun s x =>
    if 0x8000 ≤ x.1 then s
    else
      let s := { s with msixTable := Sparse.set 0 s.msixTable x.1 x.2 }
      let v := x.1 / 16
      if x.1 % 16 ≠ 12 then s
      else if bitOf x.2.toNat 0 then { s with msixOpen := s.msixOpen.filter (· != v) }
      else { s with msixOpen := v :: s.msixOpen.filter (· != v), msixPend := s.msixPend.filter (· != v) }) s

end State
open State

/-- A message is sent (R421). -/
def execMsixMessage (vector : Nat) (s : State) : Out := .next (s.sendMessage vector)
/-- A write to a command window (R422). -/
def execCommandWindowWrite (win off : Nat) (data : List Byte) (s : State) : Out := .next (s.commandWrite win off data)
/-- Build (R143, R144). -/
def execBuild (win : Nat) (s : State) : Out :=
  .next (s.command win 0x01 fun s c => let r := s.buildContext c; r.1.complete win c r.2 0)
/-- Destroy (R145). -/
def execDestroy (win : Nat) (s : State) : Out := .next (s.command win 0x02 fun s c => (s.destroyContext (cmdCtx c)).complete win c 0 0)
/-- Seal starts (R70). -/
def execSeal (win : Nat) (s : State) : Out := .next (s.command win 0x03 fun s c => s.startSeal win c)
/-- Register write (R423). -/
def execRegisterWrite (win : Nat) (s : State) : Out :=
  .next (s.command win 0x04 fun s c =>
    let pa := recField c 8 8
    match (if bar0 ≤ pa then s.writeReg (pa - bar0) (recField c 0x10 8) (recField c 0x18 1) else none) with
    | some s => s.complete win c 0 0
    | none => s.complete win c 0x21 0)
/-- The effect of a register write on registers that no other row names (R128, R266, R389, R421, R434). -/
def execPlainRegisterWrite (off value size : Nat) (s : State) : Out := .next ((s.writeReg off value size).getD s)
/-- Catalogue load (R437). -/
def execCatalogueLoad (win : Nat) (s : State) : Out := .next (s.command win 0x05 fun s c => s.loadCatalogue win c)
/-- Translation update (R424). -/
def execTranslationUpdate (win : Nat) (s : State) : Out := .next (s.command win 0x06 fun s c => s.updateTranslation win c)
/-- A copy starts or goes on (R425, R426). -/
def execCopy (win : Nat) (job : Option Nat) (s : State) : Out := .next (s.copyEvent win job)
/-- Attest (R439). -/
def execAttest (win : Nat) (s : State) : Out := .next (s.command win 0x20 fun s c => s.attestRun win c)
/-- A write of QUANTUM (R128). -/
def execQuantum (value : Nat) (s : State) : Out := .next (s.setQuantum value)
/-- A write of FRAME64 of a pool (R266). -/
def execFrame64 (q value : Nat) (s : State) : Out := .next (s.pushFrame q value false)
/-- A write of FRAME2M of a pool (R266). -/
def execFrame2m (q value : Nat) (s : State) : Out := .next (s.pushFrame q value true)
/-- A read of RFRAME of a pool (R266). -/
def execRframe (q : Nat) (s : State) : Out := let r := s.popRframe q; .next { r.1 with lastRead := leBytes 8 r.2 }
/-- A write of RTCOUNT (R389). -/
def execRtcount (value : Nat) (s : State) : Out := .next (s.setRtcount value)
/-- The load that RTOP asked for completes (R390). -/
def execRangeLoad (idx : Nat) (s : State) : Out := .next (s.finishRange idx false)
/-- The remove that RTOP asked for completes (R390). -/
def execRangeRemove (idx : Nat) (s : State) : Out := .next (s.finishRange idx true)
/-- A write of RESYNC sends a resync frame (R431, R434). -/
def execResync (link mask : Nat) (s : State) : Out := .next (s.sendResync link mask)
/-- A host read (R419, R420, R428). -/
def execHostRead (pa n : Nat) (s : State) : Out := .next (s.hostLoad pa n)
/-- A host write (R419, R420, R428). -/
def execHostWrite (pa : Nat) (data : List Byte) (s : State) : Out := .next (s.hostStore pa data)
/-- A host access of an unlisted offset of BAR0: one PERM record, and a read returns 0 (R420). -/
def execUnlistedAccess (off : Nat) (write : Bool) (s : State) : Out :=
  .next (if (s.regWord (off / 8 * 8)).isSome || s.inReset then s
    else if write then s.devicePerm portSrc (bar0 + off) else { s.devicePerm portSrc (bar0 + off) with lastRead := leBytes 8 0 })
/-- A seal command completes (R73, R74). -/
def execSealCompletion (idx : Nat) (s : State) : Out := .next (s.endSeal idx)
/-- A host write of the MSI-X table (R419, R421). -/
def execMsixTableWrite (off : Nat) (data : List Byte) (s : State) : Out := .next (s.writeTable off data)
/-- A host AtomicOp (R418). -/
def execHostAtomicop (op : HostAtomOp) (wide : Bool) (pa x y : Nat) (s : State) : Out := .next (s.hostAtomic op wide pa x y)

end Sys2Proof.Machine
end

