-- ==== Sys2Proof/Machine/Links.lean ====
section
/-!
DEFINITION. The Driwaent links (R429 to R434): frames that arrive from a peer, acknowledgements, resync and retraining.
-/
namespace Sys2Proof.Machine
namespace State

/-- Whether a peer write falls inside PEERWIN (R432, R434). -/
def inPeerwin (s : State) (pa n : Nat) : Bool :=
  n != 0 && decide (s.pwbase ≤ pa) && decide (pa + n ≤ s.pwlimit + 65536) && !(decide (s.pwlimit < s.pwbase))

/-- The flit of a data frame: as sent, or decoded on its channel (R430). -/
def frameFlit (l : Link) (channel fmt : Nat) (coded : Bool) (body : List Byte) : Option (List Byte) :=
  if coded && fmt != 0 then
    let r := excDecode (fmt == 2) 1 (chanOf l.rx channel) body
    if r.2.2.2 then some r.1 else none
  else some body

/-- A data frame in sequence: the channel's tables follow it, and the write is performed inside PEERWIN or recorded (R430, R432). -/
def receiveFrame (s : State) (n channel fmt : Nat) (coded : Bool) (seq pa : Nat) (body : List Byte) : State :=
  let l := s.link n
  if s.inReset || decide (12 ≤ n) || decide (16 ≤ channel) || l.st != 2 || seq != l.rxSeq then s
  else match frameFlit l channel fmt coded body with
    | none => s
    | some raw =>
      let rx := if fmt = 0 ∨ raw.length ≠ 256 then l.rx else Sparse.set ExcChan.zero l.rx channel (chanAfter (chanOf l.rx channel) fmt raw)
      let s := s.setLink n { l with rxSeq := (l.rxSeq + 1) % 2 ^ 32, rx := rx }
      if s.inPeerwin pa raw.length && (paKind pa == .first || paKind pa == .second) then
        (lineParts (raw.length + 1) pa raw).foldl (fun s x => s.storeNow (linkSrc n) x.1 x.2 false) s
      else s.devicePerm (linkSrc n) pa

/-- The peer acknowledges the oldest frame: it leaves the replay buffer, and the copy that sent it takes note (R429, R432). -/
def takeAck (s : State) (n seq : Nat) (refused : Bool) : State :=
  let l := s.link n
  match l.replay with
  | [] => s
  | f :: r =>
    if f.seq != seq || l.st != 2 then s
    else
      let mine := fun (j : CopyJob) => copyPeer j.cmd && s.routeOf (recField j.cmd 0x22 1) == some n && j.sent.elem seq
      { s.setLink n { l with replay := r } with
          copies := s.copies.map fun j =>
            if mine j then { j with sent := j.sent.filter (· != seq)
                                    refused := if refused && j.refused.isNone then some f.pa else j.refused }
            else j }

/-- A resync frame in sequence resets the named channels (R431). -/
def takeResync (s : State) (n mask : Nat) : State :=
  let l := s.link n
  if s.inReset || decide (12 ≤ n) || l.st != 2 then s
  else s.setLink n { l with rxSeq := (l.rxSeq + 1) % 2 ^ 32, rx := resetMask l.rx mask }

/-- Frames that are sent again, coded from the tables as they stand now. -/
def recode : Sparse ExcChan → List LinkFrame → List LinkFrame × Sparse ExcChan
  | tx, [] => ([], tx)
  | tx, f :: r =>
    let x := codeFrame tx f
    let y := recode x.2 r
    (x.1 :: y.1, y.2)

/-- Training begins on a link, or completes on one that trains: then all channels are reset at both ends, and the frames that are not
acknowledged are coded again and sent again (R431, R434). -/
def retrain (s : State) (n : Nat) : State :=
  let l := s.link n
  if s.inReset || decide (12 ≤ n) then s
  else if l.st = 1 then
    let r := recode [] l.replay
    s.setLink n { l with st := 2, replay := r.1, tx := r.2, rx := [] }
  else s.setLink n { l with st := 1, retrains := if l.st = 2 then (l.retrains + 1) % 2 ^ 32 else l.retrains }

/-- A link goes down: its frames are lost, and the copies that wait on them fail (R433). -/
def dropLink (s : State) (n : Nat) : State :=
  let l := s.link n
  if l.st = 0 then s
  else
    let mine := fun (j : CopyJob) => copyPeer j.cmd && s.routeOf (recField j.cmd 0x22 1) == some n
    { s.setLink n { l with st := 0, replay := [] } with
        copies := s.copies.map fun j =>
          if mine j then { j with sent := [], stop := match j.stop with | some x => some x | none => some (0x22, copyDst j.cmd + j.at_) }
          else j }

end State
open State

/-- A data frame arrives from a peer (R429, R430, R432). -/
def execLinkFrame (link channel fmt : Nat) (coded : Bool) (seq pa : Nat) (body : List Byte) (s : State) : Out :=
  .next (s.receiveFrame link channel fmt coded seq pa body)
/-- An acknowledgement arrives (R429, R432). -/
def execLinkAck (link seq : Nat) (refused : Bool) (s : State) : Out := .next (s.takeAck link seq refused)
/-- A resync frame arrives (R431). -/
def execResyncFrame (link mask : Nat) (s : State) : Out := .next (s.takeResync link mask)
/-- Training of a link (R431). -/
def execLinkRetrain (link : Nat) (s : State) : Out := .next (s.retrain link)
/-- A link goes down (R433, R434). -/
def execLinkDown (link : Nat) (s : State) : Out := .next (s.dropLink link)

end Sys2Proof.Machine
end

