-- ==== Sys2Proof/Machine/Platform.lean ====
section
/-!
DEFINITION. The platform (R442 to R444): reset and bring-up, idle issue cycles, the thermal trip, and the management port.
-/
namespace Sys2Proof.Machine
namespace State

/-- What outlives a reset: the host's own memory, the model's turns, its count of free values, and the number of boots. -/
def afterReset (s : State) : State :=
  { State.reset with mem := s.mem.filter fun x => paKind x.1 == .host
                     turns := s.turns
                     free := s.free
                     boots := s.boots + 1
                     lastRead := s.lastRead }

/-- Reset and bring-up (R443): the boot checks pass and every step completes, or BOOTSTAT holds the step that failed and the module stays
in reset (R435). Which step fails is a value that the spec leaves open. -/
def resetModule (s : State) : State :=
  if Config.bootPasses s.boots then s.afterReset
  else { s.afterReset.nextFree with inReset := true, bootstat := 1 + s.freeVal.toNat % 4, catalogue := [] }

/-- A thermal trip: the module enters reset and stays there (R442). -/
def trip (s : State) : State := { s.afterReset with inReset := true, tripped := true, catalogue := [], boots := s.boots }

/-- The message of a change of idle issue cycles (R421). -/
def idleMsg (s : State) : State := s.raiseMsg (bitOf s.irqIdle 16) s.irqIdle

/-- A die begins or ends its idle issue cycles (R442). -/
def beginIdle (s : State) (die : Nat) : State := if s.idle.elem die then s else State.idleMsg { s with idle := s.idle ++ [die] }
def endIdle (s : State) (die : Nat) : State :=
  if s.idle.elem die then State.idleMsg { s with idle := s.idle.filter (· != die) } else s

/-- What the management port answers (R444): physical measurements are free values. -/
def manage (s : State) (item : MgmtItem) : State :=
  match item with
  | .temperature _ | .coolant | .power => { s.nextFree with lastRead := leBytes 8 s.freeVal.toNat }
  | .bootstat => { s with lastRead := leBytes 8 s.bootstat }
  | .fwdig => { s with lastRead := fwDigest }
  | .corrected d => { s with lastRead := leBytes 8 (Sparse.get 0 s.corrected d) }
  | .uncorrected d => { s with lastRead := leBytes 8 (Sparse.get 0 s.uncorrected d) }

end State
open State

/-- Reset (R443). -/
def execReset (s : State) : Out := .next s.resetModule
/-- A die begins to insert idle issue cycles (R442). -/
def execPowerLimit (die : Nat) (s : State) : Out := .next (s.beginIdle die)
/-- The condition of R442 clears on a die. -/
def execIdleIssueEnd (die : Nat) (s : State) : Out := .next (s.endIdle die)
/-- A thermal trip (R442). -/
def execThermalTrip (s : State) : Out := .next s.trip
/-- The baseboard controller reads a value (R444). -/
def execManagementRead (item : MgmtItem) (s : State) : Out := .next (s.manage item)
/-- The baseboard controller requests a reset (R444). -/
def execManagementReset (s : State) : Out := .next s.resetModule

end Sys2Proof.Machine
end

