-- ==== Sys2Proof/Machine/Dispatch.lean ====
section
/-!
DEFINITION. Dispatch: one arm for each row of the opcode table, each a direct call of that row's meaning.
-/
namespace Sys2Proof.Machine

def exec (i : Instr) (s : State) : Host.Outcome State Fault Refusal :=
  match i with
  | .nopSlot0 stop => Sys2Proof.Machine.execNopSlot0 stop s
  | .nop => Sys2Proof.Machine.execNop s
  | .br stop p off => Sys2Proof.Machine.execBr stop p off s
  | .brc stop p c off => Sys2Proof.Machine.execBrc stop p c off s
  | .brx stop a => Sys2Proof.Machine.execBrx stop a s
  | .call stop off => Sys2Proof.Machine.execCall stop off s
  | .callx stop a b => Sys2Proof.Machine.execCallx stop a b s
  | .ret stop a => Sys2Proof.Machine.execRet stop a s
  | .merge stop => Sys2Proof.Machine.execMerge stop s
  | .bara stop n => Sys2Proof.Machine.execBara stop n s
  | .barw stop n => Sys2Proof.Machine.execBarw stop n s
  | .bar stop n => Sys2Proof.Machine.execBar stop n s
  | .semsig stop a n c => Sys2Proof.Machine.execSemsig stop a n c s
  | .semwait stop a n c => Sys2Proof.Machine.execSemwait stop a n c s
  | .semtry stop a b n c => Sys2Proof.Machine.execSemtry stop a b n c s
  | .yield stop => Sys2Proof.Machine.execYield stop s
  | .spawn stop a b => Sys2Proof.Machine.execSpawn stop a b s
  | .spawng stop a b => Sys2Proof.Machine.execSpawng stop a b s
  | .done stop => Sys2Proof.Machine.execDone stop s
  | .joinw stop a b bind => Sys2Proof.Machine.execJoinw stop a b bind s
  | .timehint stop a => Sys2Proof.Machine.execTimehint stop a s
  | .trap stop c => Sys2Proof.Machine.execTrap stop c s
  | .tret stop => Sys2Proof.Machine.execTret stop s
  | .tmask stop => Sys2Proof.Machine.execTmask stop s
  | .tunmask stop => Sys2Proof.Machine.execTunmask stop s
  | .ckpt stop => Sys2Proof.Machine.execCkpt stop s
  | .timerset stop a arm => Sys2Proof.Machine.execTimerset stop a arm s
  | .sleep stop a => Sys2Proof.Machine.execSleep stop a s
  | .halt stop c => Sys2Proof.Machine.execHalt stop c s
  | .govarm stop a b => Sys2Proof.Machine.execGovarm stop a b s
  | .govstep stop a b => Sys2Proof.Machine.execGovstep stop a b s
  | .govq stop a b n => Sys2Proof.Machine.execGovq stop a b n s
  | .winld stop a b => Sys2Proof.Machine.execWinld stop a b s
  | .csld stop a b => Sys2Proof.Machine.execCsld stop a b s
  | .ptinv stop a n => Sys2Proof.Machine.execPtinv stop a n s
  | .kmov d a => Sys2Proof.Machine.execKmov d a s
  | .kmovi d im => Sys2Proof.Machine.execKmovi d im s
  | .khi d im => Sys2Proof.Machine.execKhi d im s
  | .kadd f d a b => Sys2Proof.Machine.execKadd f d a b s
  | .kaddi d a im => Sys2Proof.Machine.execKaddi d a im s
  | .ksub f d a b => Sys2Proof.Machine.execKsub f d a b s
  | .kmul f d a b => Sys2Proof.Machine.execKmul f d a b s
  | .kmulh d a b u => Sys2Proof.Machine.execKmulh d a b u s
  | .kmad f d a b => Sys2Proof.Machine.execKmad f d a b s
  | .kdivs d a b => Sys2Proof.Machine.execKdivs d a b s
  | .kand d a b => Sys2Proof.Machine.execKand d a b s
  | .kor d a b => Sys2Proof.Machine.execKor d a b s
  | .kxor d a b => Sys2Proof.Machine.execKxor d a b s
  | .knot d a => Sys2Proof.Machine.execKnot d a s
  | .kshl f d a b => Sys2Proof.Machine.execKshl f d a b s
  | .kshr f d a b => Sys2Proof.Machine.execKshr f d a b s
  | .ksar f d a b => Sys2Proof.Machine.execKsar f d a b s
  | .krot f d a b => Sys2Proof.Machine.execKrot f d a b s
  | .kandImm d a im => Sys2Proof.Machine.execKandImm d a im s
  | .korImm d a im => Sys2Proof.Machine.execKorImm d a im s
  | .kxorImm d a im => Sys2Proof.Machine.execKxorImm d a im s
  | .kshlImm w d a n => Sys2Proof.Machine.execKshlImm w d a n s
  | .kshrImm w d a n => Sys2Proof.Machine.execKshrImm w d a n s
  | .ksarImm w d a n => Sys2Proof.Machine.execKsarImm w d a n s
  | .krotImm w d a n => Sys2Proof.Machine.execKrotImm w d a n s
  | .kmin f d a b u => Sys2Proof.Machine.execKmin f d a b u s
  | .kmax f d a b u => Sys2Proof.Machine.execKmax f d a b u s
  | .kcmp f d a b x => Sys2Proof.Machine.execKcmp f d a b x s
  | .ksel d a b x => Sys2Proof.Machine.execKsel d a b x s
  | .kpopc f d a => Sys2Proof.Machine.execKpopc f d a s
  | .kclz f d a => Sys2Proof.Machine.execKclz f d a s
  | .kctz f d a => Sys2Proof.Machine.execKctz f d a s
  | .kbfe sr d a pos len => Sys2Proof.Machine.execKbfe sr d a pos len s
  | .kbfi d a pos len => Sys2Proof.Machine.execKbfi d a pos len s
  | .krfl u d a => Sys2Proof.Machine.execKrfl u d a s
  | .krdl u d a b => Sys2Proof.Machine.execKrdl u d a b s
  | .krds d sp => Sys2Proof.Machine.execKrds d sp s
  | .kwrs sp b => Sys2Proof.Machine.execKwrs sp b s
  | .pand d a b na nb => Sys2Proof.Machine.execPand d a b na nb s
  | .por d a b na nb => Sys2Proof.Machine.execPor d a b na nb s
  | .pxor d a b na nb => Sys2Proof.Machine.execPxor d a b na nb s
  | .pnot d a => Sys2Proof.Machine.execPnot d a s
  | .pmovk d a => Sys2Proof.Machine.execPmovk d a s
  | .kmovp d a => Sys2Proof.Machine.execKmovp d a s
  | .vadd t sat u p d a b => Sys2Proof.Machine.execVadd t sat u p d a b s
  | .vsub t sat u p d a b => Sys2Proof.Machine.execVsub t sat u p d a b s
  | .vmul t sat u p d a b => Sys2Proof.Machine.execVmul t sat u p d a b s
  | .vmulh t u p d a b => Sys2Proof.Machine.execVmulh t u p d a b s
  | .vmad t sat u p d a b => Sys2Proof.Machine.execVmad t sat u p d a b s
  | .vneg t sat p d a => Sys2Proof.Machine.execVneg t sat p d a s
  | .vabs t sat p d a => Sys2Proof.Machine.execVabs t sat p d a s
  | .vmin t u p d a b => Sys2Proof.Machine.execVmin t u p d a b s
  | .vmax t u p d a b => Sys2Proof.Machine.execVmax t u p d a b s
  | .vand p d a b => Sys2Proof.Machine.execVand p d a b s
  | .vor p d a b => Sys2Proof.Machine.execVor p d a b s
  | .vxor p d a b => Sys2Proof.Machine.execVxor p d a b s
  | .vnot p d a => Sys2Proof.Machine.execVnot p d a s
  | .vshl t p d a b => Sys2Proof.Machine.execVshl t p d a b s
  | .vshr t p d a b => Sys2Proof.Machine.execVshr t p d a b s
  | .vsar t p d a b => Sys2Proof.Machine.execVsar t p d a b s
  | .vbfe sr p d a b => Sys2Proof.Machine.execVbfe sr p d a b s
  | .vbfi p d a b => Sys2Proof.Machine.execVbfi p d a b s
  | .vpopc t p d a => Sys2Proof.Machine.execVpopc t p d a s
  | .vclz t p d a => Sys2Proof.Machine.execVclz t p d a s
  | .vcmp u c p d a b => Sys2Proof.Machine.execVcmp u c p d a b s
  | .vsel p d a b => Sys2Proof.Machine.execVsel p d a b s
  | .vmov p d b => Sys2Proof.Machine.execVmov p d b s
  | .vmovAcc p d hi a => Sys2Proof.Machine.execVmovAcc p d hi a s
  | .vmovi m p d im => Sys2Proof.Machine.execVmovi m p d im s
  | .vfadd t m p d a b => Sys2Proof.Machine.execVfadd t m p d a b s
  | .vfsub t m p d a b => Sys2Proof.Machine.execVfsub t m p d a b s
  | .vfmul t m p d a b => Sys2Proof.Machine.execVfmul t m p d a b s
  | .vfma t m p d a b => Sys2Proof.Machine.execVfma t m p d a b s
  | .vfms t m p d a b => Sys2Proof.Machine.execVfms t m p d a b s
  | .vfmin t p d a b => Sys2Proof.Machine.execVfmin t p d a b s
  | .vfmax t p d a b => Sys2Proof.Machine.execVfmax t p d a b s
  | .vfcmp c p d a b => Sys2Proof.Machine.execVfcmp c p d a b s
  | .vfrcp t m p d a => Sys2Proof.Machine.execVfrcp t m p d a s
  | .vfrsq t m p d a => Sys2Proof.Machine.execVfrsq t m p d a s
  | .vfdivs t m p d a b => Sys2Proof.Machine.execVfdivs t m p d a b s
  | .vfexp2 t m p d a => Sys2Proof.Machine.execVfexp2 t m p d a s
  | .vflog2 t m p d a => Sys2Proof.Machine.execVflog2 t m p d a s
  | .vfrnd t m p d a => Sys2Proof.Machine.execVfrnd t m p d a s
  | .vfclass t p d a => Sys2Proof.Machine.execVfclass t p d a s
  | .vcvt t r sr p d a => Sys2Proof.Machine.execVcvt t r sr p d a s
  | .vcvtn t r sr g p d a => Sys2Proof.Machine.execVcvtn t r sr g p d a s
  | .vcvtw t r sr g p d a => Sys2Proof.Machine.execVcvtw t r sr g p d a s
  | .vcvtf t r f src g p d a => Sys2Proof.Machine.execVcvtf t r f src g p d a s
  | .vqmx t sn c d a sr x => Sys2Proof.Machine.execVqmx t sn c d a sr x s
  | .vdqmx t sr c d a rtz x => Sys2Proof.Machine.execVdqmx t sr c d a rtz x s
  | .vshuf p d a b => Sys2Proof.Machine.execVshuf p d a b s
  | .vshufImm k p d n => Sys2Proof.Machine.execVshufImm k p d n s
  | .vbcast p d a b => Sys2Proof.Machine.execVbcast p d a b s
  | .vbfly p d a b => Sys2Proof.Machine.execVbfly p d a b s
  | .vred t m o p d a => Sys2Proof.Machine.execVred t m o p d a s
  | .vscan t m o p d a => Sys2Proof.Machine.execVscan t m o p d a s
  | .vballot hi p d a => Sys2Proof.Machine.execVballot hi p d a s
  | .vvote m p d a => Sys2Proof.Machine.execVvote m p d a s
  | .vactive m p d => Sys2Proof.Machine.execVactive m p d s
  | .vftwos p d a b => Sys2Proof.Machine.execVftwos p d a b s
  | .vftwop p d a b => Sys2Proof.Machine.execVftwop p d a b s
  | .ld w h p d a b => Sys2Proof.Machine.execLd w h p d a b s
  | .st w h p d a b => Sys2Proof.Machine.execSt w h p d a b s
  | .ldu w h d a b => Sys2Proof.Machine.execLdu w h d a b s
  | .stu w h d a b => Sys2Proof.Machine.execStu w h d a b s
  | .lda w sc d a b => Sys2Proof.Machine.execLda w sc d a b s
  | .stl d64 sc d a b => Sys2Proof.Machine.execStl d64 sc d a b s
  | .ldt h t a b => Sys2Proof.Machine.execLdt h t a b s
  | .stt h t a b => Sys2Proof.Machine.execStt h t a b s
  | .ldta k h t a b => Sys2Proof.Machine.execLdta k h t a b s
  | .stta k h t a b => Sys2Proof.Machine.execStta k h t a b s
  | .spld w p d a b => Sys2Proof.Machine.execSpld w p d a b s
  | .spst w p d a b => Sys2Proof.Machine.execSpst w p d a b s
  | .spldt t a b => Sys2Proof.Machine.execSpldt t a b s
  | .spstt t a b => Sys2Proof.Machine.execSpstt t a b s
  | .atom o w p d a b => Sys2Proof.Machine.execAtom o w p d a b s
  | .atomf o w p d a b => Sys2Proof.Machine.execAtomf o w p d a b s
  | .cas w p d a b => Sys2Proof.Machine.execCas w p d a b s
  | .atomu o w d a b => Sys2Proof.Machine.execAtomu o w d a b s
  | .rwb a b => Sys2Proof.Machine.execRwb a b s
  | .rinv a b => Sys2Proof.Machine.execRinv a b s
  | .rflush a b => Sys2Proof.Machine.execRflush a b s
  | .pref w p a b => Sys2Proof.Machine.execPref w p a b s
  | .fence sc => Sys2Proof.Machine.execFence sc s
  | .fencesc => Sys2Proof.Machine.execFencesc s
  | .nodest d a b => Sys2Proof.Machine.execNodest d a b s
  | .filldone a => Sys2Proof.Machine.execFilldone a s
  | .fillfail a b => Sys2Proof.Machine.execFillfail a b s
  | .fillq d a => Sys2Proof.Machine.execFillq d a s
  | .fillhint w a => Sys2Proof.Machine.execFillhint w a s
  | .l1q d => Sys2Proof.Machine.execL1q d s
  | .mpush r m => Sys2Proof.Machine.execMpush r m s
  | .mpushTile r t m => Sys2Proof.Machine.execMpushTile r t m s
  | .mshift n => Sys2Proof.Machine.execMshift n s
  | .macc m => Sys2Proof.Machine.execMacc m s
  | .mdrain a keep m => Sys2Proof.Machine.execMdrain a keep m s
  | .mlds skip r m => Sys2Proof.Machine.execMlds skip r m s
  | .mldsTile skip r t m => Sys2Proof.Machine.execMldsTile skip r t m s
  | .mswap => Sys2Proof.Machine.execMswap s
  | .mopImm e w x f ws xs => Sys2Proof.Machine.execMopImm e w x f ws xs s
  | .mopReg k => Sys2Proof.Machine.execMopReg k s
  | .mclr => Sys2Proof.Machine.execMclr s
  | .mstat k => Sys2Proof.Machine.execMstat k s
  | .mwait => Sys2Proof.Machine.execMwait s
  | .mrda a t n => Sys2Proof.Machine.execMrda a t n s
  | .mwra a t p n m => Sys2Proof.Machine.execMwra a t p n m s
  | .mfreeze off => Sys2Proof.Machine.execMfreeze off s
  | .mscan inp k => Sys2Proof.Machine.execMscan inp k s
  | .sbind sr a e wrap wr => Sys2Proof.Machine.execSbind sr a e wrap wr s
  | .spat sr a b n => Sys2Proof.Machine.execSpat sr a b n s
  | .spatRing a b => Sys2Proof.Machine.execSpatRing a b s
  | .srst sr stopStream => Sys2Proof.Machine.execSrst sr stopStream s
  | .sstat sr a => Sys2Proof.Machine.execSstat sr a s
  | .sdrain sr => Sys2Proof.Machine.execSdrain sr s
  | .speek sr t n => Sys2Proof.Machine.execSpeek sr t n s
  | .mcast t a b => Sys2Proof.Machine.execMcast t a b s
  | .mcastSp a b => Sys2Proof.Machine.execMcastSp a b s
  | .mcsem a n => Sys2Proof.Machine.execMcsem a n s
  | .gtake a => Sys2Proof.Machine.execGtake a s
  | .grls => Sys2Proof.Machine.execGrls s
  | .pemit hi p a => Sys2Proof.Machine.execPemit hi p a s
  | .vemit m p a => Sys2Proof.Machine.execVemit m p a s
  | .mend => Sys2Proof.Machine.execMend s
  | .rkick b => Sys2Proof.Machine.execRkick b s
  | .zqry m p d => Sys2Proof.Machine.execZqry m p d s
  | .depw m p a => Sys2Proof.Machine.execDepw m p a s
  | .kill p => Sys2Proof.Machine.execKill p s
  | .interp flat n p d => Sys2Proof.Machine.execInterp flat n p d s
  | .tex l p d a b => Sys2Proof.Machine.execTex l p d a b s
  | .texl l p d a b => Sys2Proof.Machine.execTexl l p d a b s
  | .texg c l p d a b => Sys2Proof.Machine.execTexg c l p d a b s
  | .texq p d a b => Sys2Proof.Machine.execTexq p d a b s
  | .trace m p d a b => Sys2Proof.Machine.execTrace m p d a b s
  | .tqry p d => Sys2Proof.Machine.execTqry p d s
  | .tacc p d a b => Sys2Proof.Machine.execTacc p d a b s
  | .gexp p a b => Sys2Proof.Machine.execGexp p a b s
  | .gflush b => Sys2Proof.Machine.execGflush b s
  | .gbind b => Sys2Proof.Machine.execGbind b s
  | .xmov u p a => Sys2Proof.Machine.execXmov u p a s
  | .xmovt u p b => Sys2Proof.Machine.execXmovt u p b s
  | .xget u d => Sys2Proof.Machine.execXget u d s
  | .xgets u d => Sys2Proof.Machine.execXgets u d s
  | .xcfg u a => Sys2Proof.Machine.execXcfg u a s
  | .xstat u d => Sys2Proof.Machine.execXstat u d s
  | .xwait u => Sys2Proof.Machine.execXwait u s
  | .xrst u => Sys2Proof.Machine.execXrst u s
  | .transformComplete grp u => Sys2Proof.Machine.execTransformComplete grp u s
  | .matrixRetire grp => Sys2Proof.Machine.execMatrixRetire grp s
  | .tileTransferComplete grp idx => Sys2Proof.Machine.execTileTransferComplete grp idx s
  | .reply idx => Sys2Proof.Machine.execReply idx s
  | .transferUnit grp sr => Sys2Proof.Machine.execTransferUnit grp sr s
  | .multicastLand idx => Sys2Proof.Machine.execMulticastLand idx s
  | .mcsemIncrement idx => Sys2Proof.Machine.execMcsemIncrement idx s
  | .guideDelivery die dest => Sys2Proof.Machine.execGuideDelivery die dest s
  | .guidePortPlace die => Sys2Proof.Machine.execGuidePortPlace die s
  | .creditIncrement idx => Sys2Proof.Machine.execCreditIncrement idx s
  | .stagingReplay grp split => Sys2Proof.Machine.execStagingReplay grp split s
  | .meshletRaster die => Sys2Proof.Machine.execMeshletRaster die s
  | .fragmentGroupStart die => Sys2Proof.Machine.execFragmentGroupStart die s
  | .fragmentResolve die idx => Sys2Proof.Machine.execFragmentResolve die idx s
  | .donecntIncrement idx => Sys2Proof.Machine.execDonecntIncrement idx s
  | .intersectionRun grp split => Sys2Proof.Machine.execIntersectionRun grp split s
  | .queueWindowWrite q off data => Sys2Proof.Machine.execQueueWindowWrite q off data s
  | .recordCheck q => Sys2Proof.Machine.execRecordCheck q s
  | .dispatch => Sys2Proof.Machine.execDispatch s
  | .gangRetire gang => Sys2Proof.Machine.execGangRetire gang s
  | .joinDecrement idx => Sys2Proof.Machine.execJoinDecrement idx s
  | .continuationPush idx => Sys2Proof.Machine.execContinuationPush idx s
  | .quantumEnd gang => Sys2Proof.Machine.execQuantumEnd gang s
  | .priorityTrigger => Sys2Proof.Machine.execPriorityTrigger s
  | .drainLimit gang => Sys2Proof.Machine.execDrainLimit gang s
  | .checkpoint gang => Sys2Proof.Machine.execCheckpoint gang s
  | .restore gang => Sys2Proof.Machine.execRestore gang s
  | .recordReappend idx => Sys2Proof.Machine.execRecordReappend idx s
  | .handlerBudget grp split => Sys2Proof.Machine.execHandlerBudget grp split s
  | .orderedCommit grp => Sys2Proof.Machine.execOrderedCommit grp s
  | .timerTrap grp => Sys2Proof.Machine.execTimerTrap grp s
  | .sleepWake grp split => Sys2Proof.Machine.execSleepWake grp split s
  | .semwaitRetry grp split => Sys2Proof.Machine.execSemwaitRetry grp split s
  | .pulsarTick die => Sys2Proof.Machine.execPulsarTick die s
  | .parkedReplay grp split => Sys2Proof.Machine.execParkedReplay grp split s
  | .parkedRetryPeriod grp split => Sys2Proof.Machine.execParkedRetryPeriod grp split s
  | .copyOnWrite ctx va => Sys2Proof.Machine.execCopyOnWrite ctx va s
  | .migration idx => Sys2Proof.Machine.execMigration idx s
  | .thrashPinEnd region => Sys2Proof.Machine.execThrashPinEnd region s
  | .fillStart range block => Sys2Proof.Machine.execFillStart range block s
  | .mergeStep line => Sys2Proof.Machine.execMergeStep line s
  | .cacheEviction what unit addr len => Sys2Proof.Machine.execCacheEviction what unit addr len s
  | .scrub w unit addr => Sys2Proof.Machine.execScrub w unit addr s
  | .flitRetransmit src dst pa => Sys2Proof.Machine.execFlitRetransmit src dst pa s
  | .errorRingWrite => Sys2Proof.Machine.execErrorRingWrite s
  | .msixMessage vector => Sys2Proof.Machine.execMsixMessage vector s
  | .commandWindowWrite win off data => Sys2Proof.Machine.execCommandWindowWrite win off data s
  | .build win => Sys2Proof.Machine.execBuild win s
  | .destroy win => Sys2Proof.Machine.execDestroy win s
  | .seal win => Sys2Proof.Machine.execSeal win s
  | .registerWrite win => Sys2Proof.Machine.execRegisterWrite win s
  | .plainRegisterWrite off value size => Sys2Proof.Machine.execPlainRegisterWrite off value size s
  | .catalogueLoad win => Sys2Proof.Machine.execCatalogueLoad win s
  | .translationUpdate win => Sys2Proof.Machine.execTranslationUpdate win s
  | .copy win job => Sys2Proof.Machine.execCopy win job s
  | .attest win => Sys2Proof.Machine.execAttest win s
  | .quantum value => Sys2Proof.Machine.execQuantum value s
  | .frame64 q value => Sys2Proof.Machine.execFrame64 q value s
  | .frame2m q value => Sys2Proof.Machine.execFrame2m q value s
  | .rframe q => Sys2Proof.Machine.execRframe q s
  | .rtcount value => Sys2Proof.Machine.execRtcount value s
  | .rangeLoad idx => Sys2Proof.Machine.execRangeLoad idx s
  | .rangeRemove idx => Sys2Proof.Machine.execRangeRemove idx s
  | .resync link mask => Sys2Proof.Machine.execResync link mask s
  | .hostRead pa n => Sys2Proof.Machine.execHostRead pa n s
  | .hostWrite pa data => Sys2Proof.Machine.execHostWrite pa data s
  | .unlistedAccess off write => Sys2Proof.Machine.execUnlistedAccess off write s
  | .linkFrame link channel fmt coded seq pa body => Sys2Proof.Machine.execLinkFrame link channel fmt coded seq pa body s
  | .linkAck link seq refused => Sys2Proof.Machine.execLinkAck link seq refused s
  | .resyncFrame link mask => Sys2Proof.Machine.execResyncFrame link mask s
  | .linkRetrain link => Sys2Proof.Machine.execLinkRetrain link s
  | .reset => Sys2Proof.Machine.execReset s
  | .powerLimit die => Sys2Proof.Machine.execPowerLimit die s
  | .thermalTrip => Sys2Proof.Machine.execThermalTrip s
  | .managementRead item => Sys2Proof.Machine.execManagementRead item s
  | .managementReset => Sys2Proof.Machine.execManagementReset s
  | .sealCompletion idx => Sys2Proof.Machine.execSealCompletion idx s
  | .remoteWriteApply die idx => Sys2Proof.Machine.execRemoteWriteApply die idx s
  | .softError w unit addr bits => Sys2Proof.Machine.execSoftError w unit addr bits s
  | .idleIssueEnd die => Sys2Proof.Machine.execIdleIssueEnd die s
  | .linkDown link => Sys2Proof.Machine.execLinkDown link s
  | .msixTableWrite off data => Sys2Proof.Machine.execMsixTableWrite off data s
  | .hostAtomicop op wide pa x y => Sys2Proof.Machine.execHostAtomicop op wide pa x y s

end Sys2Proof.Machine
end

