-- ==== Sys2Proof/Machine/Issue.lean ====
section
/-!
DEFINITION. The issue of one bundle (R52, R120 to R125, R165): what lets it wait, what traps before its slots execute, the picker of a
core, and the turns.
-/
namespace Sys2Proof.Machine

-- ## Marked words that an instruction consumes (R25, R202, R230)

/-- Registers whose value a store carries with its mark instead of consuming it (R202). -/
def carried (i : Instr) : List RegId :=
  match i with
  | .stu _ _ d _ _ | .stl _ _ d _ _ => [.k d]
  | .st _ _ _ d _ _ | .spst _ _ d _ _ => [.v d, .v (d.val + 1)]
  | .nodest d _ _ => [.v d]
  | _ => []

/-- The lane predicate of an instruction; 0 is p0. -/
def predOf (kd : CoreKind) (i : Instr) : Nat :=
  ((uses kd i).findSome? fun u => match u.reg, u.wr with | .p n, false => some n | _, _ => none).getD 0

namespace State

/-- The words of a 32-element block of a VQMX source (R97). -/
def blockWords (s : State) (a j : Nat) : List RegWord :=
  (upFrom (32 * j) 32).map fun i => if i < s.vl then RegWord.v a i else .v (a + 1) (i - s.vl)

/-- The words on which the result of lane l depends. -/
def laneWords (s : State) (i : Instr) (l : Nat) : List RegWord :=
  match i with
  | .vshuf _ _ a b => [.v b l, .v a ((s.v b l).toNat % s.vl)]
  | .vshufImm k _ d n => [.v d (shufLane k s.vl n l)]
  | .vbcast _ _ a b => [.v a ((s.k b).toNat % s.vl)]
  | .vbfly _ _ a b => (match b with | .v n => [.v n l] | .k _ => []) ++ [.v a (l ^^^ ((s.vk b l).toNat % s.vl))]
  | .vred _ _ _ p _ a => (s.lanes p).map (RegWord.v a)
  | .vscan _ _ _ p _ a => ((s.lanes p).filter fun j => decide (j ≤ l)).map (RegWord.v a)
  | .vsel p _ a b => if bitOf (s.p p.val) l then [.v a l] else match b with | .v n => [.v n l] | .k _ => []
  | .vmovAcc _ _ hi a => [.a a (64 * bit hi + l)]
  | .vcvtn _ _ _ _ _ d a => [.v a l, .v d l]
  | .vcvtf _ _ _ _ _ _ d a => [.v a l, .v d l]
  | .vqmx t _ c d a _ x =>
    let n := 32 / (qfmt s.f t).2
    let base := c.val * (2 * s.vl)
    let own := if base ≤ l * n ∧ l * n < base + 2 * s.vl then .v d l :: (upFrom (l * n - base) n).flatMap fun e => s.blockWords a (e / 32) else []
    own ++ (if base / 32 ≤ l ∧ l < base / 32 + 2 * s.vl / 32 then .v x l :: s.blockWords a (l - base / 32) else [])
  | .vdqmx t _ c _ a _ x =>
    let n := 32 / (qfmt s.f t).2
    [l, s.vl + l].flatMap fun e => let k := c.val * (2 * s.vl) + e; [RegWord.v a (k / n), .v x (k / 32)]
  | .krfl _ _ a => if l = s.lowLane then [.v a l] else []
  | .krdl _ _ a b => if l = (s.k b).toNat % s.vl then [.v a l] else []
  | i => (uses s.kind i).filterMap fun u => match u.reg, u.wr with
    | .v n, false => if (carried i).elem u.reg then none else some (.v n l)
    | _, _ => none

/-- The lanes whose results an instruction forms. -/
def formLanes (s : State) (i : Instr) : List Nat :=
  match i with
  | .vsel _ _ _ _ => s.maskLanes
  | .krfl _ _ _ | .krdl _ _ _ _ => List.range s.vl
  | i => bitsOf s.vl (s.mask &&& s.p (predOf s.kind i))

/-- The lane of the MACHINE_CHECK that an instruction takes, if it consumes a marked word. -/
def consumes (s : State) (i : Instr) : Option Nat :=
  if s.rg.poison = [] then none
  else
    let ls := s.formLanes i
    let kBad := (uses s.kind i).any fun u => match u.reg, u.wr with
      | .k n, false => s.regPoisoned (.k n) && !(carried i).elem u.reg
      | _, _ => false
    if kBad then (if predOf s.kind i = 0 then some (ls.headD 0) else ls.head?)
    else ls.find? fun l => (s.laneWords i l).any s.regPoisoned

/-- What traps before a slot executes: a read of a withheld destination (R171), or of a marked word. -/
def issueTrap (s : State) (i : Instr) : Option Trap :=
  if (uses s.kind i).any fun u => !u.wr && s.rg.withheld.elem u.reg then some (illegal 3)
  else (s.consumes i).map fun l => mkTrap .machineCheck 0 l 0

-- ## What makes a bundle wait (R52, R68, R342, R385)

/-- An instruction of a bundle cannot issue yet: the scoreboard holds a register, a transform holds a stream that it names, or a GFLUSH of
the group has not entered the port. -/
def slotWaits (s : State) (slot : Nat) (i : Instr) : Bool :=
  let us := uses s.kind i
  us.any (fun u => s.cg.busy.elem u.reg)
    || us.any (fun u => match u.reg with | .s n => (xStreams s.cg).elem n | _ => false)
    || (match i with | .xmovt _ _ (.s n) => (xStreams s.cg).elem n.val | _ => false)
    || (slot == 6 && s.kind == .shading && i != .nop && s.flushes.any fun f => f.grp == s.cur.grp)

/-- A group of ordered mode that may not issue: its quantum has ended, a lower gang of its job is present, or a pre-emption waits at the
quantum's end (R43, R141, R218). -/
def orderedWaits (s : State) : Bool :=
  let g := s.cg
  let gg := s.gg
  orderedRec gg.rec_ && (decide (4096 ≤ g.retired) || g.commitWait || (gg.preempt.isSome && g.retired == 0)
    || s.gangs.any fun x => orderedRec x.2.rec_ && x.2.queue == gg.queue && x.2.job == gg.job && decide (recGidx x.2.rec_ < recGidx gg.rec_))

-- ## Merging (R120, R121)

/-- Splits a and b of one group merge: equal pc, one of them just arrived or at a MERGE, equal trap level, one stack empty, none parked. -/
def joinable (a b : Split) (atMerge : Bool) : Bool :=
  a.pc == b.pc && (a.arrived || b.arrived || atMerge) && a.tlev == b.tlev && (a.stack == [] || b.stack == []) && a.waits == []
    && b.waits == [] && !a.barred && !b.barred

/-- The issuing split merges with the others that may; it takes the lower number and issue age 0. -/
def joinSplits (atMerge : Bool) : Nat → State → State
  | 0, s => s
  | fuel + 1, s =>
    let x := s.split
    match s.cg.splits.find? fun y => y.1 != s.cur.split && joinable x y.2 atMerge with
    | none => s
    | some (j, y) =>
      let lo := min j s.cur.split
      let z := if j < s.cur.split then y else x
      let z := { z with mask := x.mask ||| y.mask, stack := if x.stack = [] then y.stack else x.stack, age := s.cycle, arrived := true }
      let s := s.modG fun g => { g with splits := Sparse.insert (Sparse.erase (Sparse.erase g.splits j) s.cur.split) lo z }
      joinSplits atMerge fuel { s with cur := { s.cur with split := lo } }

/-- Row 1 of R120: entries of the address leave the top of the stack and add their lanes. -/
def popHere (pc : Nat) : List (Nat × Nat) → Nat → List (Nat × Nat) × Nat
  | [], m => ([], m)
  | (a, n) :: r, m => if a = pc then popHere pc r (m ||| n) else ((a, n) :: r, m)

/-- The rows of R120 at a MERGE, and whether the split leaves under row 2. -/
def mergeRows (s : State) : State × Bool :=
  let x := s.split
  if x.acted then (s, false)
  else match x.stack with
    | [] => (s, false)
    | (a, m) :: r =>
      if a = x.pc then
        let p := popHere x.pc x.stack x.mask
        (s.modSplit fun x => { x with stack := p.1, mask := p.2, acted := true }, false)
      else (s.modSplit fun x => { x with stack := (x.pc, x.mask) :: r, pc := a, mask := m, arrived := false }, true)

-- ## Ports (R122, R123)

/-- What a bundle takes of its core. -/
def needsOf (s : State) (is : List (Nat × Instr)) : Needs :=
  let rd := is.flatMap fun x => (uses s.kind x.2).filterMap fun u => match u.reg, u.wr with | .v n, false => some n | _, _ => none
  { slots := (is.filter fun x => x.2 != .nop).map (·.1)
    reads := rd.eraseDups.filter fun n => !s.cg.fwd.any fun w => w.elem n }

/-- Vector registers that a bundle writes. -/
def vWrites (kd : CoreKind) (is : List (Nat × Instr)) : List Nat :=
  is.flatMap fun x => (uses kd x.2).filterMap fun u => match u.reg, u.wr with | .v n, true => some n | _, _ => none

def bankReads (n : Needs) (b : Nat) : Nat := (n.reads.filter fun r => r % 4 == b).length
/-- A bundle that alone needs more than two reads of a bank, and for how many further cycles it holds its port. -/
def overReads (n : Needs) : Nat := (List.range 4).foldl (fun m b => max m ((bankReads n b - 2 + 1) / 2)) 0

/-- What the core has issued in this cycle. -/
def issueRec (s : State) (core : Nat) : IssueRec :=
  let r := Sparse.get { cycle := 0, bundles := [], held := [], done := false } s.issued core
  { r with cycle := s.cycle, bundles := if r.cycle = s.cycle then r.bundles else [], done := r.done && r.cycle == s.cycle,
           held := r.held.filter fun t => decide (s.cycle < t) }

def conflict (a b : Needs) : Bool :=
  [2, 3, 4, 6, 7].any (fun i => a.slots.elem i && b.slots.elem i)
    || (List.range 4).any (fun b' => decide (2 < bankReads a b' + bankReads b b')) || overReads a != 0 || overReads b != 0

/-- Whether a core has a port for a bundle now. -/
def portFree (s : State) (core : Nat) (n : Needs) : Bool :=
  let r := s.issueRec core
  match s.kind, r.bundles with
  | .tensor, l => l == []
  | .shading, [] => decide (r.held.length < 2)
  | .shading, [a] => r.held == [] && !conflict a n
  | .shading, _ => false

def noteIssue (s : State) (core : Nat) (n : Needs) : State :=
  let r := s.issueRec core
  let o := overReads n
  let r := { r with bundles := r.bundles ++ [n], held := if o = 0 then r.held else r.held ++ [s.cycle + 1 + o] }
  { s with issued := Sparse.insert s.issued core r }

-- ## One bundle

/-- What an attempt to issue comes to. -/
inductive Att
  | no (s : State)
  | did (s : State)
  | bad (slot word : Nat)

/-- The order in which the slots of a bundle take effect on the state: all read the registers of before it, and slot 0 comes last. -/
def slotOrder : List Nat := [2, 3, 4, 5, 7, 6, 1, 0]

/-- One slot runs, under its own trap checks. -/
def runSlot (s : State) (slot : Nat) (i : Instr) : State :=
  let s := { s with cur := { s.cur with slot := slot, status := .ran } }
  match s.issueTrap i with
  | some t => s.takeTrap t
  | none => match exec i s with | .next t => t | .fault _ | .refused _ => s.stall

/-- HALT and TRET end the gang in a bundle whose other slots have taken effect (R162). -/
def endsGang (i : Instr) : Bool := match i with | .halt _ _ | .tret _ => true | _ => false

/-- Slots in order, until one does not run. -/
def runSlots (is : List (Nat × Instr)) : List Nat → State → State
  | [], s => s
  | k :: r, s =>
    match is.find? fun x => x.1 == k with
    | none => runSlots is r s
    | some x =>
      let t := s.runSlot x.1 x.2
      if t.cur.status == .ran then runSlots is r t else t

/-- GOVARM, GOVSTEP and GOVQ act although another slot of their bundle traps (R417). -/
def governs (i : Instr) : Bool := match i with | .govarm _ _ _ | .govstep _ _ _ | .govq _ _ _ _ => true | _ => false

/-- The bundle's counters: the handler budget of a split that delays a pre-emption (R127). -/
def countCycles (s : State) (n : Nat) (x : Split) : Split :=
  if s.gg.preempt.isSome && maskedHandler x then { x with budget := x.budget + n } else x

/-- A bundle that has issued: the split goes on, and the group counts it. -/
def retire (s : State) (core : Nat) (n : Needs) (is : List (Nat × Instr)) (t : State) : State :=
  let t := t.noteIssue core n
  if t.groups.all (fun x => x.1 != t.cur.grp) then t
  else
    let t := t.modG fun g =>
      { g with fwd := (vWrites g.kind is :: g.fwd).take 8, retired := if orderedRec t.gg.rec_ then g.retired + 1 else g.retired }
    if t.cg.splits.all (fun x => x.1 != t.cur.split) then t
    else t.modSplit fun x =>
      let x := if t.cur.jumped then x else { x with pc := (x.pc + 32) % 2 ^ 64, arrived := false }
      s.countCycles 1 { x with age := s.cycle, barred := false, acted := false }

/-- A trap in place of a bundle. -/
def retireTrap (s : State) (core : Nat) (n : Needs) (t : State) : State :=
  let t := t.noteIssue core n
  if t.cur.status == .killed || t.groups.all (fun x => x.1 != t.cur.grp) then t
  else t.modSplit fun x => { x with age := s.cycle, acted := false }

/-- A bundle whose slots do not all run: it waits if some slot must; else the lowest slot that traps does so alone, else the lowest that
holds the bundle keeps what it records. -/
def resolve (s : State) (core : Nat) (n : Needs) (is : List (Nat × Instr)) (last : State) : Att :=
  let alone := is.map fun x => (x, s.runSlot x.1 x.2)
  let st := fun (y : (Nat × Instr) × State) => y.2.cur.status
  let wait := Att.no (s.modSplit (s.countCycles 1))
  if alone.any (fun y => st y == .stalled) || last.cur.status == .stalled then wait
  else
    let traps := fun (y : (Nat × Instr) × State) => st y == .trapped || (st y == .killed && !endsGang y.1.2)
    match alone.find? traps with
    | some y =>
      let gov := alone.find? fun z => z.1.1 == 0 && governs z.1.2 && st z == .ran
      match gov with
      | some z => .did (s.retireTrap core n (State.runSlot { z.2 with groups := s.groups, cur := s.cur } y.1.1 y.1.2))
      | none => .did (s.retireTrap core n y.2)
    | none => match alone.find? fun y => st y == .held with
      | some y => .did (y.2.modSplit (s.countCycles 1))
      | none => wait

/-- The bundle at the split's pc, decoded and free to issue. -/
def issueBundle (s : State) (core : Nat) (is : List (Nat × Instr)) : Att :=
  let n := s.needsOf is
  if is.any (fun x => s.slotWaits x.1 x.2) then .no (s.modSplit (s.countCycles 1))
  else if !s.portFree core n then .no s
  else
    let s := { s with cur := { s.cur with view := some s.cg, jumped := false } }
    let t := runSlots is slotOrder s
    if t.cur.status == .ran || (t.cur.status == .killed && is.any fun x => x.1 == t.cur.slot && endsGang x.2) then
      .did (s.retire core n is t)
    else s.resolve core n is t

/-- A split issues, if it can: its TIMER trap comes first (R165), then splits merge, the rows of R120 apply, and the bundle issues. -/
def attempt (s0 : State) (core grp split : Nat) : Att :=
  let s := s0.timerEvent grp
  if s.cur.status == .trapped || s.cur.status == .killed then .did s
  else
    let s := (s.asSplit grp split).modSplit fun x =>
      { x with waits := x.waits.filter fun w => match w with | .sleep t => decide (s.sid < t) | _ => true }
    if s.orderedWaits then .no s0
    else match s.fetch s.split.pc with
      | .bad t => .did (s.retireTrap core { slots := [], reads := [] } (s.takeTrap t))
      | .words ws =>
        let ds := (ws.zipIdx).map fun w => (w.2, w.1, decodeSlot s.cg.kind w.2 w.1)
        match ds.find? fun d => match d.2.2 with | .ok _ => false | .error _ => true with
        | some d => .bad d.1 d.2.1
        | none =>
          let is := ds.filterMap fun d => match d.2.2 with | .ok i => some (d.1, i) | .error _ => none
          let atMerge := is.any fun x => match x.2 with | .merge _ => true | _ => false
          let s := joinSplits atMerge 3 s
          let m := if atMerge then s.mergeRows else (s, false)
          if m.2 then .did m.1
          else match m.1.issueBundle core is with
            | .no t => .no (if t.cg.splits.any (·.1 == split) then s0.asSplit grp split |>.modSplit fun x => { x with budget := t.split.budget } else s0)
            | a => a

-- ## The picker (R122)

/-- A split that is not parked. -/
def unparked (now : Nat) (x : Split) : Bool :=
  x.waits.all fun w => match w with | .sem _ _ ready => ready | .sleep t => decide (t ≤ now) | _ => false

/-- Candidate splits of a core in the order of R122: trap level, larger age, lower group slot, lower split number. -/
structure Rank where
  tlev : Bool
  age : Nat
  slot : Nat
  grp : Nat
  split : Nat
def Rank.before (a b : Rank) : Bool :=
  (a.tlev && !b.tlev) || (a.tlev == b.tlev && (decide (b.age < a.age) || (a.age == b.age &&
    (decide (a.slot < b.slot) || (a.slot == b.slot && decide (a.split < b.split))))))
def insertRank (x : Rank) : List Rank → List Rank
  | [] => [x]
  | y :: r => if x.before y then x :: y :: r else y :: insertRank x r

def ranked (s : State) (core : Nat) : List Rank :=
  ((s.groups.filter fun g => g.2.core == core && resident (s.gang g.2.gang)).flatMap fun g =>
    (g.2.splits.filter fun x => unparked s.sid x.2).map fun x =>
      ({ tlev := x.2.tlev, age := s.cycle - x.2.age, slot := g.2.slot, grp := g.1, split := x.1 } : Rank)).foldl
    (fun l x => insertRank x l) []

/-- The first split of a list that can issue does. -/
def pick (core : Nat) : List Rank → State → Att
  | [], s => .no s
  | x :: r, s => match s.attempt core x.grp x.split with
    | .no t => pick core r t
    | a => a

-- ## Turns

/-- The issuing context as it stands between turns. -/
def idleCur : Cur := { grp := 0, split := 0, slot := 0, view := none, status := .ran, jumped := false }
def settle (s : State) : State := { s with cur := idleCur }

/-- Arithmetic cycles pass; parked splits in a handler count them (R18, R127). -/
def passTime (s : State) (n : Nat) : State :=
  { s with cycle := s.cycle + n
           groups := s.groups.map fun g =>
             if (s.gang g.2.gang).preempt.isSome && resident (s.gang g.2.gang) then
               (g.1, { g.2 with splits := g.2.splits.map fun x =>
                 (x.1, if maskedHandler x.2 && x.2.waits != [] then { x.2 with budget := x.2.budget + n } else x.2) })
             else g }

def markDone (s : State) (core : Nat) : State :=
  { s with issued := Sparse.insert s.issued core { s.issueRec core with done := true } }

/-- The core issues one bundle, if some split of it can. -/
def issueTurn (s : State) (core : Nat) : Host.Outcome State Fault Refusal :=
  if s.inReset then .next s.settle
  else match pick core (s.ranked core) s with
    | .no t => .next (t.markDone core).settle
    | .did t => .next t.settle
    | .bad slot word => .fault (.unsealableWord slot word)

/-- Whether a constructor is an event's: it has no slot word. -/
def isEvent (i : Instr) : Bool := (Sys2Proof.encode i).isNone

/-- An event takes place. -/
def eventTurn (s : State) (i : Instr) : Host.Outcome State Fault Refusal :=
  if isEvent i then
    match exec i s.settle with
    | .next t => .next t.settle
    | .fault r => .fault r
    | .refused r => .refused r
  else .next s

/-- With no turn listed, the lowest core that may still issue in this cycle does, else a cycle passes. -/
def defaultTurn (s : State) : Turn :=
  match s.groups.find? fun g => resident (s.gang g.2.gang) && g.2.splits.any (fun x => unparked s.sid x.2) && !(s.issueRec g.2.core).done with
  | some g => .issue g.2.core
  | none => .tick 1

/-- One turn. -/
def takeTurn (s : State) : Host.Outcome State Fault Refusal :=
  let t := match s.turns with | [] => s.defaultTurn | t :: _ => t
  let s := { s with turns := s.turns.drop 1 }
  match t with
  | .issue core => s.issueTurn core
  | .event i => s.eventTurn i
  | .tick n => .next (s.passTime n)

end State
end Sys2Proof.Machine
end

