-- ==== Sys2Proof/Machine/Boot.lean ====
section
/-!
DEFINITION. One slot word put where the next step fetches it. A program comes to run when the host has built a context, sealed an
image and appended a record, and the dispatcher has placed its gang (R70, R105, R110, R143); this is what stands once that is done for a
gang of one group whose first bundle is at 0x10100.
-/
namespace Sys2Proof.Machine

/-- Base of the image and address of its only bundle. -/
def bootBase : Nat := 0x10000
def bootPc : Nat := 0x10100
/-- Physical addresses of the four tables and of the image's page. -/
def bootTables : Nat := 0x100000
def bootPage : Nat := 0x120000

/-- The table entries that map the page at 0x10000, readable and resident (R258). -/
def bootEntries : List (Nat × Nat) :=
  [(bootTables, bootTables + 0x10001), (bootTables + 0x10000, bootTables + 0x11001), (bootTables + 0x11000, bootTables + 0x12001),
   (bootTables + 0x12008, bootPage + 0x93)]

/-- The core a gang of a kind is placed on: core 0 of die 0, or tile (0, 0). -/
def bootCore : CoreKind → Nat
  | .shading => srcOf 0 0 | .tensor => tileSrc 0 0

def bootImage (kd : CoreKind) : Image :=
  { Image.zero with base := bootBase, kind := kd, codeLen := 32, entries := [0x100], shape1 := (match kd with | .shading => 0 | .tensor => 1) }

/-- The bytes of a bundle that holds a word in one slot and NOPs in the others (R50). -/
def oneSlotBundle (slot w : Nat) : List Byte := (List.range 8).flatMap fun i => leBytes 4 (if i = slot then w else 0)

def bootWrites (slot w : Nat) : List (Nat × Byte) :=
  (bootEntries.flatMap fun e => (run e.1 8).zip (leBytes 8 e.2)) ++ (run (bootPage + 0x100) 32).zip (oneSlotBundle slot w)

namespace State

/-- A gang of one group of a kind stands before a bundle that holds a word in one slot, and it is that core's turn. -/
def placeWord (s : State) (kd : CoreKind) (slot w : Nat) : State :=
  let core := bootCore kd
  let g : Gang := { Gang.zero with image := bootImage kd, core := core, quantumEnd := s.sid + s.quantum }
  let s := { s with
    mem := Sparse.setAll 0 s.mem (bootWrites slot w), hostCopy := [], poison := [], pend := [], wlog := [], tlb := []
    sealed_ := [pageOf bootPage], ctxs := [(0, { Ctx.zero with ptroot := bootTables })], gangs := [(0, g)], nextGang := 1
    inReset := false, issued := [], flushes := [], turns := [.issue core] }
  { s with groups := [(groupKey 0 0, s.firstGroup 0 (bootImage kd) [] [] 0 core 0)] }

/-- The same for a word that does not name its slot: the kind and slot at which `decodeTableWord` reads it. -/
def placeTableWord (s : State) (w : Nat) : State :=
  match firstReading tableOrder w with
  | some x => s.placeWord x.1 x.2.1 w
  | none => s.placeWord .tensor 1 w

end State
end Sys2Proof.Machine
end

