-- ==== Sys2Proof/Machine/Step.lean ====
section
/-!
DEFINITION. One step of the package: the agent whose turn it is acts.
-/
namespace Sys2Proof.Machine

/-- One step. -/
def step (s : State) : Host.Outcome State Fault Refusal := s.takeTurn

/-- The state in which the next step fetches and runs the word. -/
def State.withFetchWord (s : State) (nbits w : Nat) : State := s.placeTableWord (w % 2 ^ min nbits 32)

end Sys2Proof.Machine
end

