-- ==== Sys2Proof/Safety.lean ====
section
/-!
DEFINITION. What counts as a safe run: every step answers a next state, memory is in its canonical form, and no bundle is left half issued
between two steps (R52).
-/
namespace Sys2Proof.Machine

/-- Memory is in its canonical form. -/
def State.canonical (s : State) : Bool := Memory.wf s.mem

/-- No bundle is half issued: the issuing context is at rest. -/
def State.settled (s : State) : Bool := s.cur == State.idleCur

def State.safe (s : State) : Bool := s.canonical && s.settled

/-- `k` steps from `s` all answer a next state, and each of these is safe. -/
def SafeRun : Nat → State → Prop
  | 0, s => s.safe = true
  | k + 1, s => s.safe = true ∧ ∃ t, step s = .next t ∧ SafeRun k t

end Sys2Proof.Machine
end

