-- ==== Sys2Proof/Certificates/Slice0/Obligations.lean ====
section
/-!
DEFINITION. The statements for the provers, with the small vocabulary of the spec's own formulas in which they are written.
-/
open Sys2Proof Sys2Proof.Machine

namespace Sys2Proof.Rule

/-- kA[W−1:0] as an unsigned number (R178). -/
def un (f : KWidth) (x : W64) : Int := ((x.toNat % 2 ^ f.bits : Nat) : Int)
/-- kA[W−1:0] as a signed number (R178). -/
def sg (f : KWidth) (x : W64) : Int := if un f x < 2 ^ (f.bits - 1) then un f x else un f x - 2 ^ f.bits
/-- Res of R178: the low W bits of an integer, sign-extended to 64. -/
def res (f : KWidth) (x : Int) : W64 :=
  let y := x % 2 ^ f.bits
  BitVec.ofInt 64 (if y < 2 ^ (f.bits - 1) then y else y - 2 ^ f.bits)
/-- The operand of an instruction that has a U bit: unsigned when it is set, else signed. -/
def us (f : KWidth) (u : Bool) (x : W64) : Int := if u then un f x else sg f x
/-- A function applied n times. -/
def iter {α : Type} (f : α → α) : Nat → α → α
  | 0, x => x
  | n + 1, x => iter f n (f x)

end Sys2Proof.Rule

/-- For every state, width and register: KMOV, KMOVI, KHI, KADD, KADDI, KSUB, KMUL, KMULH and KMAD answer a next state that
differs from the old one by one write of kD. Its value is the integer sum, difference or product of the operands taken at W bits,
wrapped to W bits and sign-extended (KMULH: bits 127 to 64 of the exact signed or unsigned product; KMOVI and KHI: the
sign-extended immediate, for KHI times 2^20; KADDI adds the sign-extended immediate at 64 bits). -/
def Obligations.ScalarAddSubMulAndMoves : Prop :=
  ∀ (s : State) (f : KWidth) (u : Bool) (d a b : KReg) (i : BitVec 20) (j : BitVec 14),
    exec (.kmov d a) s = .next (s.setK d (s.k a)) ∧
    exec (.kmovi d i) s = .next (s.setK d (BitVec.ofInt 64 i.toInt)) ∧
    exec (.khi d i) s = .next (s.setK d (BitVec.ofInt 64 (i.toInt * 2 ^ 20))) ∧
    exec (.kadd f d a b) s = .next (s.setK d (Rule.res f (Rule.un f (s.k a) + Rule.un f (s.k b)))) ∧
    exec (.kaddi d a j) s = .next (s.setK d (Rule.res .d (Rule.un .d (s.k a) + j.toInt))) ∧
    exec (.ksub f d a b) s = .next (s.setK d (Rule.res f (Rule.un f (s.k a) - Rule.un f (s.k b)))) ∧
    exec (.kmul f d a b) s = .next (s.setK d (Rule.res f (Rule.un f (s.k a) * Rule.un f (s.k b)))) ∧
    exec (.kmulh d a b u) s =
      .next (s.setK d (BitVec.ofInt 64 (Rule.us .d u (s.k a) * Rule.us .d u (s.k b) / 2 ^ 64))) ∧
    exec (.kmad f d a b) s =
      .next (s.setK d (Rule.res f (Rule.un f (s.k a) * Rule.un f (s.k b) + Rule.un f (s.k d))))

/-- For every state, width, register and immediate: KAND, KOR, KXOR and KNOT (and the immediate forms, whose immediate is
sign-extended) write kD with the bitwise result; KSHL, KSHR, KSAR and KROT shift or rotate the operand, taken at W bits, by the
count's low 6 bits (5 for .W) and write the result wrapped to W bits and sign-extended. The immediate shifts take the count
IMM14[5:0], below 32 for .W. Each answers a next state that differs from the old one by that one write. -/
def Obligations.ScalarLogicAndShifts : Prop :=
  ∀ (s : State) (f : KWidth) (d a b : KReg) (j : BitVec 14) (c : Fin 64),
    (∃ x y z w : W64,
      exec (.kand d a b) s = .next (s.setK d x) ∧ exec (.kor d a b) s = .next (s.setK d y) ∧
      exec (.kxor d a b) s = .next (s.setK d z) ∧ exec (.knot d a) s = .next (s.setK d w) ∧
      ∀ i < 64, x.getLsbD i = ((s.k a).getLsbD i && (s.k b).getLsbD i) ∧
        y.getLsbD i = ((s.k a).getLsbD i || (s.k b).getLsbD i) ∧
        z.getLsbD i = ((s.k a).getLsbD i != (s.k b).getLsbD i) ∧ w.getLsbD i = !(s.k a).getLsbD i) ∧
    (∃ x y z : W64,
      exec (.kandImm d a j) s = .next (s.setK d x) ∧ exec (.korImm d a j) s = .next (s.setK d y) ∧
      exec (.kxorImm d a j) s = .next (s.setK d z) ∧
      ∀ i < 64, x.getLsbD i = ((s.k a).getLsbD i && j.getLsbD (min i 13)) ∧
        y.getLsbD i = ((s.k a).getLsbD i || j.getLsbD (min i 13)) ∧
        z.getLsbD i = ((s.k a).getLsbD i != j.getLsbD (min i 13))) ∧
    (let n := (s.k b).toNat % f.bits;
      exec (.kshl f d a b) s = .next (s.setK d (Rule.res f (Rule.un f (s.k a) * 2 ^ n))) ∧
      exec (.kshr f d a b) s = .next (s.setK d (Rule.res f (Rule.un f (s.k a) / 2 ^ n))) ∧
      exec (.ksar f d a b) s = .next (s.setK d (Rule.res f (Rule.sg f (s.k a) / 2 ^ n))) ∧
      exec (.krot f d a b) s =
        .next (s.setK d (Rule.res f (Rule.un f (s.k a) * 2 ^ n + Rule.un f (s.k a) / 2 ^ (f.bits - n))))) ∧
    (c.val < f.bits →
      exec (.kshlImm f d a c) s = .next (s.setK d (Rule.res f (Rule.un f (s.k a) * 2 ^ c.val))) ∧
      exec (.kshrImm f d a c) s = .next (s.setK d (Rule.res f (Rule.un f (s.k a) / 2 ^ c.val))) ∧
      exec (.ksarImm f d a c) s = .next (s.setK d (Rule.res f (Rule.sg f (s.k a) / 2 ^ c.val))) ∧
      exec (.krotImm f d a c) s =
        .next (s.setK d (Rule.res f (Rule.un f (s.k a) * 2 ^ c.val + Rule.un f (s.k a) / 2 ^ (f.bits - c.val)))))

/-- For every state, width and register: KMIN and KMAX write the lesser and the greater operand, compared signed or unsigned; KCMP
writes 1 when the condition of its code holds between the operands at W bits and 0 otherwise; KSEL writes kA when the 64 bits of
kX are not 0, else kB; KPOPC writes the number of 1 bits, KCLZ and KCTZ the length of the longest run of 0 bits at the top and the
bottom of the W-bit operand. Each answers a next state that differs from the old one by that one write. -/
def Obligations.ScalarMinMaxCompareSelectCount : Prop :=
  ∀ (s : State) (f : KWidth) (u : Bool) (d a b x : KReg) (c : KCond),
    exec (.kmin f d a b u) s = .next (s.setK d (Rule.res f (min (Rule.us f u (s.k a)) (Rule.us f u (s.k b))))) ∧
    exec (.kmax f d a b u) s = .next (s.setK d (Rule.res f (max (Rule.us f u (s.k a)) (Rule.us f u (s.k b))))) ∧
    (∃ y : W64, exec (.kcmp f d a b c) s = .next (s.setK d y) ∧ (y = 0 ∨ y = 1) ∧
      (y = 1 ↔ match c with
        | .eq => Rule.un f (s.k a) = Rule.un f (s.k b)
        | .ne => Rule.un f (s.k a) ≠ Rule.un f (s.k b)
        | .lt => Rule.sg f (s.k a) < Rule.sg f (s.k b)
        | .ge => Rule.sg f (s.k b) ≤ Rule.sg f (s.k a)
        | .ltu => Rule.un f (s.k a) < Rule.un f (s.k b)
        | .geu => Rule.un f (s.k b) ≤ Rule.un f (s.k a)
        | .le => Rule.sg f (s.k a) ≤ Rule.sg f (s.k b)
        | .gt => Rule.sg f (s.k b) < Rule.sg f (s.k a)
        | .leu => Rule.un f (s.k a) ≤ Rule.un f (s.k b)
        | .gtu => Rule.un f (s.k b) < Rule.un f (s.k a))) ∧
    exec (.ksel d a b x) s = .next (s.setK d (if s.k x = 0 then s.k b else s.k a)) ∧
    exec (.kpopc f d a) s =
      .next (s.setK d (BitVec.ofNat 64 ((List.range f.bits).map fun i => bit ((s.k a).getLsbD i)).sum)) ∧
    (∃ n ≤ f.bits, exec (.kclz f d a) s = .next (s.setK d (BitVec.ofNat 64 n)) ∧
      (∀ i, f.bits - n ≤ i → i < f.bits → (s.k a).getLsbD i = false) ∧
      (n < f.bits → (s.k a).getLsbD (f.bits - 1 - n) = true)) ∧
    (∃ n ≤ f.bits, exec (.kctz f d a) s = .next (s.setK d (BitVec.ofNat 64 n)) ∧
      (∀ i < n, (s.k a).getLsbD i = false) ∧ (n < f.bits → (s.k a).getLsbD n = true))

/-- KDIVS answers a next state that differs by one write of kD, whose value is one function of kA and kB: with d the divisor
kB[31:0], r := kA[63:31] and q := kA[30:0] followed by 0, it subtracts d from r and sets q[0] where r ≥ d, and writes r[31:0]
above q. From any state whose upper half is below a divisor that is not 0, 32 applications of that function leave the quotient in
bits [31:0] and the remainder in bits [63:32]; with a divisor of 0 they leave a quotient of 0xFFFFFFFF. -/
def Obligations.ScalarDivideStep : Prop :=
  ∃ step1 : W64 → W64 → W64,
    (∀ (s : State) (d a b : KReg), exec (.kdivs d a b) s = .next (s.setK d (step1 (s.k b) (s.k a)))) ∧
    (∀ x y : W64,
      let dv := y.toNat % 2 ^ 32
      let r := x.toNat / 2 ^ 31
      let q := x.toNat % 2 ^ 31 * 2
      (step1 y x).toNat = if dv ≤ r then (r - dv) % 2 ^ 32 * 2 ^ 32 + (q + 1) else r % 2 ^ 32 * 2 ^ 32 + q) ∧
    (∀ x y : W64,
      let dv := y.toNat % 2 ^ 32
      let z := (Rule.iter (step1 y) 32 x).toNat
      (x.toNat / 2 ^ 32 < dv → z % 2 ^ 32 = x.toNat / dv ∧ z / 2 ^ 32 = x.toNat % dv) ∧
      (dv = 0 → z % 2 ^ 32 = 0xFFFFFFFF))

/-- For every state, register, position and length: KBFE writes the field of len bits at pos of kA, bits above 63 reading as 0,
zero- or sign-extended; KBFI replaces the bits pos to pos + len − 1 of kD that lie below 64 by the low bits of kA and leaves the
others. Each answers a next state that differs from the old one by one write of kD, and the slot word of each, at every position
and length, decodes to it in the scalar slot. -/
def Obligations.ScalarBitFields : Prop :=
  ∀ (s : State) (e : Bool) (d a : KReg) (pos x : Fin 64),
    let len := x.val + 1
    let f : Int := ((s.k a).toNat / 2 ^ pos.val % 2 ^ len : Nat)
    exec (.kbfe e d a pos x) s =
      .next (s.setK d (BitVec.ofInt 64 (if e ∧ 2 ^ (len - 1) ≤ f then f - 2 ^ len else f))) ∧
    (∃ y : W64, exec (.kbfi d a pos x) s = .next (s.setK d y) ∧
      ∀ i < 64, y.getLsbD i =
        if pos.val ≤ i ∧ i < pos.val + len then (s.k a).getLsbD (i - pos.val) else (s.k d).getLsbD i) ∧
    (∀ kd : CoreKind,
      decodeSlot kd 1 (0x21 * 2 ^ 26 + bit e * 2 ^ 24 + d.val * 2 ^ 18 + a.val * 2 ^ 12 + pos.val * 2 ^ 6 + x.val) = .ok (.kbfe e d a pos x) ∧
      decodeSlot kd 1 (0x22 * 2 ^ 26 + d.val * 2 ^ 18 + a.val * 2 ^ 12 + pos.val * 2 ^ 6 + x.val) = .ok (.kbfi d a pos x))

/-- KMOVI writes kD with the sign-extended 20-bit immediate and KHI with the sign-extended immediate shifted left by 20, whatever
kD held. For every constant c from −2^39 to 2^39 − 2^19 − 1 there are the two immediates lo = c[19:0] and hi = (c −
SignExtend(lo)) / 2^20 such that a KADD of two registers that hold what KMOVI lo and KHI hi write gives c. -/
def Obligations.ConstantsOfFortyBits : Prop :=
  (∀ (s : State) (d : KReg) (i : BitVec 20),
    exec (.kmovi d i) s = .next (s.setK d (i.signExtend 64)) ∧
    exec (.khi d i) s = .next (s.setK d (i.signExtend 64 <<< 20))) ∧
  (∀ c : Int, -(2 ^ 39) ≤ c → c ≤ 2 ^ 39 - 2 ^ 19 - 1 →
    let lo := BitVec.ofInt 20 c
    ∃ hi : BitVec 20, hi.toInt * 2 ^ 20 = c - lo.toInt ∧
      ∀ (s : State) (d a b : KReg), s.k a = hi.signExtend 64 <<< 20 → s.k b = lo.signExtend 64 →
        exec (.kadd .d d a b) s = .next (s.setK d (BitVec.ofInt 64 c)))

/-- For every state and register: KRFL writes kD with the lowest-numbered lane of the issuing split's mask (for a mask with a
lane) and KRDL with lane kB mod VL, whether or not it is active, extended to 64 bits by sign, or by zeros for .U. Each answers a
next state that differs from the old one by one write of kD. -/
def Obligations.LaneReads : Prop :=
  ∀ (s : State) (u : Bool) (d b : KReg) (v : VReg),
    let ext := fun x : W32 => if u then BitVec.ofNat 64 x.toNat else BitVec.ofInt 64 x.toInt
    (∀ l < s.vl, bitOf s.mask l = true → (∀ j < l, bitOf s.mask j = false) →
      exec (.krfl u d v) s = .next (s.setK d (ext (s.v v l)))) ∧
    exec (.krdl u d v b) s = .next (s.setK d (ext (s.v v ((s.k b).toNat % s.vl))))

namespace Sys2Proof.Rule

/-- Lane l of pN as it stands now in the issuing group; p0 reads all ones (R186). -/
def pNow (s : State) (n l : Nat) : Bool := if n = 0 then true else (Sparse.get 0 s.cg.r.p n).getLsbD l
/-- Lane l of pN as an instruction of the bundle reads it (R52, R186). -/
def pRead (s : State) (n l : Nat) : Bool := if n = 0 then true else (Sparse.get 0 s.rg.r.p n).getLsbD l
/-- A k register, and lane l of a v register, as they stand now. -/
def kNow (s : State) (n : Nat) : W64 := Sparse.get 0 s.cg.r.k n
def vNow (s : State) (n l : Nat) : W32 := Sparse.get 0 s.cg.r.v (64 * n + l)

/-- The k register that a scalar instruction writes. -/
def kDest : Instr → Option KReg
  | .kmov d _ | .kmovi d _ | .khi d _ | .kadd _ d _ _ | .kaddi d _ _ | .ksub _ d _ _ | .kmul _ d _ _ | .kmulh d _ _ _ | .kmad _ d _ _
  | .kdivs d _ _ | .kand d _ _ | .kor d _ _ | .kxor d _ _ | .knot d _ | .kshl _ d _ _ | .kshr _ d _ _ | .ksar _ d _ _ | .krot _ d _ _
  | .kandImm d _ _ | .korImm d _ _ | .kxorImm d _ _ | .kshlImm _ d _ _ | .kshrImm _ d _ _ | .ksarImm _ d _ _ | .krotImm _ d _ _
  | .kmin _ d _ _ _ | .kmax _ d _ _ _ | .kcmp _ d _ _ _ | .ksel d _ _ _ | .kpopc _ d _ | .kclz _ d _ | .kctz _ d _ | .kbfe _ d _ _ _
  | .kbfi d _ _ _ | .krfl _ d _ | .krdl _ d _ _ | .krds d _ | .kmovp d _ => some d
  | _ => none

/-- The next state differs from `s` only in pD, whose lanes below VL that `w` names take `f` and keep their values elsewhere; a write to p0
changes nothing. -/
def WritesP (s t : State) (d : Nat) (w : Nat → Bool) (f : Nat → Bool) : Prop :=
  (∀ l < s.vl, pNow t d l = if d ≠ 0 ∧ w l = true then f l else pNow s d l) ∧
  (∀ n, n ≠ d → ∀ l, pNow t n l = pNow s n l) ∧
  (d = 0 → t = s) ∧
  (∀ key, key ≠ s.cur.grp → t.group key = s.group key) ∧
  { t.cg with r := { t.cg.r with p := s.cg.r.p } } = s.cg ∧ { t with groups := s.groups } = s

end Sys2Proof.Rule

/-- For every state and register: PAND, POR and PXOR write lane l of pD, for the lanes l of the issuing split's mask below VL,
with the operation on the possibly inverted lanes of pA and pB, PNOT with the inverse of pA, PMOVK with bit l of kA. Every other
lane, every other register and the rest of the machine stay, and a write to p0 changes nothing. KMOVP writes kD with bit l equal
to pA[l] for the lanes of the mask and 0 elsewhere. A word whose predicate field has bits [5:4] not 0 is rejected with reason
0x2007; PAND, POR, PXOR and PNOT are of latency class 0, PMOVK and KMOVP of class 2. -/
def Obligations.PredicateInstructions : Prop :=
  (∀ (s : State) (d a b : PReg) (kd ka : KReg) (na nb : Bool),
    (∃ t, exec (.pand d a b na nb) s = .next t ∧
      Rule.WritesP s t d (bitOf s.mask) fun l => (Rule.pRead s a l != na) && (Rule.pRead s b l != nb)) ∧
    (∃ t, exec (.por d a b na nb) s = .next t ∧
      Rule.WritesP s t d (bitOf s.mask) fun l => (Rule.pRead s a l != na) || (Rule.pRead s b l != nb)) ∧
    (∃ t, exec (.pxor d a b na nb) s = .next t ∧
      Rule.WritesP s t d (bitOf s.mask) fun l => (Rule.pRead s a l != na) != (Rule.pRead s b l != nb)) ∧
    (∃ t, exec (.pnot d a) s = .next t ∧ Rule.WritesP s t d (bitOf s.mask) fun l => !Rule.pRead s a l) ∧
    (∃ t, exec (.pmovk d ka) s = .next t ∧ Rule.WritesP s t d (bitOf s.mask) fun l => (s.k ka).getLsbD l) ∧
    (∃ x : W64, exec (.kmovp kd a) s = .next (s.setK kd x) ∧
      ∀ l < 64, x.getLsbD l = (decide (l < s.vl) && bitOf s.mask l && Rule.pRead s a l)) ∧
    latClass (.pand d a b na nb) = some 0 ∧ latClass (.por d a b na nb) = some 0 ∧ latClass (.pxor d a b na nb) = some 0 ∧
    latClass (.pnot d a) = some 0 ∧ latClass (.pmovk d ka) = some 2 ∧ latClass (.kmovp kd a) = some 2) ∧
  (∀ (kd : CoreKind) (op d a b x : Nat), d < 64 → a < 64 → b < 64 → x < 4 →
    let word := op * 2 ^ 26 + d * 2 ^ 18 + a * 2 ^ 12
    ((op = 0x27 ∨ op = 0x28 ∨ op = 0x29) → (16 ≤ d ∨ 16 ≤ a ∨ 16 ≤ b) →
      decodeSlot kd 1 (word + b * 2 ^ 6 + x) = .error 0x2007) ∧
    (op = 0x2A → (16 ≤ d ∨ 16 ≤ a) → decodeSlot kd 1 word = .error 0x2007) ∧
    (op = 0x2B → 16 ≤ d → decodeSlot kd 1 word = .error 0x2007) ∧
    (op = 0x2C → 16 ≤ a → decodeSlot kd 1 word = .error 0x2007))

/-- For every state and register KRDS answers a next state that differs by one write of kD, with the value of the register: %group
the index of the group, %gang the GIDX of its record, %core and %die the unit and die of the core, %tx and %ty the mesh position
on a tile and 0 on a shading core, %vl 32 or 64, %smask the split's mask, %sid the sidereal count of the cycle of issue, %cyc and
%timer what was saved plus the resident cycles since, %ckpt the restart address of a tile and 0 on a shading core, %nmode its FZ16
bit, %srseed the last seed base, the trap registers of the split (%tvec of the group), %ctxid the context number and %thrn,
%thrwin, %thrpin the context's; %lane the lowest lane of a mask that has one. -/
def Obligations.SpecialRegistersRead : Prop :=
  ∀ (s : State) (d : KReg),
    let reads := fun (n : Fin 64) (x : Nat) => exec (.krds d n) s = .next (s.setK d (BitVec.ofNat 64 x))
    let tile := s.kind = .tensor
    (∀ l < s.vl, bitOf s.mask l = true → (∀ j < l, bitOf s.mask j = false) → reads 0x00 l) ∧
    reads 0x01 s.rg.idx ∧ reads 0x02 (ofLE ((s.gg.rec_.drop 0x14).take 4)) ∧
    reads 0x03 (s.src % 128) ∧ reads 0x04 (s.src / 128) ∧
    (tile → reads 0x05 (tileX s.src) ∧ reads 0x06 (tileY s.src) ∧ reads 0x07 64 ∧ reads 0x0C s.rg.tile.ckpc) ∧
    (¬ tile → reads 0x05 0 ∧ reads 0x06 0 ∧ reads 0x07 32 ∧ reads 0x0C 0) ∧
    reads 0x08 s.mask ∧ reads 0x09 (s.cycle * 20 / 21) ∧
    reads 0x0A (s.rg.cyc + (s.cycle - s.rg.since)) ∧ reads 0x0B (s.rg.timer + (s.cycle - s.rg.since)) ∧
    reads 0x0D (if s.rg.r.fz16 then 1 else 0) ∧ reads 0x0E s.rg.r.srseed.toNat ∧
    reads 0x10 s.rg.tvec ∧ reads 0x11 s.rsplit.tepc ∧ reads 0x12 s.rsplit.taddr ∧ reads 0x13 s.rsplit.tbad ∧
    reads 0x14 s.rsplit.tcause ∧ reads 0x20 s.gg.ctx ∧
    reads 0x21 s.cc.thrn.toNat ∧ reads 0x22 s.cc.thrwin.toNat ∧ reads 0x23 s.cc.thrpin.toNat

/-- For every state and register KWRS answers a next state that differs only in the register written: %nmode takes bit 0 of kB as
FZ16; %srseed takes kB as seed base and every lane of the group, active or not, its fresh seeded LFSR state, 32 steps from the mix
of seed, GIDX, group index and lane, with 1 in place of 0; %tvec of the group and %tepc of the split take kB with bits [4:0]
cleared; %thrn, %thrwin and %thrpin of the context take kB. The registers that R184 marks RO, and unassigned numbers, are not well
formed as a destination. -/
def Obligations.SpecialRegistersWritten : Prop :=
  (∀ (s : State) (b : KReg),
    let x := s.k b
    exec (.kwrs 0x0D b) s = .next (s.modR fun r => { r with fz16 := x.getLsbD 0 }) ∧
    (∃ m : Sparse W32, exec (.kwrs 0x0E b) s = .next (s.modR fun r => { r with srseed := x, lfsr := m }) ∧
      ∀ l < s.vl,
        let h := (x.toNat % 2 ^ 32) ^^^ (x.toNat / 2 ^ 32) ^^^ (ofLE ((s.gg.rec_.drop 0x14).take 4) * 0x9E3779B9 % 2 ^ 32) ^^^
          (s.rg.idx * 2 ^ 16 % 2 ^ 32) ^^^ l
        Sparse.get 0 m l = Rule.iter lfsrStep 32 (if h = 0 then 1 else BitVec.ofNat 32 h)) ∧
    exec (.kwrs 0x10 b) s = .next (s.modG fun g => { g with tvec := (x &&& ~~~31#64).toNat }) ∧
    exec (.kwrs 0x11 b) s = .next (s.modSplit fun p => { p with tepc := (x &&& ~~~31#64).toNat }) ∧
    exec (.kwrs 0x21 b) s = .next (s.setCtx s.gg.ctx { s.cc with thrn := x }) ∧
    exec (.kwrs 0x22 b) s = .next (s.setCtx s.gg.ctx { s.cc with thrwin := x }) ∧
    exec (.kwrs 0x23 b) s = .next (s.setCtx s.gg.ctx { s.cc with thrpin := x })) ∧
  (∀ x : W32, (x.getLsbD 0 = true → lfsrStep x = (x >>> 1) ^^^ 0x80200003#32) ∧
    (x.getLsbD 0 = false → lfsrStep x = x >>> 1)) ∧
  (∀ (kd : CoreKind) (m : SlotMap) (n : Fin 64) (b : KReg), wfSlot kd m (.kwrs n b) = true →
    n ∈ ([0x0D, 0x0E, 0x10, 0x11, 0x21, 0x22, 0x23] : List (Fin 64)))

/-- For every state and every scalar instruction with a destination kD (KMOV to KRDS and KMOVP in the table's order): when exec
answers a next state, register kD of the issuing group holds a value that its 64 bits replace as a whole, the poison mark of kD is
cleared, and every other k register, the v, p, t, f registers, accumulators, LFSR states and special registers, every other poison
mark, every split (pc, mask, stack, trap registers), every other group, every byte of memory and every other part of the state are
unchanged. -/
def Obligations.ScalarWritesOneRegister : Prop :=
  ∀ (i : Instr) (d : KReg) (s t : State), Rule.kDest i = some d → exec i s = .next t →
    (∃ x : W64, t = s.setK d x ∧ Rule.kNow t d = x) ∧
    (∀ n, n ≠ d.val → Rule.kNow t n = Rule.kNow s n) ∧
    (∀ w, w ∈ t.cg.poison ↔ w ∈ s.cg.poison ∧ w ≠ .k d) ∧
    { t.cg with r := { t.cg.r with k := s.cg.r.k }, poison := s.cg.poison } = s.cg ∧
    (∀ key, key ≠ s.cur.grp → t.group key = s.group key) ∧
    (∀ pa, t.byteAt pa = s.byteAt pa) ∧
    { t with groups := s.groups } = s

namespace Sys2Proof.Rule

/-- Element j of w bits of a lane, unsigned, and as a signed or unsigned integer (R235). -/
def el (w : Nat) (x : W32) (j : Nat) : Nat := x.toNat / 2 ^ (w * j) % 2 ^ w
def ei (w : Nat) (sg : Bool) (x : W32) (j : Nat) : Int :=
  if sg = true ∧ 2 ^ (w - 1) ≤ el w x j then (el w x j : Int) - 2 ^ w else (el w x j : Int)
/-- The clamp of R80. -/
def clamp (w : Nat) (sg : Bool) (x : Int) : Int :=
  if sg then max (-(2 ^ (w - 1) : Int)) (min (2 ^ (w - 1) - 1) x) else max 0 (min (2 ^ w - 1) x)
/-- A lane is active when it is in the split's mask and its predicate bit is 1 (R227). -/
def isActive (s : State) (p : LPred) (l : Nat) : Bool := decide (l < s.vl) && bitOf s.mask l && pRead s p l

/-- The next state differs from `s` only in the lanes of vD that `w` names, which take `f`, and in their poison marks, which a clean write
clears (R25). -/
def WritesV (s t : State) (d : Nat) (w : Nat → Bool) (f : Nat → W32) : Prop :=
  (∀ l < 64, vNow t d l = if w l = true then f l else vNow s d l) ∧
  (∀ n, n ≠ d → ∀ l < 64, vNow t n l = vNow s n l) ∧
  (∀ m, m ∈ t.cg.poison ↔ m ∈ s.cg.poison ∧ ∀ l < 64, w l = true → m ≠ .v d l) ∧
  (∀ key, key ≠ s.cur.grp → t.group key = s.group key) ∧
  { t.cg with r := { t.cg.r with v := s.cg.r.v }, poison := s.cg.poison } = s.cg ∧ { t with groups := s.groups } = s

/-- The instruction completes, and it writes the active lanes of vD, lane l with a value of which `P l` holds, and nothing else. -/
def VecOp (i : Instr) (s : State) (p : LPred) (d : VReg) (P : Nat → W32 → Prop) : Prop :=
  ∃ t f, exec i s = .next t ∧ WritesV s t d (isActive s p) f ∧ ∀ l, isActive s p l = true → P l (f l)

end Sys2Proof.Rule

/-- For every state, lane type, register and predicate: VADD, VSUB, VMUL and VMAD form the exact sum, difference, product or
product plus element of vD of the signed or unsigned elements and clamp it (SAT) or take it modulo 2^w; VNEG and VABS likewise the
negative and the magnitude; VMULH takes bits 2w − 1 to w of the product, VMIN and VMAX the lesser and greater element; VSHL, VSHR
and VSAR shift by the low log2(w) bits of the element of B, filling with zeros or the sign bit. Each completes, writes the active
lanes of vD and changes nothing else: no flag, no trap. U = 1 with U32 is accepted and changes nothing. -/
def Obligations.VectorIntegerElements : Prop :=
  ∀ (s : State) (t : IntType) (t' : SIntType) (sat u : Bool) (p : LPred) (d a : VReg) (b : VK),
    let w := t.bits
    let sg := decide (t ≠ .u32) && !u
    let x := fun l j => Rule.ei w sg (s.v a l) j
    let y := fun l j => Rule.ei w sg (s.vk b l) j
    let z := fun l j => Rule.ei w sg (s.v d l) j
    let fin := fun r : Int => (if sat then Rule.clamp w sg r else r) % 2 ^ w
    let each := fun (r : Nat → Nat → Int) (l : Nat) (v : W32) => ∀ j < 32 / w, (Rule.el w v j : Int) = r l j
    let n := fun l j => Rule.el w (s.vk b l) j % w
    let w' := t'.bits
    let each' := fun (r : Int → Int) (l : Nat) (v : W32) =>
      ∀ j < 32 / w', (Rule.el w' v j : Int) =
        (if sat then Rule.clamp w' true (r (Rule.ei w' true (s.v a l) j)) else r (Rule.ei w' true (s.v a l) j)) % 2 ^ w'
    Rule.VecOp (.vadd t sat u p d a b) s p d (each fun l j => fin (x l j + y l j)) ∧
    Rule.VecOp (.vsub t sat u p d a b) s p d (each fun l j => fin (x l j - y l j)) ∧
    Rule.VecOp (.vmul t sat u p d a b) s p d (each fun l j => fin (x l j * y l j)) ∧
    Rule.VecOp (.vmad t sat u p d a b) s p d (each fun l j => fin (x l j * y l j + z l j)) ∧
    Rule.VecOp (.vneg t' sat p d a) s p d (each' fun e => 0 - e) ∧
    Rule.VecOp (.vabs t' sat p d a) s p d (each' fun e => (e.natAbs : Int)) ∧
    Rule.VecOp (.vmulh t u p d a b) s p d (each fun l j => x l j * y l j / 2 ^ w % 2 ^ w) ∧
    Rule.VecOp (.vmin t u p d a b) s p d (each fun l j => min (x l j) (y l j) % 2 ^ w) ∧
    Rule.VecOp (.vmax t u p d a b) s p d (each fun l j => max (x l j) (y l j) % 2 ^ w) ∧
    Rule.VecOp (.vshl t p d a b) s p d (each fun l j => Rule.el w (s.v a l) j * 2 ^ n l j % 2 ^ w) ∧
    Rule.VecOp (.vshr t p d a b) s p d (each fun l j => Rule.el w (s.v a l) j / 2 ^ n l j) ∧
    Rule.VecOp (.vsar t p d a b) s p d (each fun l j => Rule.ei w true (s.v a l) j / 2 ^ n l j % 2 ^ w) ∧
    (∀ (kd : CoreKind) (i : Instr), i ∈ [.vadd .u32 sat true p d a b, .vsub .u32 sat true p d a b, .vmul .u32 sat true p d a b,
        .vmad .u32 sat true p d a b, .vmulh .u32 true p d a b, .vmin .u32 true p d a b, .vmax .u32 true p d a b] →
      ∃ word, encode i = some word ∧ decodeSlot kd 2 word = .ok i)

/-- For every state, register and predicate: VAND, VOR and VXOR combine all 32 bits of vA and B and VNOT inverts vA; VBFE and VBFI
take pos from b[4:0] and len from b[13:8], no more than 32 − pos, of lane l of B, VBFE extracting the field zero- or sign-extended
(0 for a len of 0), VBFI replacing bits pos to pos + len − 1 of vD by the low bits of vA; VPOPC writes the number of 1 bits of
each element, VCLZ the number of leading 0 bits (w for 0). Each completes, writes the active lanes of vD and changes nothing else.
-/
def Obligations.VectorLogicAndBits : Prop :=
  ∀ (s : State) (t : IntType) (e : Bool) (p : LPred) (d a : VReg) (b : VK),
    let bits := fun (r : Nat → Nat → Bool) (l : Nat) (v : W32) => ∀ i < 32, v.getLsbD i = r l i
    let pos := fun l => (s.vk b l).toNat % 32
    let len := fun l => min ((s.vk b l).toNat / 2 ^ 8 % 64) (32 - pos l)
    let w := t.bits
    Rule.VecOp (.vand p d a b) s p d (bits fun l i => (s.v a l).getLsbD i && (s.vk b l).getLsbD i) ∧
    Rule.VecOp (.vor p d a b) s p d (bits fun l i => (s.v a l).getLsbD i || (s.vk b l).getLsbD i) ∧
    Rule.VecOp (.vxor p d a b) s p d (bits fun l i => (s.v a l).getLsbD i != (s.vk b l).getLsbD i) ∧
    Rule.VecOp (.vnot p d a) s p d (bits fun l i => !(s.v a l).getLsbD i) ∧
    Rule.VecOp (.vbfe e p d a b) s p d (bits fun l i =>
      if i < len l then (s.v a l).getLsbD (pos l + i)
      else e && decide (0 < len l) && (s.v a l).getLsbD (pos l + len l - 1)) ∧
    Rule.VecOp (.vbfi p d a b) s p d (bits fun l i =>
      if pos l ≤ i ∧ i < pos l + len l then (s.v a l).getLsbD (i - pos l) else (s.v d l).getLsbD i) ∧
    Rule.VecOp (.vpopc t p d a) s p d (fun l v => ∀ j < 32 / w,
      Rule.el w v j = ((List.range w).map fun i => bit ((s.v a l).getLsbD (w * j + i))).sum) ∧
    Rule.VecOp (.vclz t p d a) s p d (fun l v => ∀ j < 32 / w,
      let n := Rule.el w v j
      n ≤ w ∧ (∀ i, w - n ≤ i → i < w → (s.v a l).getLsbD (w * j + i) = false) ∧
        (n < w → (s.v a l).getLsbD (w * j + (w - 1 - n)) = true))

/-- For every state, register and predicate: VCMP writes the active lanes of pD with the condition of its code between lane l of
vA and of B, signed or unsigned; VFCMP with the F32 comparison (its value order, in which −0 equals +0, .NE and .UN true and every
other condition false when an operand is NaN, .OR true when none is). VSEL writes vA or B, by p[P], in every lane of the split's
mask; VMOV writes B, VMOVI its immediate by kind, VMOV from an accumulator the word of the named half, in the active lanes. Each
completes and changes nothing else; a compare into p0 changes nothing. -/
def Obligations.VectorCompareSelectMove : Prop :=
  ∀ (s : State) (u hi : Bool) (p : LPred) (pd : PReg) (d a : VReg) (b : VK) (acc : AReg) (i : BitVec 13),
    let cmp := fun (ins : Instr) (f : Nat → Bool) => ∃ t, exec ins s = .next t ∧ Rule.WritesP s t pd (Rule.isActive s p) f
    let x := fun l => Rule.ei 32 (!u) (s.v a l) 0
    let y := fun l => Rule.ei 32 (!u) (s.vk b l) 0
    cmp (.vcmp u .eq p pd a b) (fun l => decide (x l = y l)) ∧ cmp (.vcmp u .ne p pd a b) (fun l => decide (x l ≠ y l)) ∧
    cmp (.vcmp u .lt p pd a b) (fun l => decide (x l < y l)) ∧ cmp (.vcmp u .le p pd a b) (fun l => decide (x l ≤ y l)) ∧
    cmp (.vcmp u .gt p pd a b) (fun l => decide (y l < x l)) ∧ cmp (.vcmp u .ge p pd a b) (fun l => decide (y l ≤ x l)) ∧
    (let lt := fun (m n : W32) => Val.lt false (f32.decode m.toNat) (f32.decode n.toNat)
     let un := fun l => decide (f32.decode (s.v a l).toNat = .nan) || decide (f32.decode (s.vk b l).toNat = .nan)
     let less := fun l => lt (s.v a l) (s.vk b l)
     let more := fun l => lt (s.vk b l) (s.v a l)
     cmp (.vfcmp .eq p pd a b) (fun l => !un l && !less l && !more l) ∧
     cmp (.vfcmp .ne p pd a b) (fun l => un l || less l || more l) ∧
     cmp (.vfcmp .lt p pd a b) (fun l => !un l && less l) ∧ cmp (.vfcmp .le p pd a b) (fun l => !un l && !more l) ∧
     cmp (.vfcmp .gt p pd a b) (fun l => !un l && more l) ∧ cmp (.vfcmp .ge p pd a b) (fun l => !un l && !less l) ∧
     cmp (.vfcmp .un p pd a b) un ∧ cmp (.vfcmp .ord p pd a b) (fun l => !un l)) ∧
    (∃ t, exec (.vsel p d a b) s = .next t ∧
      Rule.WritesV s t d (fun l => decide (l < s.vl) && bitOf s.mask l)
        fun l => if Rule.pRead s p l then s.v a l else s.vk b l) ∧
    Rule.VecOp (.vmov p d b) s p d (fun l v => v = s.vk b l) ∧
    Rule.VecOp (.vmovAcc p d hi acc) s p d
      (fun l v => v = s.rg.r.acc.get (128 * acc.val + 64 * (if hi then 1 else 0) + l)) ∧
    Rule.VecOp (.vmovi .sx p d i) s p d (fun _ v => v = BitVec.ofInt 32 i.toInt) ∧
    Rule.VecOp (.vmovi .t32 p d i) s p d (fun _ v => v.toNat = i.toNat * 2 ^ 19) ∧
    Rule.VecOp (.vmovi .t16 p d i) s p d (fun _ v => v.toNat = i.toNat * 2 ^ 19 + i.toNat * 2 ^ 3)

namespace Sys2Proof.Rule

/-- The number a finite value stands for. -/
def num : Val → Option Rat
  | .fin neg m e => some ((if neg then -1 else 1) * (m : Rat) * (2 : Rat) ^ e)
  | _ => none
/-- The absolute value of a rational. -/
def absR (x : Rat) : Rat := if x < 0 then -x else x
/-- The largest finite magnitude of a format. -/
def largest (f : Fmt) : Rat := (num (f.decode f.maxCode)).getD 0

/-- `c` is the code that rounding the number `x` into one of F32, F16 and BF16 gives (R89, R90); `neg` is the sign that a zero result takes. -/
def Rounds (f : Fmt) (r : RM) (neg : Bool) (x : Rat) (c : Nat) : Prop :=
  match f.decode c with
  | .nan => False
  | .inf s => match r with
    | .rne => s = decide (x < 0) ∧ ∃ h, num (f.decode (f.maxCode - 1)) = some h ∧ 2 * largest f + (largest f - h) ≤ 2 * absR x
    | .rtz => False
    | .rdn => s = true ∧ x < -largest f
    | .rup => s = false ∧ largest f < x
  | .fin s m e =>
    let y := (if s then -1 else 1) * (m : Rat) * (2 : Rat) ^ e
    let finite := fun z : Rat => ∃ c', num (f.decode c') = some z
    (y = 0 → s = neg) ∧
    match r with
    | .rne => (∀ z, finite z → absR (x - y) ≤ absR (x - z)) ∧
        (∀ z, finite z → z ≠ y → absR (x - y) = absR (x - z) → c % 2 = 0) ∧
        (∀ h, num (f.decode (f.maxCode - 1)) = some h → 2 * absR x < 2 * largest f + (largest f - h))
    | .rtz => absR y ≤ absR x ∧ 0 ≤ x * y ∧ ∀ z, finite z → 0 ≤ x * z → absR z ≤ absR x → absR z ≤ absR y
    | .rdn => y ≤ x ∧ ∀ z, finite z → z ≤ x → z ≤ y
    | .rup => x ≤ y ∧ ∀ z, finite z → x ≤ z → y ≤ z

/-- FZ16 applies to 16-bit arithmetic while %nmode holds it (R83, R244). -/
def fz (s : State) (t : FltType) : Bool := decide (t ≠ .f32) && s.rg.r.fz16
/-- A code with a subnormal flushed to the zero of its sign, when FZ16 applies (R83). -/
def flushed (z : Bool) (f : Fmt) (c : Nat) : Nat :=
  if z = true ∧ c / 2 ^ f.m % 2 ^ f.e = 0 then c / 2 ^ (f.e + f.m) * 2 ^ (f.e + f.m) else c
/-- The value of element j of a lane under FZ16. -/
def fv (z : Bool) (f : Fmt) (x : W32) (j : Nat) : Val := f.decode (flushed z f (el f.width x j))

end Sys2Proof.Rule

/-- For each of F32, F16 and BF16, each of the four rounding modes and every finite value (sign, mantissa, exponent, of any size):
the code that the model's rounding gives is the one R89 and R90 name. Under RDN and RUP it is the greatest finite number not above
and the least not below the value, under RTZ the greatest magnitude not above it, under RNE a nearest finite number, with mantissa
LSB 0 on a tie; a magnitude at or above half a step beyond the largest finite one under RNE, or beyond the largest one where the
mode rounds away, gives the infinity of its sign; a zero result keeps the sign of the value; the result is never NaN. -/
def Obligations.RoundingIsCorrect : Prop :=
  ∀ (f : Fmt) (r : RM) (neg : Bool) (m : Nat) (e : Int), f ∈ [f32, f16, bf16] →
    encode f (.det r) (.fin neg m e) < 2 ^ f.width ∧
    ∀ x, Rule.num (.fin neg m e) = some x → Rule.Rounds f r neg x (encode f (.det r) (.fin neg m e))

/-- For all values: the sum and product of two finite values is the finite value whose number is the sum and product of theirs; an
exact zero sum is +0, or −0 under RDN, but (−0) + (−0) is −0; a product's sign is the XOR of the signs; Inf − Inf and 0 × Inf are
NaN, NaN operands give NaN, an infinity added to a finite value or multiplied by one that is not 0 stays an infinity of the proper
sign. -/
def Obligations.ExactSumsAndProducts : Prop :=
  ∀ (rdn sa sb : Bool) (ma mb : Nat) (ea eb : Int) (v : Val),
    let a := Val.fin sa ma ea
    let b := Val.fin sb mb eb
    (∀ x y, Rule.num a = some x → Rule.num b = some y →
      Rule.num (Val.add rdn a b) = some (x + y) ∧ Rule.num (Val.mul a b) = some (x * y) ∧
      (x + y = 0 → ∃ e, Val.add rdn a b = .fin (if ma = 0 ∧ mb = 0 ∧ sa = sb then sa else rdn) 0 e) ∧
      (∃ m e, Val.mul a b = .fin (sa != sb) m e)) ∧
    Val.add rdn (.inf sa) (.inf sb) = (if sa = sb then .inf sa else .nan) ∧ Val.add rdn (.inf sa) b = .inf sa ∧
    Val.add rdn a (.inf sb) = .inf sb ∧ Val.add rdn .nan v = .nan ∧ Val.add rdn v .nan = .nan ∧
    Val.mul (.inf sa) (.inf sb) = .inf (sa != sb) ∧ Val.mul (.inf sa) b = (if mb = 0 then .nan else .inf (sa != sb)) ∧
    Val.mul a (.inf sb) = (if ma = 0 then .nan else .inf (sa != sb)) ∧ Val.mul .nan v = .nan ∧ Val.mul v .nan = .nan

/-- For every state, float lane type, mode, register and predicate: each element of VFADD, VFSUB, VFMUL, VFMA, VFMS and VFDIVS is
the exact sum, difference, product, product plus or minus the element of vD, or quotient, rounded once in mode M; VFMIN and VFMAX
choose the lesser or greater code, −0 below +0, the other operand of a single NaN, the canonical NaN of two; VFRND rounds to an
integral value keeping the sign of a zero; VFCLASS sets the one bit of the element's class as encoded. FZ16 flushes subnormal
inputs and results of 16-bit types (not of VFCLASS). VFTWOS and VFTWOP write the pair vD, vD+1 with the RNE sum or product and the
rounded remainder, +0 where that is zero or the high word is not finite. Each completes and changes nothing but the active lanes.
-/
def Obligations.VectorFloatArithmetic : Prop :=
  ∀ (s : State) (t : FltType) (r : RM) (p : LPred) (d a : VReg) (b : VK),
    let f := t.fmt
    let z := Rule.fz s t
    let x := fun l j => Rule.fv z f (s.v a l) j
    let y := fun l j => Rule.fv z f (s.vk b l) j
    let w := fun l j => Rule.fv z f (s.v d l) j
    let each := fun (c : Nat → Nat → Nat) (l : Nat) (v : W32) => ∀ j < 32 / f.width, Rule.el f.width v j = c l j
    let round := fun (q : Nat → Nat → Val) => each fun l j => Rule.flushed z f (encode f (.det r) (q l j))
    let rdn := decide (r = .rdn)
    let code := fun (v : W32) j => Rule.flushed z f (Rule.el f.width v j)
    let pick := fun (first : Val → Val → Bool) => each fun l j =>
      if x l j = .nan then (if y l j = .nan then f.nanCode else code (s.vk b l) j)
      else if y l j = .nan then code (s.v a l) j
      else if first (x l j) (y l j) then code (s.vk b l) j else code (s.v a l) j
    Rule.VecOp (.vfadd t r p d a b) s p d (round fun l j => Val.add rdn (x l j) (y l j)) ∧
    Rule.VecOp (.vfsub t r p d a b) s p d (round fun l j => Val.add rdn (x l j) (y l j).neg) ∧
    Rule.VecOp (.vfmul t r p d a b) s p d (round fun l j => Val.mul (x l j) (y l j)) ∧
    Rule.VecOp (.vfma t r p d a b) s p d (round fun l j => Val.add rdn (Val.mul (x l j) (y l j)) (w l j)) ∧
    Rule.VecOp (.vfms t r p d a b) s p d (round fun l j => Val.add rdn (Val.mul (x l j) (y l j)) (w l j).neg) ∧
    Rule.VecOp (.vfdivs t r p d a b) s p d (round fun l j => Val.div (x l j) (y l j)) ∧
    Rule.VecOp (.vfmin t p d a b) s p d (pick fun u v => Val.lt true v u) ∧
    Rule.VecOp (.vfmax t p d a b) s p d (pick fun u v => Val.lt true u v) ∧
    Rule.VecOp (.vfrnd t r p d a) s p d (round fun l j => rndVal (.det r) (x l j)) ∧
    Rule.VecOp (.vfclass t p d a) s p d (each fun l j =>
      let c := Rule.el f.width (s.v a l) j
      let sub := decide (c / 2 ^ f.m % 2 ^ f.e = 0)
      match f.decode c with
      | .nan => 2 ^ 8
      | .inf n => if n then 2 ^ 0 else 2 ^ 7
      | .fin n m _ => if m = 0 then (if n then 2 ^ 3 else 2 ^ 4) else if sub then (if n then 2 ^ 2 else 2 ^ 5)
        else (if n then 2 ^ 1 else 2 ^ 6)) ∧
    (let pair := fun (ins : Instr) (q : Nat → Val) => ∃ u t' g h, exec ins s = .next t' ∧
        Rule.WritesV s u d (Rule.isActive s p) g ∧ Rule.WritesV u t' (d.val + 1) (Rule.isActive s p) h ∧
        ∀ l, Rule.isActive s p l = true → (g l).toNat = encode f32 (.det .rne) (q l) ∧
          match f32.decode (g l).toNat with
          | .fin n m e =>
            let lo := encode f32 (.det .rne) (Val.add false (q l) (.fin (!n) m e))
            (h l).toNat = if lo = 2 ^ 31 then 0 else lo
          | _ => h l = 0
     pair (.vftwos p d a b) (fun l => Val.add false (f32.decode (s.v a l).toNat) (f32.decode (s.vk b l).toNat)) ∧
     pair (.vftwop p d a b) (fun l => Val.mul (f32.decode (s.v a l).toNat) (f32.decode (s.vk b l).toNat)))

/-- For every state, float lane type, mode, register and predicate: VFRCP, VFRSQ, VFEXP2 and VFLOG2 write each element of the
active lanes of vD with the value of the function of the element (under FZ16 for 16-bit types), rounded once, and change nothing
else. The special values are those of the table of R242 (the quotient gives Inf of its sign at a zero and a zero of its sign at an
infinity); 2 to an integral power is that power of two (up to 2^12 in magnitude) and log2 of a power of two is its exponent, both
exactly. That the value returned for other arguments is close enough to the exact one to round as it does is the model's reading
(correct rounding by a series), not part of this statement. -/
def Obligations.VectorElementaryFunctions : Prop :=
  (∀ (s : State) (t : FltType) (r : RM) (p : LPred) (d a : VReg),
    let f := t.fmt
    let z := Rule.fz s t
    let each := fun (g : Val → Val) (l : Nat) (v : W32) => ∀ j < 32 / f.width,
      Rule.el f.width v j = Rule.flushed z f (encode f (.det r) (g (Rule.fv z f (s.v a l) j)))
    Rule.VecOp (.vfrcp t r p d a) s p d (each rcpVal) ∧ Rule.VecOp (.vfrsq t r p d a) s p d (each rsqVal) ∧
    Rule.VecOp (.vfexp2 t r p d a) s p d (each exp2Of) ∧ Rule.VecOp (.vflog2 t r p d a) s p d (each log2Of)) ∧
  (∀ (n : Bool) (m : Nat) (e : Int), m ≠ 0 →
    rcpVal .nan = .nan ∧ rsqVal .nan = .nan ∧ exp2Of .nan = .nan ∧ log2Of .nan = .nan ∧
    Rule.num (rcpVal (.inf n)) = some 0 ∧ (∃ q k, rcpVal (.inf n) = .fin n q k) ∧
    rsqVal (.inf true) = .nan ∧ Rule.num (exp2Of (.inf true)) = some 0 ∧ log2Of (.inf true) = .nan ∧
    rsqVal (.fin true m e) = .nan ∧ log2Of (.fin true m e) = .nan ∧
    rcpVal (.fin n 0 e) = .inf n ∧ rsqVal (.fin n 0 e) = .inf n ∧ Rule.num (exp2Of (.fin n 0 e)) = some 1 ∧
    log2Of (.fin n 0 e) = .inf true ∧
    Rule.num (rsqVal (.inf false)) = some 0 ∧ exp2Of (.inf false) = .inf false ∧ log2Of (.inf false) = .inf false) ∧
  (∀ (n : Bool) (m k : Nat) (e : Int), (m : Int) < 2 ^ 12 →
    Rule.num (exp2Of (.fin n m 0)) = some ((2 : Rat) ^ (if n then -(m : Int) else (m : Int))) ∧
    Rule.num (log2Of (.fin false (2 ^ k) e)) = some (((k : Int) + e : Int) : Rat))

namespace Sys2Proof.Rule

/-- The rounding of element i that a lane converts: its mode, or under SR the draw of the lane's LFSR state stepped i times (R91, R251). -/
def rounding (r : RMode) (st : W32) (i : Nat) : Rnd :=
  match r with
  | .det m => .det m
  | .sr => .sr ((iter lfsrStep i st).toNat / 2 ^ 8)

/-- The instruction completes; it writes the lanes of vD that `act` names, lane l with a value of which `P l` holds under the roundings of
its elements, steps the LFSR of each such lane once for each of its n elements under SR, and changes nothing else. -/
def ConvOp (i : Instr) (s : State) (act : Nat → Bool) (d : VReg) (r : RMode) (n : Nat) (P : Nat → W32 → (Nat → Rnd) → Prop) : Prop :=
  ∃ u t f, exec i s = .next t ∧ WritesV s u d act f ∧
    (∀ l, act l = true → P l (f l) (rounding r (Sparse.get 0 s.cg.r.lfsr l))) ∧
    (∀ l, Sparse.get 0 t.cg.r.lfsr l =
      if r = .sr ∧ act l = true then iter lfsrStep n (Sparse.get 0 s.cg.r.lfsr l) else Sparse.get 0 s.cg.r.lfsr l) ∧
    { t.cg with r := { t.cg.r with lfsr := u.cg.r.lfsr } } = u.cg ∧ (∀ key, key ≠ s.cur.grp → t.group key = u.group key) ∧
    { t with groups := u.groups } = u

/-- The float format of a lane type; F8x4 takes the record of f0 (R246). -/
def fmtOf (f0 : W32) : LaneType → Option Fmt
  | .f32 => some f32 | .f16x2 => some f16 | .bf16x2 => some bf16 | .f8x4 => some (fmtOfRecord f0.toNat) | _ => none

/-- Cvt of one element: the four rows of R247; `x` is the source code, the result a code of the destination. -/
def cvt (f0 : W32) (dst src : LaneType) (mo : Rnd) (x : Nat) : Nat :=
  let n : Int := if src ≠ .u32 ∧ 2 ^ (src.bits - 1) ≤ x then (x : Int) - 2 ^ src.bits else (x : Int)
  match fmtOf f0 src, fmtOf f0 dst with
  | some a, some b => Machine.encode b mo (a.decode x)
  | some a, none => (toInt dst.bits (decide (dst ≠ .u32)) mo (a.decode x) % 2 ^ dst.bits).toNat
  | none, some b => Machine.encode b mo (.fin (decide (n < 0)) n.natAbs 0)
  | none, none => (clamp dst.bits (decide (dst ≠ .u32)) n % 2 ^ dst.bits).toNat

/-- Bits of a lane that an element of a record takes (R248). -/
def recBits (rec_ : Nat) : Nat := if rec_ / 2 ^ 16 % 4 = 0 then 4 else 8

/-- The element format of VQMX and VDQMX, and the bits of a lane that an element takes (R249). -/
def mxFmt (s : State) : QFmt → Fmt × Nat
  | .e4m3 => (e4m3, 8) | .e5m2 => (e5m2, 8) | .e2m3 => (e2m3, 8) | .e3m2 => (e3m2, 8) | .e2m1 => (e2m1, 4)
  | .f1 => (fmtOfRecord (Sparse.get 0 s.rg.r.f 1).toNat, recBits (Sparse.get 0 s.rg.r.f 1).toNat)
  | .f2 => (fmtOfRecord (Sparse.get 0 s.rg.r.f 2).toNat, recBits (Sparse.get 0 s.rg.r.f 2).toNat)
  | .f3 => (fmtOfRecord (Sparse.get 0 s.rg.r.f 3).toNat, recBits (Sparse.get 0 s.rg.r.f 3).toNat)

/-- Every lane of the split's mask. -/
def inMask (s : State) (l : Nat) : Bool := decide (l < s.vl) && bitOf s.mask l

end Sys2Proof.Rule

/-- For every state, lane types, mode, position, register and predicate: VCVT converts every element of vA into the element of vD
of the same number; VCVTN writes the elements g·nS on of vD from the elements of vA and leaves the others of vD; VCVTW converts
the elements g·nD on of vA; each element by the row of R247 for its types. VCVTF encodes the w wide elements of vA into the narrow
elements g·w on of vD, leaving the others, or decodes narrow elements into the wide ones. The active lanes of vD are written and,
under SR, the LFSR of each takes one step an element, the draw of element i coming from the state stepped i times; nothing else
changes. -/
def Obligations.VectorConversions : Prop :=
  ∀ (s : State) (t c : LaneType) (r : RMode) (g : Fin 4) (p : LPred) (d a : VReg) (ft : FltType) (fr : FReg) (g8 : Fin 8),
    let act := Rule.isActive s p
    let f0 := Sparse.get 0 s.rg.r.f 0
    let nS := 32 / c.bits
    let nD := 32 / t.bits
    let one := fun (mo : Nat → Rnd) l (i k : Nat) => Rule.cvt f0 t c (mo i) (Rule.el c.bits (s.v a l) k) % 2 ^ t.bits
    (nS = nD → Rule.ConvOp (.vcvt t r c p d a) s act d r nS fun l v mo =>
      ∀ j < nD, Rule.el t.bits v j = one mo l j j) ∧
    (nS < nD → Rule.ConvOp (.vcvtn t r c g p d a) s act d r nS fun l v mo =>
      ∀ j < nD, Rule.el t.bits v j =
        if g.val * nS ≤ j ∧ j < g.val * nS + nS then one mo l (j - g.val * nS) (j - g.val * nS) else Rule.el t.bits (s.v d l) j) ∧
    (nD < nS → Rule.ConvOp (.vcvtw t r c g p d a) s act d r nD fun l v mo =>
      ∀ j < nD, Rule.el t.bits v j = one mo l j (g.val * nD + j)) ∧
    (let rec_ := (Sparse.get 0 s.rg.r.f fr.val).toNat
     let nf := fmtOfRecord rec_
     let nb := Rule.recBits rec_
     let wf := ft.fmt
     let w := 32 / wf.width
     (Rule.ConvOp (.vcvtf ft r fr false g8 p d a) s act d r w fun l v mo =>
       ∀ j < 32 / nb, Rule.el nb v j =
         if g8.val * w ≤ j ∧ j < g8.val * w + w
         then encode nf (mo (j - g8.val * w)) (wf.decode (Rule.el wf.width (s.v a l) (j - g8.val * w))) % 2 ^ nb
         else Rule.el nb (s.v d l) j) ∧
     (Rule.ConvOp (.vcvtf ft r fr true g8 p d a) s act d r w fun l v mo =>
       ∀ j < w, Rule.el wf.width v j = encode wf (mo j) (nf.decode (Rule.el nb (s.v a l) (g8.val * w + j))) % 2 ^ wf.width))

/-- For every state, element format, byte select, chunk that the format has and registers: VQMX takes blocks of 32 from the 2·VL
F32 values of vA, vA+1; for each lane l of the split's mask, a lane of vB in the range of the chunk's blocks takes the block's
scale code (R97) in byte s and keeps its other bytes, and a lane of vD in the chunk takes its elements, each rounded RNE or by the
lane's own LFSR draws in ascending order; the LFSR of such a lane steps once an element under SR; every other lane and register
stays (a vB equal to vD, whose writes overlap, leaves the same lanes). VDQMX writes value i of the chunk, the element of vA under
the scale byte of vB, rounded to F32, to lane i of vD or lane i − VL of vD+1. -/
def Obligations.VectorMxBlocks : Prop :=
  ∀ (s : State) (t : QFmt) (sb c : Fin 4) (d a x : VReg) (e : Bool),
    let q := Rule.mxFmt s t
    let n := 32 / q.2
    let base := c.val * (2 * s.vl)
    let src := fun i => f32.decode (if i < s.vl then s.v a i else s.v (a.val + 1) (i - s.vl)).toNat
    let blk := fun j => mxScale q.1 ((List.range 32).map fun i => src (32 * j + i))
    let r := if e then RMode.sr else RMode.det .rne
    let inChunk := fun l => Rule.inMask s l && decide (base ≤ l * n) && decide (l * n < base + 2 * s.vl)
    let inScale := fun l => Rule.inMask s l && decide (base / 32 ≤ l) && decide (l < base / 32 + 2 * s.vl / 32)
    (x ≠ d → c.val < n / 2 →
      ∃ t' : State, exec (.vqmx t sb c d a e x) s = .next t' ∧
        (∀ l < 64, inScale l = true → ∀ m < 4, Rule.el 8 (Rule.vNow t' x l) m =
          if m = sb.val then mxScaleCode (blk (l - base / 32)) % 2 ^ 8 else Rule.el 8 (Rule.vNow s x l) m) ∧
        (∀ l < 64, inScale l = false → Rule.vNow t' x l = Rule.vNow s x l) ∧
        (∀ l < 64, inChunk l = true → ∀ m < n, Rule.el q.2 (Rule.vNow t' d l) m =
          mxElem q.1 (Rule.rounding r (Sparse.get 0 s.cg.r.lfsr l) m) (blk ((l * n - base) / 32)) (src (l * n - base + m)) % 2 ^ q.2) ∧
        (∀ l < 64, inChunk l = false → Rule.vNow t' d l = Rule.vNow s d l) ∧
        (∀ k, k ≠ x.val → k ≠ d.val → ∀ l < 64, Rule.vNow t' k l = Rule.vNow s k l) ∧
        (∀ l, Sparse.get 0 t'.cg.r.lfsr l = if e = true ∧ inChunk l = true
          then Rule.iter lfsrStep n (Sparse.get 0 s.cg.r.lfsr l) else Sparse.get 0 s.cg.r.lfsr l) ∧
        { t'.cg with r := { t'.cg.r with v := s.cg.r.v, lfsr := s.cg.r.lfsr }, poison := s.cg.poison } = s.cg ∧
        { t' with groups := s.groups } = s) ∧
    (x = d → c.val < n / 2 →
      ∃ t' : State, exec (.vqmx t sb c d a e x) s = .next t' ∧
        (∀ l < 64, inScale l = false → inChunk l = false → Rule.vNow t' d l = Rule.vNow s d l) ∧
        (∀ k, k ≠ d.val → ∀ l < 64, Rule.vNow t' k l = Rule.vNow s k l)) ∧
    (let y := fun i =>
       let k := base + i
       BitVec.ofNat 32 (mxDecode q.1 f32 (.det (if e then .rtz else .rne)) (Rule.el q.2 (s.v a (k / n)) (k % n))
         (Rule.el 8 (s.v x (k / 32)) sb.val))
     ∃ u t', exec (.vdqmx t sb c d a e x) s = .next t' ∧ Rule.WritesV s u d (Rule.inMask s) y ∧
       Rule.WritesV u t' (d.val + 1) (Rule.inMask s) fun l => y (s.vl + l))

/-- For every state, register and predicate: VSHUF writes lane l with lane vB[l] mod VL of vA, VBCAST with lane kB mod VL, VBFLY
with lane l XOR (B[l] mod VL), and the immediate forms of vD rotated, exchanged by XOR (n below VL) or reversed; all read any
lane, active or not. VBALLOT writes the low or high word of the active lanes whose pA bit is 1, VACTIVE the rank, the count or a
word of the active set, in the active lanes of vD; VVOTE writes the active lanes of pD with whether pA is 1 in some, in every, or
in all or none of the active lanes. Each completes and changes nothing else. -/
def Obligations.VectorCrossLaneMoves : Prop :=
  ∀ (s : State) (p : LPred) (d a b : VReg) (k : KReg) (bb : VK) (n : Fin 64) (pa pd : PReg),
    let act := Rule.isActive s p
    let vl := s.vl
    let set := (List.range vl).filter act
    let on := set.filter fun l => Rule.pRead s pa l
    let word := fun (ls : List Nat) (lo : Nat) (v : W32) => ∀ i < 32, v.getLsbD i = decide (lo + i ∈ ls)
    let vote := fun (m : VoteKind) (x : Bool) => ∃ t, exec (.vvote m p pd pa) s = .next t ∧ Rule.WritesP s t pd act fun _ => x
    Rule.VecOp (.vshuf p d a b) s p d (fun l v => v = s.v a ((s.v b l).toNat % vl)) ∧
    Rule.VecOp (.vbcast p d a k) s p d (fun _ v => v = s.v a ((s.k k).toNat % vl)) ∧
    Rule.VecOp (.vbfly p d a bb) s p d (fun l v => v = s.v a (l ^^^ ((s.vk bb l).toNat % vl))) ∧
    Rule.VecOp (.vshufImm .rot p d n) s p d (fun l v => v = s.v d ((l + n.val) % vl)) ∧
    Rule.VecOp (.vshufImm .xor p d n) s p d (fun l v => v = s.v d (l ^^^ n.val)) ∧
    Rule.VecOp (.vshufImm .rev p d n) s p d (fun l v => v = s.v d (vl - 1 - l)) ∧
    Rule.VecOp (.vballot false p d pa) s p d (fun _ v => word on 0 v) ∧
    Rule.VecOp (.vballot true p d pa) s p d (fun _ v => word on 32 v) ∧
    Rule.VecOp (.vactive .rank p d) s p d (fun l v => v.toNat = (set.filter (· < l)).length) ∧
    Rule.VecOp (.vactive .count p d) s p d (fun _ v => v.toNat = set.length) ∧
    Rule.VecOp (.vactive .lo p d) s p d (fun _ v => word set 0 v) ∧
    Rule.VecOp (.vactive .hi p d) s p d (fun _ v => word set 32 v) ∧
    vote .any (decide (∃ l ∈ set, Rule.pRead s pa l = true)) ∧
    vote .all (decide (∀ l ∈ set, Rule.pRead s pa l = true)) ∧
    vote .uni (decide ((∀ l ∈ set, Rule.pRead s pa l = true) ∨ ∀ l ∈ set, Rule.pRead s pa l = false))

namespace Sys2Proof.Rule

/-- Level k of the butterfly of R102: the value of a block of 2^k lanes, the lower half on the left. -/
def tree (op : W32 → W32 → W32) (x : Nat → W32) : Nat → Nat → W32
  | 0, i => x i
  | k + 1, i => op (tree op x k (2 * i)) (tree op x k (2 * i + 1))
/-- Level k of the scan of R102: after the distances 1 to 2^(k − 1). -/
def scanAt (op : W32 → W32 → W32) (x : Nat → W32) : Nat → Nat → W32
  | 0, l => x l
  | k + 1, l => if 2 ^ k ≤ l then op (scanAt op x k (l - 2 ^ k)) (scanAt op x k l) else scanAt op x k l

/-- One application of a reduction (R253): integers wrap, compare by type or combine bits; floats round once or choose a code. -/
def redStep (t : RedType) (m : RM) (o : RedOp) (a b : W32) : W32 :=
  let x := f32.decode a.toNat
  let y := f32.decode b.toNat
  let pick := fun (second : Bool) => if x = .nan then (if y = .nan then 0x7FC00000#32 else b) else if y = .nan then a
    else if second then b else a
  match t, o with
  | .f32, .add => BitVec.ofNat 32 (Machine.encode f32 (.det m) (Val.add (decide (m = .rdn)) x y))
  | .f32, .min => pick (Val.lt true y x)
  | .f32, .max => pick (Val.lt true x y)
  | .f32, _ => a
  | _, .add => BitVec.ofNat 32 (a.toNat + b.toNat)
  | .u32, .min => if a.toNat ≤ b.toNat then a else b
  | .u32, .max => if a.toNat ≤ b.toNat then b else a
  | .i32, .min => if a.toInt ≤ b.toInt then a else b
  | .i32, .max => if a.toInt ≤ b.toInt then b else a
  | _, .and => a &&& b
  | _, .or => a ||| b
  | _, .xor => a ^^^ b
/-- The identity of an operation (R102). -/
def redId : RedType → RedOp → W32
  | .f32, .add => 0x80000000#32 | .f32, .min => 0x7F800000#32 | .f32, .max => 0xFF800000#32
  | .i32, .min => 0x7FFFFFFF#32 | .i32, .max => 0x80000000#32 | .u32, .min => 0xFFFFFFFF#32 | .u32, .max => 0
  | _, .and => 0xFFFFFFFF#32
  | _, _ => 0

end Sys2Proof.Rule

/-- For every state, reduction type with an operation it accepts, mode, register and predicate: the inactive lanes of vA enter as
the operation's identity; VRED writes to every active lane of vD the value of the butterfly tree, in which at each distance d a
lane combines with the lane d above it, the lower lane on the left; VSCAN writes to lane l its value after the scan in which, at
each distance 1, 2, 4 up to VL/2, every lane l ≥ d takes the value of lane l − d on the left. Each application rounds once in the
mode. Each completes and changes nothing else. -/
def Obligations.VectorReductions : Prop :=
  ∀ (s : State) (t : RedType) (m : RM) (o : RedOp) (p : LPred) (d a : VReg),
    (t = .f32 → o = .add ∨ o = .min ∨ o = .max) →
    let x := fun l => if Rule.isActive s p l then s.v a l else Rule.redId t o
    let levels := if s.kind = .tensor then 6 else 5
    Rule.VecOp (.vred t m o p d a) s p d (fun _ v => v = Rule.tree (Rule.redStep t m o) x levels 0) ∧
    Rule.VecOp (.vscan t m o p d a) s p d (fun l v => v = Rule.scanAt (Rule.redStep t m o) x levels l)

namespace Sys2Proof.Rule

/-- The address of a per-lane access: kA + SignExtend(vB[l]), or kA + kB + l × size (R196). -/
def addr (s : State) (a : KReg) (b : VK) (size l : Nat) : Nat :=
  match b with
  | .v n => ((((s.k a).toNat : Int) + (s.v n l).toInt) % 2 ^ 64).toNat
  | .k n => ((s.k a).toNat + (s.k n).toNat + l * size) % 2 ^ 64
/-- The address of a uniform access, and of row n of a tile, kB signed (R196). -/
def addrU (s : State) (a b : KReg) : Nat := ((s.k a).toNat + (s.k b).toNat) % 2 ^ 64
def addrRow (s : State) (a b : KReg) (n : Nat) : Nat := ((((s.k a).toNat : Int) + n * (s.k b).toInt) % 2 ^ 64).toNat

/-- An access passes the checks of R197: canonical, a multiple of `al`, and translated to `pa` on an ordinary page or window. -/
def Ok (s : State) (l va al : Nat) (op : AccOp) (pa : Nat) : Prop :=
  va < 2 ^ 52 ∧ va % al = 0 ∧ s.outcome { lane := l, va := va, op := op } = .ok pa false none

/-- The issuing split has nothing in flight: no asynchronous transfer, no wait, no held operation; results return at once; the job is not in
ordered mode; the group's kind is that of the core. -/
def Quiet (s : State) : Prop :=
  (∀ x ∈ s.rg.xfers, x.split ≠ s.cur.split) ∧ s.split.waits = [] ∧ s.replyLater = false ∧ s.cg.held = [] ∧ s.orderedHere = false ∧
  s.cg.kind = s.kind

/-- What the issuing split reads at a physical byte: on a tile the newest withheld store of its own that covers it (R33), else what its die
reads there (R30, R36). -/
def readByte (s : State) (pa : Nat) : Byte :=
  match s.kind with
  | .shading => s.dieByte s.die pa
  | .tensor => (((s.rg.tile.swb.filterMap fun e => match e with
      | .store q d _ _ _ => if q ≤ pa ∧ pa < q + d.length then some (d.getD (pa - q) 0) else none
      | _ => none).getLast?).getD (s.dieByte s.die pa))
/-- The little-endian number in n bytes that the split reads (R79), and its value under the load's extension (R193). -/
def readWord (s : State) (pa n : Nat) : Nat := ((List.range n).map fun i => (readByte s (pa + i)).toNat * 2 ^ (8 * i)).sum
def ext (sg : Bool) (n x : Nat) : Int := if sg = true ∧ 2 ^ (8 * n - 1) ≤ x then (x : Int) - 2 ^ (8 * n) else (x : Int)

/-- What a performed memory instruction may change beside its own results: the translation cache, the counts of the migration rule and the
absent-page notes of the context (R260, R261, R265), the clean host lines (R427), the copies of .RO loads (R201) and the sequence number.
The splits stand as before. -/
def MemFrame (s t : State) : Prop :=
  (∀ key, key ≠ s.cur.grp → t.group key = s.group key) ∧
  (∀ n, Sparse.get Split.zero t.cg.splits n = Sparse.get Split.zero s.cg.splits n) ∧
  t.seqNo = s.seqNo + 1 ∧
  { t with groups := s.groups, ctxs := s.ctxs, tlb := s.tlb, regions := s.regions, hostCopy := s.hostCopy, ro := s.ro, seqNo := s.seqNo,
           pend := s.pend } = s

/-- A load changes registers and poison marks only; memory and the waiting stores stay. -/
def LoadFrame (s t : State) : Prop :=
  MemFrame s t ∧ t.pend = s.pend ∧
  { t.cg with r := { t.cg.r with k := s.cg.r.k, v := s.cg.r.v, t := s.cg.r.t }, poison := s.cg.poison, splits := s.cg.splits } = s.cg

/-- One piece of a store as it leaves the split: lane, physical address, bytes, poison mark, scope of an STL. -/
structure Piece where
  lane : Nat
  pa : Nat
  data : List Byte
  bad : Bool
  stl : Option Scope

/-- A store leaves the split: on a shading core each piece waits for its line's merge step (R44), on a tile it enters the withholding buffer
in pieces of at most a line (R33, R207); registers and every byte of memory stay as they were. -/
def Stores (s t : State) (ps : List Piece) : Prop :=
  MemFrame s t ∧ (∀ pa, t.memByte pa = s.memByte pa) ∧
  match s.kind with
  | .shading =>
    t.pend = s.pend ++ (ps.filter fun x => paHasHome x.pa).map (fun x =>
      { time := s.sid, src := s.src, seq := s.seqNo + 1, lane := x.lane, pa := x.pa, data := x.data, poison := x.bad, grp := s.cur.grp,
        split := s.cur.split }) ∧
    { t.cg with splits := s.cg.splits } = s.cg
  | .tensor =>
    t.pend = s.pend ∧
    { t.cg with splits := s.cg.splits, tile := { t.cg.tile with swb := s.cg.tile.swb } } = s.cg ∧
    t.cg.tile.swb = s.cg.tile.swb ++ ps.flatMap fun x =>
      if x.data.length ≤ 64 then [SwbEnt.store x.pa x.data x.bad x.lane x.stl]
      else [SwbEnt.store x.pa (x.data.take 64) x.bad x.lane x.stl, SwbEnt.store (x.pa + 64) (x.data.drop 64) x.bad x.lane x.stl]

/-- The first n bytes of a number, lowest first (R79). -/
def bytes (n x : Nat) : List Byte := (List.range n).map fun i => BitVec.ofNat 8 (x / 2 ^ (8 * i))

end Sys2Proof.Rule

/-- For every state of either core kind in which the split is idle and every active lane's (or the uniform) access passes the
checks of R197 on an ordinary page or window: LD writes each active lane of vD (of vD and vD+1 for 8 bytes) with the little-endian
value of the bytes the split reads at the lane's translated address, zero- or sign-extended by width; LDU and LDA write kD with
the value extended to 64 bits (LDA at SYS scope drops the clean host lines first). On a shading core a loaded word that touches a
poisoned check unit is marked. Other lanes and registers, every byte of memory, waiting stores, splits and groups stay. -/
def Obligations.LoadsReadMemory : Prop :=
  (∀ (s : State) (w : MWidth) (h : Hint) (p : LPred) (d : VReg) (a : KReg) (b : VK) (pa : Nat → Nat),
    Rule.Quiet s → (h = .ro → s.ro = []) →
    (∀ l, Rule.isActive s p l = true →
      Rule.Ok s l (Rule.addr s a b w.bytes l) w.bytes (.load w.bytes h (.lane d l (decide (w = .d)) w.signed)) (pa l)) →
    ∃ t, exec (.ld w h p d a b) s = .next t ∧ Rule.LoadFrame s t ∧ t.cg.r.k = s.cg.r.k ∧ t.cg.r.t = s.cg.r.t ∧
      (∀ l, Rule.isActive s p l = true →
        let x := Rule.readWord s (pa l) w.bytes
        (w = .d → Rule.vNow t d l = BitVec.ofNat 32 x ∧ Rule.vNow t (d.val + 1) l = BitVec.ofNat 32 (x / 2 ^ 32)) ∧
        (w ≠ .d → Rule.vNow t d l = BitVec.ofInt 32 (Rule.ext w.signed w.bytes x)) ∧
        (s.kind = .shading →
          (.v d l ∈ t.cg.poison ↔ ∃ i < min 4 w.bytes, s.poisoned (pa l + i) = true))) ∧
      (∀ n, ∀ l < 64, ¬(Rule.isActive s p l = true ∧ (n = d.val ∨ w = .d ∧ n = d.val + 1)) → Rule.vNow t n l = Rule.vNow s n l)) ∧
  (∀ (s : State) (w : MWidth) (h : Hint) (d a b : KReg) (pa : Nat),
    Rule.Quiet s → (h = .ro → s.ro = []) →
    Rule.Ok s 0 (Rule.addrU s a b) w.bytes (.load w.bytes h (.kreg d w.signed)) pa →
    ∃ t, exec (.ldu w h d a b) s = .next t ∧ Rule.LoadFrame s t ∧ t.cg.r.v = s.cg.r.v ∧ t.cg.r.t = s.cg.r.t ∧
      (∀ n, Rule.kNow t n = if n = d.val then BitVec.ofInt 64 (Rule.ext w.signed w.bytes (Rule.readWord s pa w.bytes)) else Rule.kNow s n)) ∧
  (∀ (s : State) (w : AcqWidth) (sc : Scope) (d a b : KReg) (pa : Nat),
    let s' := if sc = .sys then { s with hostCopy := [] } else s
    Rule.Quiet s → Rule.Ok s' 0 (Rule.addrU s a b) w.bytes (.load w.bytes .none (.kreg d w.signed)) pa →
    ∃ t, exec (.lda w sc d a b) s = .next t ∧ Rule.LoadFrame s' t ∧ t.cg.r.v = s.cg.r.v ∧ t.cg.r.t = s.cg.r.t ∧
      (∀ n, Rule.kNow t n = if n = d.val then BitVec.ofInt 64 (Rule.ext w.signed w.bytes (Rule.readWord s' pa w.bytes)) else Rule.kNow s n))

/-- For every state of either core kind in which the split is idle and its accesses pass the checks of R197 on an ordinary page or
window: ST sends, for the active lanes in ascending order, the low bytes of lane l of vD (of vD and vD+1 for 8 bytes) to the
lane's translated address; STU and STL (STL only once the release of its scope may be performed) the low bytes of kD; NODEST on a
shading core the 128 bytes of vD whatever the mask, and the die's cached copies of them are dropped. The pieces carry the address,
the bytes, the poison mark, the time, the source and the next sequence number; on a tile they enter the withholding buffer. No
register, split, other group or byte of memory changes. -/
def Obligations.StoresLeaveTheSplit : Prop :=
  (∀ (s : State) (w : SWidth) (h : SHint) (p : LPred) (d : VReg) (a : KReg) (b : VK) (pa : Nat → Nat),
    Rule.Quiet s →
    (∀ l, Rule.isActive s p l = true → ∀ data bad na,
      data.length = w.bytes → Rule.Ok s l (Rule.addr s a b w.bytes l) w.bytes (.store data bad na none) (pa l)) →
    ∃ t, exec (.st w h p d a b) s = .next t ∧
      Rule.Stores s t (((List.range 64).filter (Rule.isActive s p)).map fun l =>
        { lane := l, pa := pa l, data := Rule.bytes w.bytes ((s.v d l).toNat + 2 ^ 32 * (s.v (d.val + 1) l).toNat),
          bad := s.rg.poison.elem (.v d l) || (decide (w = .d) && s.rg.poison.elem (.v (d.val + 1) l)), stl := none })) ∧
  (∀ (s : State) (w : SWidth) (h : SHint) (d a b : KReg) (pa : Nat),
    Rule.Quiet s →
    (∀ data bad na, data.length = w.bytes → Rule.Ok s 0 (Rule.addrU s a b) w.bytes (.store data bad na none) pa) →
    ∃ t, exec (.stu w h d a b) s = .next t ∧
      Rule.Stores s t [{ lane := 0, pa := pa, data := Rule.bytes w.bytes (s.k d).toNat, bad := s.rg.poison.elem (.k d), stl := none }]) ∧
  (∀ (s : State) (wide : Bool) (sc : Scope) (d a b : KReg) (pa : Nat),
    let n := if wide then 8 else 4
    Rule.Quiet s → (sc = .pkg ∨ sc = .sys → ∀ x ∈ s.pend, dieOf x.src ≠ s.die) →
    (∀ data bad na, data.length = n → Rule.Ok s 0 (Rule.addrU s a b) n (.store data bad na (some sc)) pa) →
    ∃ t, exec (.stl wide sc d a b) s = .next t ∧
      Rule.Stores s t [{ lane := 0, pa := pa, data := Rule.bytes n (s.k d).toNat, bad := s.rg.poison.elem (.k d), stl := some sc }]) ∧
  (∀ (s : State) (d : VReg) (a b : KReg) (pa : Nat),
    let keep := fun x : Nat × CByte => decide (x.1 % 2 ^ 48 < pa) || decide (pa + 128 ≤ x.1 % 2 ^ 48)
    Rule.Quiet s → s.kind = .shading →
    (∀ data bad na, data.length = 128 → Rule.Ok s 0 (Rule.addrU s a b) 128 (.store data bad na none) pa) →
    ∃ t, exec (.nodest d a b) s = .next t ∧ (∀ x ∈ t.l2, x ∈ s.l2 ∧ (x.1 / 2 ^ 48 = s.die → keep x = true)) ∧
      (∀ x ∈ t.l1, x ∈ s.l1 ∧ (x.1 / 2 ^ 48 = s.src → keep x = true)) ∧
      Rule.Stores s { t with l1 := s.l1, l2 := s.l2 }
        [{ lane := 0, pa := pa, data := (List.range 32).flatMap fun l => Rule.bytes 4 (s.v d l).toNat,
           bad := (List.range 32).any fun l => s.rg.poison.elem (.v d l), stl := none }])

namespace Sys2Proof.Rule

/-- The per-lane memory instructions of global memory: predicate, base, offset and access size (R194, R213 to R215). -/
def laneAccess : Instr → Option (LPred × KReg × VK × Nat)
  | .ld w _ p _ a b => some (p, a, b, w.bytes)
  | .st w _ p _ a b => some (p, a, b, w.bytes)
  | .atom _ w p _ a b => some (p, a, b, w.bytes)
  | .atomf _ _ p _ a b => some (p, a, b, 4)
  | .cas w p _ a b => some (p, a, b, if w = .d then 8 else 4)
  | _ => none
/-- The uniform ones: base, offset and access size. -/
def uniAccess : Instr → Option (KReg × KReg × Nat)
  | .ldu w _ _ a b => some (a, b, w.bytes)
  | .stu w _ _ a b => some (a, b, w.bytes)
  | .atomu _ w _ a b => some (a, b, w.bytes)
  | .nodest _ a b => some (a, b, 128)
  | _ => none
/-- The tile loads and stores: base and stride. -/
def tileAccess : Instr → Option (KReg × KReg)
  | .ldt _ _ a b | .stt _ _ a b => some (a, b)
  | _ => none
/-- The scratchpad instructions by lane and by row. -/
def spadAccess : Instr → Option (LPred × KReg × VK × Nat)
  | .spld w p _ a b => some (p, a, b, w.bytes)
  | .spst w p _ a b => some (p, a, b, w.bytes)
  | _ => none
def spadTile : Instr → Option (KReg × KReg)
  | .spldt _ a b | .spstt _ a b => some (a, b)
  | _ => none

/-- A trap of a class with its subcode, lane and address, and no translation detail. -/
def trapOf (cls : TrapClass) (sub lane addr : Nat) : Trap := { cls := cls, sub := sub, lane := lane, addr := addr, synd := 0, paddr := 0 }
/-- What a non-canonical global address gives: PERM, or WINDOW on a tile (R197). -/
def noncanonical (s : State) (lane addr : Nat) : Trap :=
  if s.kind = .tensor then trapOf .window 0 lane addr else trapOf .perm 2 lane addr

/-- Atomics applied one after another at their homes, and the old value that each receives (R213, R41). -/
def chain (s : State) : List (Nat × AtomReq) → State × List Nat
  | [] => (s, [])
  | (pa, r) :: rest =>
    let x := (s.cleanFor pa r.bytes).atomicAt s.src pa r.bytes r.apply
    let y := chain x.1 rest
    (y.1, x.2 :: y.2)

/-- The next state is that of the atomics' chain, but for registers and marks of the issuing group, translation cache, counts and notes. -/
def AtomFrame (s t : State) (ops : List (Nat × AtomReq)) : Prop :=
  let y := (chain { s with seqNo := s.seqNo + 1 } ops).1
  { t with groups := y.groups, ctxs := y.ctxs, tlb := y.tlb, regions := y.regions } = y ∧
  (∀ key, key ≠ s.cur.grp → t.group key = s.group key) ∧
  (∀ n, Sparse.get Split.zero t.cg.splits n = Sparse.get Split.zero s.cg.splits n) ∧
  { t.cg with r := { t.cg.r with k := s.cg.r.k, v := s.cg.r.v }, poison := s.cg.poison, splits := s.cg.splits } = s.cg

/-- An atomic of a tile is withheld: it enters the buffer, and its result registers are withheld (R33, R171). -/
def Withheld (s t : State) (es : List SwbEnt) (regs : List RegId) : Prop :=
  MemFrame s t ∧ t.pend = s.pend ∧ t.cg.tile.swb = s.cg.tile.swb ++ es ∧ (∀ x, x ∈ t.cg.withheld ↔ x ∈ s.cg.withheld ∨ x ∈ regs) ∧
  { t.cg with splits := s.cg.splits, withheld := s.cg.withheld, tile := { t.cg.tile with swb := s.cg.tile.swb } } = s.cg

/-- The per-lane atomics: the request of a lane and whether its result is a pair. -/
def laneAtomic (s : State) : Instr → Option (LPred × VReg × KReg × VK × Nat × Bool × (Nat → AtomReq))
  | .atom o w p d a b =>
    let wide := decide (w = .d ∨ w = .ud)
    some (p, d, a, b, w.bytes, wide, fun l => .int o w (if wide then (s.v (d.val + 2) l).toNat + 2 ^ 32 * (s.v (d.val + 3) l).toNat
      else (s.v (d.val + 1) l).toNat))
  | .atomf o w p d a b => some (p, d, a, b, 4, false, fun l => .flt o w (s.v (d.val + 1) l).toNat)
  | .cas w p d a b =>
    let wide := decide (w = .d)
    some (p, d, a, b, if wide then 8 else 4, wide, fun l => if wide
      then .cas true ((s.v (d.val + 2) l).toNat + 2 ^ 32 * (s.v (d.val + 3) l).toNat) ((s.v (d.val + 4) l).toNat + 2 ^ 32 * (s.v (d.val + 5) l).toNat)
      else .cas false (s.v (d.val + 1) l).toNat (s.v (d.val + 2) l).toNat)
  | _ => none

end Sys2Proof.Rule

/-- For every state: when the lowest failing active lane of a LD, ST, ATOM, ATOMF or CAS, the access of a LDU, STU, ATOMU or
NODEST, or the lowest failing row of a LDT or STT has an address with bits [63:52] not 0, the instruction takes PERM subcode 2
(WINDOW on a tile), and when the address is canonical and no multiple of the access size (64 for a tile) ALIGN subcode 1 (2 for a
tile), with that lane and address, and nothing is performed. SPLD, SPST, SPLDT and SPSTT take ALIGN, or PERM subcode 3 where the
access would reach 0x800000 or beyond. When checks 1 to 3 pass for all lanes of a LD and the lowest lane whose translation traps
gives a class and subcode, the instruction takes that trap. -/
def Obligations.MemoryChecksTrap : Prop :=
  (∀ (s : State) (i : Instr) (p : LPred) (a : KReg) (b : VK) (n l : Nat), Rule.laneAccess i = some (p, a, b, n) →
    Rule.isActive s p l = true →
    (∀ j < l, Rule.isActive s p j = true → Rule.addr s a b n j < 2 ^ 52 ∧ Rule.addr s a b n j % n = 0) →
    let va := Rule.addr s a b n l
    (2 ^ 52 ≤ va → exec i s = .next (s.takeTrap (Rule.noncanonical s l va))) ∧
    (va < 2 ^ 52 → va % n ≠ 0 → exec i s = .next (s.takeTrap (Rule.trapOf .align 1 l va)))) ∧
  (∀ (s : State) (i : Instr) (a b : KReg) (n : Nat), Rule.uniAccess i = some (a, b, n) →
    let va := Rule.addrU s a b
    (2 ^ 52 ≤ va → exec i s = .next (s.takeTrap (Rule.noncanonical s 0 va))) ∧
    (va < 2 ^ 52 → va % n ≠ 0 → exec i s = .next (s.takeTrap (Rule.trapOf .align 1 0 va)))) ∧
  (∀ (s : State) (i : Instr) (a b : KReg) (n : Nat), Rule.tileAccess i = some (a, b) → n < s.rows →
    (∀ j < n, Rule.addrRow s a b j + 128 ≤ 2 ^ 52 ∧ Rule.addrRow s a b j % 64 = 0 ∧ Rule.addrRow s a b j + 64 < 2 ^ 52) →
    let va := Rule.addrRow s a b n
    (2 ^ 52 ≤ va → exec i s = .next (s.takeTrap (Rule.noncanonical s n va))) ∧
    (va < 2 ^ 52 → va % 64 ≠ 0 → exec i s = .next (s.takeTrap (Rule.trapOf .align 2 n va)))) ∧
  (∀ (s : State) (i : Instr) (p : LPred) (a : KReg) (b : VK) (n l : Nat), Rule.spadAccess i = some (p, a, b, n) →
    Rule.isActive s p l = true →
    (∀ j < l, Rule.isActive s p j = true → Rule.addr s a b n j % n = 0 ∧ Rule.addr s a b n j + n ≤ 0x800000) →
    let va := Rule.addr s a b n l
    (va % n ≠ 0 → exec i s = .next (s.takeTrap (Rule.trapOf .align 1 l va))) ∧
    (va % n = 0 → 0x800000 < va + n → exec i s = .next (s.takeTrap (Rule.trapOf .perm 3 l va)))) ∧
  (∀ (s : State) (i : Instr) (a b : KReg) (n : Nat), Rule.spadTile i = some (a, b) → n < s.rows →
    (∀ j < n, Rule.addrRow s a b j % 64 = 0 ∧ Rule.addrRow s a b j + 128 ≤ 0x800000) →
    let va := Rule.addrRow s a b n
    (va % 64 ≠ 0 → exec i s = .next (s.takeTrap (Rule.trapOf .align 2 n va))) ∧
    (va % 64 = 0 → 0x800000 < va + 128 → exec i s = .next (s.takeTrap (Rule.trapOf .perm 3 n va)))) ∧
  (∀ (s : State) (w : MWidth) (h : Hint) (p : LPred) (d : VReg) (a : KReg) (b : VK) (l sub level reason : Nat) (cls : TrapClass),
    Rule.Quiet s → Rule.isActive s p l = true →
    let va := Rule.addr s a b w.bytes
    let op := AccOp.load w.bytes h (.lane d 0 (decide (w = .d)) w.signed)
    (∀ j, Rule.isActive s p j = true → va j < 2 ^ 52 ∧ va j % w.bytes = 0) →
    (∀ j < l, Rule.isActive s p j = true → ∀ c u v r, s.outcome { lane := j, va := va j, op := op } ≠ .trap c u v r) →
    s.outcome { lane := l, va := va l, op := op } = .trap cls sub level reason →
    exec (.ld w h p d a b) s =
      .next (State.takeTrap ({ s with seqNo := s.seqNo + 1 }.modSplit fun x => { x with pc := s.pc })
        { Rule.trapOf cls sub l (va l) with synd := level + 16 * reason }))

/-- For every state in which the split is idle and every access passes the checks of R197 on an ordinary page or window. On a
shading core the accesses of the active lanes, in ascending lane order, are applied one after another at their homes (each after
the stores that wait for its line), with the operands from vD+1 on as R213 to R215 place them, and lane l of vD (and vD+1 for 64
bits) receives the value found; ATOMU applies one access with operands kD+1 and, for CAS, kD+2, and extends the old value into kD.
On a tile each access enters the withholding buffer and its result registers are withheld. Nothing else changes. -/
def Obligations.AtomicsReadModifyWrite : Prop :=
  (∀ (s : State) (i : Instr) (p : LPred) (d : VReg) (a : KReg) (b : VK) (n : Nat) (wide : Bool) (req : Nat → AtomReq) (pa : Nat → Nat),
    Rule.laneAtomic s i = some (p, d, a, b, n, wide, req) → Rule.Quiet s →
    (∀ l, Rule.isActive s p l = true → Rule.Ok s l (Rule.addr s a b n l) n (.atomic (req l) (.lane d l wide false)) (pa l)) →
    let ls := (List.range 64).filter (Rule.isActive s p)
    ∃ t, exec i s = .next t ∧
      (s.kind = .shading →
        Rule.AtomFrame s t (ls.map fun l => (pa l, req l)) ∧ t.cg.r.k = s.cg.r.k ∧
        (∀ x ∈ ls.zip (Rule.chain { s with seqNo := s.seqNo + 1 } (ls.map fun l => (pa l, req l))).2,
          Rule.vNow t d x.1 = BitVec.ofNat 32 x.2 ∧ (wide = true → Rule.vNow t (d.val + 1) x.1 = BitVec.ofNat 32 (x.2 / 2 ^ 32))) ∧
        (∀ m, ∀ l < 64, ¬(Rule.isActive s p l = true ∧ (m = d.val ∨ wide = true ∧ m = d.val + 1)) →
          Rule.vNow t m l = Rule.vNow s m l)) ∧
      (s.kind = .tensor →
        Rule.Withheld s t (ls.map fun l => .atomic (pa l) (req l) l (.lane d l wide false))
          (if ls = [] then [] else if wide then [.v d, .v (d.val + 1)] else [.v d]))) ∧
  (∀ (s : State) (o : AtomUOp) (w : AtomW) (d a b : KReg) (pa : Nat),
    let wide := decide (w = .d ∨ w = .ud)
    let sg := decide (w = .w ∨ w = .d)
    let x := (s.k (d + 1)).toNat
    let req := match o with
      | .op o => AtomReq.int o w x
      | .cas => AtomReq.cas wide x (s.k (d + 2)).toNat
    Rule.Quiet s → Rule.Ok s 0 (Rule.addrU s a b) w.bytes (.atomic req (.kreg d sg)) pa →
    ∃ t, exec (.atomu o w d a b) s = .next t ∧
      (s.kind = .shading →
        Rule.AtomFrame s t [(pa, req)] ∧ t.cg.r.v = s.cg.r.v ∧
        ∀ m, Rule.kNow t m = if m = d.val
          then BitVec.ofInt 64 (Rule.ext sg w.bytes ((Rule.chain { s with seqNo := s.seqNo + 1 } [(pa, req)]).2.headD 0)) else Rule.kNow s m) ∧
      (s.kind = .tensor → Rule.Withheld s t [.atomic pa req 0 (.kreg d sg)] [.k d]))

/-- For every old value and operand of the width: ADD wraps, MIN and MAX compare by signedness, AND, OR and XOR combine bits and
EXCH replaces; CAS writes the new value exactly when the old one equals the compare value; ATOMF adds with one RNE rounding or
chooses the lesser or greater element, element by element. An atomic at an address, with no store waiting and every die up to
date, receives the little-endian value in memory and leaves its new value there (or memory as it was where it writes nothing),
every other byte of memory unchanged. -/
def Obligations.AtomicOperations : Prop :=
  (∀ (w : AtomW) (old x : Nat), old < 2 ^ (8 * w.bytes) → x < 2 ^ (8 * w.bytes) →
    let n := w.bytes
    let sg := decide (w = .w ∨ w = .d)
    let new := fun o => (AtomReq.int o w x).apply old
    new .add = some ((old + x) % 2 ^ (8 * n)) ∧ new .exch = some x ∧ new .and = some (old &&& x) ∧ new .or = some (old ||| x) ∧
    new .xor = some (old ^^^ x) ∧
    new .min = some (if Rule.ext sg n old < Rule.ext sg n x then old else x) ∧
    new .max = some (if Rule.ext sg n old < Rule.ext sg n x then x else old)) ∧
  (∀ (wide : Bool) (old c v : Nat), c < 2 ^ (if wide then 64 else 32) → v < 2 ^ (if wide then 64 else 32) →
    (AtomReq.cas wide c v).apply old = if old = c then some v else none) ∧
  (∀ (o : AtomFOp) (w : AtomFW) (old x : Nat), old < 2 ^ 32 → x < 2 ^ 32 →
    let f := w.fmt
    ∃ y : W32, (AtomReq.flt o w x).apply old = some y.toNat ∧ ∀ j < 32 / f.width,
      let a := Rule.el f.width (BitVec.ofNat 32 old) j
      let b := Rule.el f.width (BitVec.ofNat 32 x) j
      let u := f.decode a
      let v := f.decode b
      Rule.el f.width y j = match o with
        | .fadd => encode f (.det .rne) (Val.add false u v)
        | .fmin => if u = .nan then (if v = .nan then f.nanCode else b) else if v = .nan then a else if Val.lt true v u then b else a
        | .fmax => if u = .nan then (if v = .nan then f.nanCode else b) else if v = .nan then a else if Val.lt true u v then b else a) ∧
  (∀ (s : State) (src pa n : Nat) (f : Nat → Option Nat), s.pend = [] → s.wlog = [] → s.hostCopy = [] → 0 < n →
    let r := s.atomicAt src pa n f
    r.2 = ((List.range n).map fun i => (s.memByte (pa + i)).toNat * 2 ^ (8 * i)).sum ∧
    ∀ a, r.1.memByte a = match f r.2 with
      | some x => if pa ≤ a ∧ a < pa + n then BitVec.ofNat 8 (x / 2 ^ (8 * (a - pa))) else s.memByte a
      | none => s.memByte a)

namespace Sys2Proof.Rule

/-- The pieces of a tile access: row, offset in the row and bytes: 64-byte lines on a shading core, whole rows on a tile (R207). -/
def units (s : State) : List (Nat × Nat × Nat) :=
  match s.kind with
  | .shading => (List.range 64).map fun i => (i / 2, 64 * (i % 2), 64)
  | .tensor => (List.range 64).map fun i => (i, 0, 128)
/-- Bytes of a tile register before the bundle, as a piece takes them, and whether a word of them is marked. -/
def tilePiece (s : State) (t : TReg) (u : Nat × Nat × Nat) : List Byte × Bool :=
  (((s.t t).drop (128 * u.1 + u.2.1)).take u.2.2,
   (List.range (u.2.2 / 4)).any fun j => s.rg.poison.elem (.t t ((128 * u.1 + u.2.1) / 4 + j)))

/-- Every other group and every field beside the groups is as before. -/
def OneGroup (s t : State) (key : Nat) : Prop := { t with groups := s.groups } = s ∧ ∀ x, x ≠ key → t.group x = s.group x

/-- Stores in order into the scratchpad: the last that covers a byte wins, each line's old bytes stand in the journal, and only the
scratchpad, its marks and the journal of the issuing tile change (R211, R169, R207). -/
def SpadStores (s t : State) (ps : List (Nat × List Byte)) : Prop :=
  OneGroup s t s.cur.grp ∧
  { t.cg with tile := { t.cg.tile with spad := s.cg.tile.spad, spadPoison := s.cg.tile.spadPoison, journal := s.cg.tile.journal } } = s.cg ∧
  (∀ x, Sparse.get 0 t.cg.tile.spad x = match (ps.filter fun p => decide (p.1 ≤ x) && decide (x < p.1 + p.2.length)).getLast? with
    | some p => p.2.getD (x - p.1) 0
    | none => Sparse.get 0 s.cg.tile.spad x) ∧
  (∀ line, (∃ e ∈ t.cg.tile.journal, e.1 = line) ↔
    (∃ e ∈ s.cg.tile.journal, e.1 = line) ∨ ∃ p ∈ ps, ∃ i < p.2.length, line = 64 * ((p.1 + i) / 64)) ∧
  (∀ e ∈ t.cg.tile.journal, e ∈ s.cg.tile.journal ∨ e.2.1 = (List.range 64).map fun i => Sparse.get 0 s.cg.tile.spad (e.1 + i))

/-- The scratchpad's little-endian number as it stood before the bundle, and whether a word of it is marked. -/
def spadWord (s : State) (a n : Nat) : Nat := ((List.range n).map fun i => (Sparse.get 0 s.rg.tile.spad (a + i)).toNat * 2 ^ (8 * i)).sum

end Sys2Proof.Rule

/-- For every state of either core kind in which the split is idle and every line of every row (every row on a tile) passes the
checks of R197 on an ordinary page or window: LDT makes byte 128n + o of the tile the byte the split reads at the translated
address of byte o of row n, and changes no other register, waiting store or byte of memory; STT sends the rows of the tile as it
stood before the bundle, in ascending order, to those addresses, and changes no register and no byte of memory yet. -/
def Obligations.TileLoadsAndStores : Prop :=
  (∀ (s : State) (h : Hint) (d : TReg) (a b : KReg) (pa : Nat → Nat → Nat),
    Rule.Quiet s → (h = .ro → s.ro = []) →
    (∀ u ∈ Rule.units s, Rule.Ok s u.1 (Rule.addrRow s a b u.1 + u.2.1) 64
      (.load u.2.2 h (.row d (2 * u.1 + u.2.1 / 64))) (pa u.1 u.2.1)) →
    ∃ t, exec (.ldt h d a b) s = .next t ∧ Rule.LoadFrame s t ∧ t.cg.r.k = s.cg.r.k ∧ t.cg.r.v = s.cg.r.v ∧
      (∀ n, n ≠ d.val → Sparse.get [] t.cg.r.t n = Sparse.get [] s.cg.r.t n) ∧
      (Sparse.get [] t.cg.r.t d).length = 128 * s.rows ∧
      (∀ u ∈ Rule.units s, ∀ i < u.2.2, (Sparse.get [] t.cg.r.t d).getD (128 * u.1 + u.2.1 + i) 0 = Rule.readByte s (pa u.1 u.2.1 + i)) ∧
      (s.kind = .shading → ∀ u ∈ Rule.units s, ∀ j < 16, .t d ((128 * u.1 + u.2.1) / 4 + j) ∈ t.cg.poison ↔
        ∃ i < 4, s.poisoned (pa u.1 u.2.1 + 4 * j + i) = true)) ∧
  (∀ (s : State) (h : SHint) (d : TReg) (a b : KReg) (pa : Nat → Nat → Nat),
    Rule.Quiet s →
    (∀ u ∈ Rule.units s, ∀ data bad na, data.length = u.2.2 →
      Rule.Ok s u.1 (Rule.addrRow s a b u.1 + u.2.1) 64 (.store data bad na none) (pa u.1 u.2.1)) →
    ∃ t, exec (.stt h d a b) s = .next t ∧
      Rule.Stores s t ((Rule.units s).map fun u => { lane := u.1, pa := pa u.1 u.2.1, data := (Rule.tilePiece s d u).1,
                                                     bad := (Rule.tilePiece s d u).2, stl := none }))

/-- For every state in which no transfer of the split is open: LDTA and STTA on a shading core, and on a tile when every row lies
in a window, change no register, reserve kK (and the tile of an LDTA) and leave one more transfer with their direction, token and
tile. On a tile whose rows translate and hold no poison, an LDTA has all rows read and an STTA has withheld them all. A transfer
with nothing left completes: the tile of a load that was not stopped takes its rows, the token becomes DONE with 128 bytes a row,
or with STATUS, ROW and the bytes of the rows before ROW, both registers are free, and nothing else changes. A reply writes its
values and frees their registers. -/
def Obligations.AsynchronousTileTransfers : Prop :=
  (∀ (s : State) (i : Instr) (k : KReg) (d : TReg) (a b : KReg) (load : Bool),
    (∃ h, i = .ldta k h d a b ∧ load = true) ∨ (∃ h, i = .stta k h d a b ∧ load = false) →
    (∀ x ∈ s.rg.xfers, x.split ≠ s.cur.split) →
    (s.kind = .tensor → ∀ u ∈ Rule.units s, ∀ va, va = Rule.addrRow s a b u.1 →
      ∃ w, s.rg.tile.wins.find? (fun w => decide (w.len ≠ 0) && decide (w.vbase ≤ va) && decide (va + 128 ≤ w.vbase + w.len)) = some w ∧
        va < 2 ^ 52) →
    ∃ t x, exec i s = .next t ∧ t.cg.r = s.cg.r ∧ t.cg.xfers = s.cg.xfers ++ [x] ∧
      x.split = s.cur.split ∧ x.token = k.val ∧ x.tile = d.val ∧ x.isLoad = load ∧
      .k k ∈ t.cg.busy ∧ (load = true → .t d ∈ t.cg.busy)) ∧
  (∀ (s : State) (k : KReg) (h : Hint) (d : TReg) (a b : KReg) (pa : Nat → Nat),
    Rule.Quiet s → s.kind = .tensor → s.poison = [] → (∀ e ∈ s.rg.tile.swb, ∀ q x l c, e ≠ .store q x true l c) →
    (∀ n < 64, Rule.Ok s n (Rule.addrRow s a b n) 64 (.load 128 h (.row d (2 * n))) (pa n)) →
    ∃ t x, exec (.ldta k h d a b) s = .next t ∧ Rule.MemFrame s t ∧ t.cg.xfers = s.cg.xfers ++ [x] ∧ x.todo = [] ∧ x.stopped = none ∧
      x.rows = (List.range 64).map fun n => (.row d (2 * n), (List.range 128).map fun i => Rule.readByte s (pa n + i), [])) ∧
  (∀ (s : State) (k : KReg) (h : SHint) (d : TReg) (a b : KReg) (pa : Nat → Nat),
    Rule.Quiet s → s.kind = .tensor → (∀ n < 64, (Rule.tilePiece s d (n, 0, 128)).2 = false) →
    (∀ n < 64, ∀ data bad na, data.length = 128 → Rule.Ok s n (Rule.addrRow s a b n) 64 (.store data bad na none) (pa n)) →
    ∃ t x, exec (.stta k h d a b) s = .next t ∧ t.cg.xfers = s.cg.xfers ++ [x] ∧ x.todo = [] ∧ x.rows = [] ∧ x.stopped = none ∧
      t.cg.tile.swb = s.cg.tile.swb ++ (List.range 64).flatMap fun n =>
        let data := (Rule.tilePiece s d (n, 0, 128)).1
        [.store (pa n) (data.take 64) false n none, .store (pa n + 64) (data.drop 64) false n none]) ∧
  (∀ (s : State) (grp idx : Nat) (x : Xfer),
    let g := s.group grp
    g.xfers[idx]? = some x → x.todo = [] → (∀ w ∈ x.rows, ∃ n, w.1 = .row x.tile n) → (s.gang g.gang).saved = none →
    let rows := match g.kind with | .shading => 32 | .tensor => 64
    let full : Bool := x.isLoad && x.stopped.isNone
    ∃ t, exec (.tileTransferComplete grp idx) s = .next t ∧ { t with groups := s.groups, cur := s.cur } = s ∧
      (∀ key, key ≠ grp → t.group key = s.group key) ∧
      let g' := t.group grp
      { g' with r := { g'.r with k := g.r.k, t := g.r.t }, poison := g.poison, busy := g.busy, xfers := g.xfers } = g ∧
      g'.xfers = g.xfers.eraseIdx idx ∧
      (∀ n, Sparse.get 0 g'.r.k n = if n = x.token then (match x.stopped with
        | none => BitVec.ofNat 64 (2 ^ 63 + 128 * rows)
        | some (st, row) => BitVec.ofNat 64 (2 ^ 63 + st * 2 ^ 40 + row * 2 ^ 32 + 128 * row)) else Sparse.get 0 g.r.k n) ∧
      (full = true → g'.r.t = (g.putAll x.rows).r.t) ∧ (full = false → g'.r.t = g.r.t) ∧
      .k x.token ∉ g'.busy ∧ (x.isLoad = true → .t x.tile ∉ g'.busy)) ∧
  (∀ (s : State) (idx : Nat) (r : Reply), s.replies[idx]? = some r → (∃ x ∈ s.groups, x.1 = r.grp) →
    ∃ t, exec (.reply idx) s = .next t ∧ { t with groups := s.groups, replies := s.replies } = s ∧
      t.replies = s.replies.eraseIdx idx ∧ (∀ key, key ≠ r.grp → t.group key = s.group key) ∧
      (t.group r.grp).r = ((s.group r.grp).putAll r.writes).r ∧
      (∀ w ∈ r.writes, ∀ x ∈ w.1.regs, x ∉ (t.group r.grp).busy))

/-- For every state in which the accesses pass the checks of R211: SPLD and SPLDT write their destination with the extended value,
or the row, that the scratchpad held before the bundle, with the poison marks of its words, and change nothing else; SPST and
SPSTT make every byte of the scratchpad the byte of the last lane or row that covers it and leave the others, first enter the old
contents of each line they touch into the journal unless it is there, and change nothing else but poison marks. -/
def Obligations.ScratchpadLoadsAndStores : Prop :=
  (∀ (s : State) (w : MWidth) (p : LPred) (d : VReg) (a : KReg) (b : VK),
    let va := Rule.addr s a b w.bytes
    (∀ l, Rule.isActive s p l = true → va l % w.bytes = 0 ∧ va l + w.bytes ≤ 0x800000) →
    ∃ t, exec (.spld w p d a b) s = .next t ∧ Rule.OneGroup s t s.cur.grp ∧
      { t.cg with r := { t.cg.r with v := s.cg.r.v }, poison := s.cg.poison } = s.cg ∧
      (∀ l, Rule.isActive s p l = true →
        let x := Rule.spadWord s (va l) w.bytes
        (w = .d → Rule.vNow t d l = BitVec.ofNat 32 x ∧ Rule.vNow t (d.val + 1) l = BitVec.ofNat 32 (x / 2 ^ 32)) ∧
        (w ≠ .d → Rule.vNow t d l = BitVec.ofInt 32 (Rule.ext w.signed w.bytes x)) ∧
        (.v d l ∈ t.cg.poison ↔ Sparse.get 0 s.rg.tile.spadPoison (va l / 4) ≠ 0)) ∧
      (∀ n, ∀ l < 64, ¬(Rule.isActive s p l = true ∧ (n = d.val ∨ w = .d ∧ n = d.val + 1)) → Rule.vNow t n l = Rule.vNow s n l)) ∧
  (∀ (s : State) (w : SWidth) (p : LPred) (d : VReg) (a : KReg) (b : VK),
    let va := Rule.addr s a b w.bytes
    (∀ l, Rule.isActive s p l = true → va l % w.bytes = 0 ∧ va l + w.bytes ≤ 0x800000) →
    ∃ t, exec (.spst w p d a b) s = .next t ∧
      Rule.SpadStores s t (((List.range 64).filter (Rule.isActive s p)).map fun l =>
        (va l, Rule.bytes w.bytes ((s.v d l).toNat + 2 ^ 32 * (s.v (d.val + 1) l).toNat)))) ∧
  (∀ (s : State) (d : TReg) (a b : KReg),
    let va := Rule.addrRow s a b
    (∀ n < s.rows, va n % 64 = 0 ∧ va n + 128 ≤ 0x800000) → s.cg.kind = s.kind →
    ∃ t, exec (.spldt d a b) s = .next t ∧ Rule.OneGroup s t s.cur.grp ∧
      { t.cg with r := { t.cg.r with t := s.cg.r.t }, poison := s.cg.poison } = s.cg ∧
      (∀ n, n ≠ d.val → Sparse.get [] t.cg.r.t n = Sparse.get [] s.cg.r.t n) ∧
      (∀ n < s.rows, ∀ i < 128, (Sparse.get [] t.cg.r.t d).getD (128 * n + i) 0 = Sparse.get 0 s.rg.tile.spad (va n + i)) ∧
      (∀ n < s.rows, ∀ j < 32, .t d (32 * n + j) ∈ t.cg.poison ↔ Sparse.get 0 s.rg.tile.spadPoison (va n / 4 + j) ≠ 0)) ∧
  (∀ (s : State) (d : TReg) (a b : KReg),
    let va := Rule.addrRow s a b
    (∀ n < s.rows, va n % 64 = 0 ∧ va n + 128 ≤ 0x800000) →
    ∃ t, exec (.spstt d a b) s = .next t ∧
      Rule.SpadStores s t ((List.range s.rows).map fun n => (va n, (Rule.tilePiece s d (n, 0, 128)).1)))

namespace Sys2Proof.Rule

/-- The cache that serves the issuing core as its L1: its own, or that of its fused cluster (R191, R219). -/
def l1Of (s : State) : Nat :=
  let c := 16 * s.die + s.src % 128 / 4
  if c ∈ s.fusedClusters then 4096 + c else s.src
/-- An entry of a cache with a byte of [pa, pa + n). -/
def cachedIn (id pa n : Nat) (x : Nat × CByte) : Prop := x.1 / 2 ^ 48 = id ∧ pa ≤ x.1 % 2 ^ 48 ∧ x.1 % 2 ^ 48 < pa + n
/-- The keys of a cache are distinct. -/
def Distinct (m : Sparse CByte) : Prop := (m.map (·.1)).Nodup

/-- The dirty bytes of the issuing core's caches in a range are home, an L1 byte over a byte of the die's; other bytes of memory stay. -/
def WrittenBack (s t : State) (pa n : Nat) : Prop :=
  (∀ x ∈ s.l1, cachedIn (l1Of s) pa n x → x.2.dirty = true → t.memByte (x.1 % 2 ^ 48) = x.2.val) ∧
  (∀ x ∈ s.l2, cachedIn s.die pa n x → x.2.dirty = true →
    (∀ y ∈ s.l1, cachedIn (l1Of s) pa n y → y.2.dirty = true → y.1 % 2 ^ 48 ≠ x.1 % 2 ^ 48) → t.memByte (x.1 % 2 ^ 48) = x.2.val) ∧
  (∀ a, (∀ x ∈ s.l1, cachedIn (l1Of s) pa n x → x.2.dirty = true → x.1 % 2 ^ 48 ≠ a) →
    (∀ x ∈ s.l2, cachedIn s.die pa n x → x.2.dirty = true → x.1 % 2 ^ 48 ≠ a) → t.memByte a = s.memByte a)

/-- The order of R44 on waiting stores: time, source, order of issue, lane. -/
def keyLe (x y : PStore) : Prop :=
  x.time < y.time ∨ (x.time = y.time ∧ (x.src < y.src ∨ (x.src = y.src ∧ (x.seq < y.seq ∨ (x.seq = y.seq ∧ x.lane ≤ y.lane)))))
/-- A waiting store covers a byte; it touches the span [a, a + n). -/
def covers (x : PStore) (b : Nat) : Prop := x.pa ≤ b ∧ b < x.pa + x.data.length
def touches (x : PStore) (a n : Nat) : Prop := x.pa < a + n ∧ a < x.pa + x.data.length

/-- When a die may apply a remote write (R36), and no earlier write to a common byte waits there (R34). -/
def mayApply (s : State) (e idx : Nat) (r : WRec) : Prop :=
  e ∈ r.waiting ∧
  (∀ i < 20, if i = r.die then (s.clock e).getD i 0 + 1 = r.clock.getD i 0 else r.clock.getD i 0 ≤ (s.clock e).getD i 0) ∧
  ∀ b ∈ s.wlog.take idx, e ∈ b.waiting → b.pa + b.new.length ≤ r.pa ∨ r.pa + r.new.length ≤ b.pa

end Sys2Proof.Rule

/-- For every state of a shading core, and a range within one page that translates to bytes with a home, no store waiting and each
cache listing a byte once: RWB writes the dirty bytes of the core's L1 and die L2 in the range home, keeps all blocks, marks those
bytes clean and writes no byte outside; RINV drops exactly the clean bytes in the range and changes nothing else; RFLUSH does
both. On a tile all three change nothing. PREF changes no register, waiting store, record, page move or block, and no byte that
memory answers. L1Q writes CAP, REQ, SLICE and FUSED into kD and nothing else. -/
def Obligations.CacheRangesAndPrefetch : Prop :=
  (∀ (s : State) (a b : KReg), s.kind = .tensor →
    exec (.rwb a b) s = .next s ∧ exec (.rinv a b) s = .next s ∧ exec (.rflush a b) s = .next s) ∧
  (∀ (s : State) (a b : KReg) (pa : Nat) (sm : Bool) (blk : Option (Nat × Nat)),
    let va := (s.k a).toNat
    let n := (s.k b).toNat % 2 ^ 32
    s.kind = .shading → 0 < n → (va + n - 1) / 65536 = va / 65536 → Rule.Distinct s.l1 → Rule.Distinct s.l2 →
    (s.xlate s.reqHere va .r = .ok pa sm blk →
      ∃ t, exec (.rinv a b) s = .next t ∧ { t with l1 := s.l1, l2 := s.l2, seqNo := s.seqNo } = s ∧
        (∀ x, x ∈ t.l1 ↔ x ∈ s.l1 ∧ ¬(Rule.cachedIn (Rule.l1Of s) pa n x ∧ x.2.dirty = false)) ∧
        (∀ x, x ∈ t.l2 ↔ x ∈ s.l2 ∧ ¬(Rule.cachedIn s.die pa n x ∧ x.2.dirty = false))) ∧
    (s.xlate s.reqHere va .rw = .ok pa sm blk → s.pend = [] → (∀ i < n, paHasHome (pa + i) = true) →
      (∃ t, exec (.rwb a b) s = .next t ∧ Rule.WrittenBack s t pa n ∧ t.groups = s.groups ∧ t.pend = [] ∧
        t.l1 = s.l1.map (fun x => (x.1, { x.2 with dirty := x.2.dirty &&
          !(decide (x.1 / 2 ^ 48 = Rule.l1Of s) && decide (pa ≤ x.1 % 2 ^ 48) && decide (x.1 % 2 ^ 48 < pa + n)) })) ∧
        t.l2 = s.l2.map (fun x => (x.1, { x.2 with dirty := x.2.dirty &&
          !(decide (x.1 / 2 ^ 48 = s.die) && decide (pa ≤ x.1 % 2 ^ 48) && decide (x.1 % 2 ^ 48 < pa + n)) }))) ∧
      (∃ t, exec (.rflush a b) s = .next t ∧ Rule.WrittenBack s t pa n ∧ t.groups = s.groups ∧ t.pend = [] ∧
        (∀ x, x ∈ t.l1 ↔ x ∈ s.l1 ∧ ¬Rule.cachedIn (Rule.l1Of s) pa n x) ∧
        (∀ x, x ∈ t.l2 ↔ x ∈ s.l2 ∧ ¬Rule.cachedIn s.die pa n x)))) ∧
  (∀ (s : State) (lv : PrefLevel) (p : LPred) (a : KReg) (b : VK),
    ∃ t, exec (.pref lv p a b) s = .next t ∧ { t with l1 := s.l1, l2 := s.l2, hostCopy := s.hostCopy } = s ∧
      ∀ pa, t.byteAt pa = s.byteAt pa) ∧
  (∀ (s : State) (d : KReg),
    let c := 16 * s.die + s.src % 128 / 4
    let fused := decide (c ∈ s.fusedClusters)
    ∃ t, exec (.l1q d) s = .next t ∧ Rule.OneGroup s t s.cur.grp ∧
      { t.cg with r := { t.cg.r with k := s.cg.r.k }, poison := s.cg.poison } = s.cg ∧
      ∀ n, Rule.kNow t n = if n = d.val then BitVec.ofNat 64 ((if fused then 384 else 96) * 2 ^ 16 + (if s.gg.image.fused then 8 else 0) +
        2 * (s.src % 4) + (if fused then 1 else 0)) else Rule.kNow s n)

/-- For every state: on a tile FENCE adds its boundary after the withheld stores; on a shading core it completes when no transfer
of the split has a line left or a token to write and, at PKG and SYS scope, no store of the die waits, and else the bundle stalls;
at SYS scope it drops the clean host lines. A FENCESC that has not begun records the count at which the drain completes and holds
its bundle; one that has drained stalls; one that has taken a tick completes with its die having applied every write. A tick gives
every drained FENCESC of its die that drained at a smaller count its number, and changes nothing else. -/
def Obligations.FencesWaitAndComplete : Prop :=
  (∀ (s : State) (sc : Scope),
    let drop := fun (t : State) => if sc = .sys then { t with hostCopy := [] } else t
    let done := (∀ x ∈ s.rg.xfers, x.split = s.cur.split → x.todo = [] ∧ x.isLoad = true) ∧
      (sc = .pkg ∨ sc = .sys → ∀ x ∈ s.pend, dieOf x.src ≠ s.die)
    (s.kind = .tensor → ∃ t, exec (.fence sc) s = .next t ∧ (∀ x, x ≠ s.cur.grp → t.group x = s.group x) ∧
      { t with groups := s.groups } = drop s ∧
      t.cg = { s.cg with tile := { s.cg.tile with swb := s.cg.tile.swb ++ [.boundary sc] } }) ∧
    (s.kind = .shading → done → exec (.fence sc) s = .next (drop s)) ∧
    (s.kind = .shading → ¬done → exec (.fence sc) s = .next s.stall)) ∧
  (∀ (s : State),
    let done := (∀ x ∈ s.rg.xfers, x.split = s.cur.split → x.todo = [] ∧ x.isLoad = true) ∧ ∀ x ∈ s.pend, dieOf x.src ≠ s.die
    (s.rsplit.fsc = .idle → done → ∃ t, exec .fencesc s = .next t ∧ t.cur.status = .held ∧ { t with groups := s.groups, cur := s.cur } = s ∧
      t.split = { s.split with fsc := .drained s.sid }) ∧
    (s.rsplit.fsc = .idle → ¬done → exec .fencesc s = .next s.stall) ∧
    (∀ c, s.rsplit.fsc = .drained c → exec .fencesc s = .next s.stall) ∧
    (∀ n, s.rsplit.fsc = .taken n → ∃ t, exec .fencesc s = .next t ∧
      { t with groups := s.groups, wlog := s.wlog, clocks := s.clocks } = s ∧ t.split = { s.split with fsc := .idle } ∧
      (∀ r ∈ t.wlog, s.die ∉ r.waiting) ∧ (∀ e, e ≠ s.die → t.clock e = s.clock e))) ∧
  (∀ (s : State) (die : Nat), ∃ t, exec (.pulsarTick die) s = .next t ∧ { t with groups := s.groups } = s ∧
    ∀ key n,
      let g := s.group key
      let x := Sparse.get Split.zero g.splits n
      (∀ c, x.fsc = .drained c → c < 512 * (s.sid / 512) → dieOf g.core = die → (s.gang g.gang).saved = none →
        Sparse.get Split.zero (t.group key).splits n = { x with fsc := .taken (s.sid / 512) }) ∧
      ((∀ c, x.fsc = .drained c → 512 * (s.sid / 512) ≤ c ∨ dieOf g.core ≠ die ∨ (s.gang g.gang).saved ≠ none) →
        Sparse.get Split.zero (t.group key).splits n = x))

/-- For every state: a merge step over a line takes every store that waits there (over the aligned 128 bytes when a NODEST waits),
each byte takes the value of a covering store that no other covering store exceeds in the key of R44, and bytes no such store
covers stay; registers do not change. A die applies a logged write exactly when its clock entry for the writer is one less, its
other entries are not behind, and no earlier write to a common byte waits; it then takes the writer's entry, and otherwise nothing
happens. An eviction from an L1 moves the dirty bytes to the die L2 and drops the others; one from a die L2 writes them home;
read-only copies and cached translations are dropped. -/
def Obligations.MergeStepsAndRemoteWrites : Prop :=
  (∀ (s : State) (line : Nat),
    let wide := ∃ x ∈ s.pend, x.data.length = 128 ∧ x.pa = 128 * (line / 128)
    ∀ a n, ((wide ∧ a = 128 * (line / 128) ∧ n = 128) ∨ (¬wide ∧ a = 64 * (line / 64) ∧ n = 64)) →
    ∃ t, exec (.mergeStep line) s = .next t ∧
      { t with mem := s.mem, pend := s.pend, hostCopy := s.hostCopy, poison := s.poison, clocks := s.clocks, wlog := s.wlog,
               sealed_ := s.sealed_, seals := s.seals } = s ∧
      (∀ x, x ∈ t.pend ↔ x ∈ s.pend ∧ ¬Rule.touches x a n) ∧
      ∀ b,
        ((∀ x ∈ s.pend, Rule.touches x a n → ¬Rule.covers x b) → t.memByte b = s.memByte b) ∧
        ((∃ x ∈ s.pend, Rule.touches x a n ∧ Rule.covers x b) →
          ∃ x ∈ s.pend, Rule.touches x a n ∧ Rule.covers x b ∧ t.memByte b = x.data.getD (b - x.pa) 0 ∧
            ∀ y ∈ s.pend, Rule.touches y a n → Rule.covers y b → Rule.keyLe y x)) ∧
  (∀ (s : State) (e idx : Nat) (r : WRec), s.wlog[idx]? = some r →
    (Rule.mayApply s e idx r → ∃ t, exec (.remoteWriteApply e idx) s = .next t ∧ { t with wlog := s.wlog, clocks := s.clocks } = s ∧
      (∀ d, d ≠ e → t.clock d = s.clock d) ∧ t.clock e = (s.clock e).set r.die (r.clock.getD r.die 0) ∧
      t.wlog = (s.wlog.set idx { r with waiting := r.waiting.filter (· != e) }).filter fun x => x.waiting != []) ∧
    (¬Rule.mayApply s e idx r → exec (.remoteWriteApply e idx) s = .next s)) ∧
  (∀ (s : State) (unit a n : Nat), Rule.Distinct s.l1 → Rule.Distinct s.l2 →
    (unit < 4096 → ∃ t, exec (.cacheEviction .l1 unit a n) s = .next t ∧ { t with l1 := s.l1, l2 := s.l2 } = s ∧
      (∀ x, x ∈ t.l1 ↔ x ∈ s.l1 ∧ ¬Rule.cachedIn unit a n x) ∧
      (∀ x ∈ s.l1, Rule.cachedIn unit a n x → x.2.dirty = true → (dieOf unit * 2 ^ 48 + x.1 % 2 ^ 48, x.2) ∈ t.l2)) ∧
    (s.pend = [] → (∀ i < n, paHasHome (a + i) = true) → ∃ t, exec (.cacheEviction .l2 unit a n) s = .next t ∧
      (∀ x, x ∈ t.l2 ↔ x ∈ s.l2 ∧ ¬Rule.cachedIn unit a n x) ∧ t.l1 = s.l1 ∧ t.groups = s.groups ∧
      (∀ x ∈ s.l2, Rule.cachedIn unit a n x → x.2.dirty = true → t.memByte (x.1 % 2 ^ 48) = x.2.val) ∧
      (∀ b, (∀ x ∈ s.l2, Rule.cachedIn unit a n x → x.2.dirty = true → x.1 % 2 ^ 48 ≠ b) → t.memByte b = s.memByte b)) ∧
    (∃ t, exec (.cacheEviction .ro unit a n) s = .next t ∧ { t with ro := s.ro } = s ∧
      (∀ x, x ∈ t.ro ↔ x ∈ s.ro ∧ ¬(x.1 / 2 ^ 48 = unit ∧ a ≤ x.1 % 2 ^ 48 ∧ x.1 % 2 ^ 48 < a + n))) ∧
    (∃ t, exec (.cacheEviction .tlb unit a n) s = .next t ∧ { t with tlb := s.tlb } = s ∧
      (∀ x, x ∈ t.tlb ↔ x ∈ s.tlb ∧ ¬(x.die = unit ∧ a ≤ x.va ∧ x.va < a + n))))

namespace Sys2Proof.Rule

/-- Only the issuing split changes, and it becomes `x`. -/
def SetsSplit (s t : State) (x : Split) : Prop :=
  OneGroup s t s.cur.grp ∧ { t.cg with splits := s.cg.splits } = s.cg ∧ t.split = x ∧
  ∀ n, n ≠ s.cur.split → Sparse.get Split.zero t.cg.splits n = Sparse.get Split.zero s.cg.splits n
/-- The split goes on at an address; nothing else changes (R149). -/
def JumpTo (s t : State) (a : Nat) : Prop :=
  t.cur = { s.cur with jumped := true } ∧ SetsSplit s { t with cur := s.cur } { s.split with pc := a, arrived := true }

/-- The bundle after the issuing one, and a static target (R149). -/
def nextPc (s : State) : Nat := (s.pc + 32) % 2 ^ 64
def target (s : State) (off : BitVec 19) : Nat := (((s.pc : Int) + 32 * off.toInt) % 2 ^ 64).toNat
/-- A bit of a mask. -/
abbrev bitIn (m l : Nat) : Prop := m / 2 ^ l % 2 = 1

/-- The least free split number of the issuing group. -/
def FreeSplit (s : State) (i : Nat) : Prop :=
  i < 4 ∧ (∀ x ∈ s.cg.splits, x.1 ≠ i) ∧ ∀ j < i, ∃ x ∈ s.cg.splits, x.1 = j

/-- A register target may be entered (R149, R75): a multiple of 32, and on a tile a sealed bundle that holds CKPT. -/
def targetOk (s : State) (a : Nat) : Prop :=
  a % 32 = 0 ∧ (s.kind = .tensor → ∃ l, s.fetch a = .words l ∧ l.headD 0 / 2 ^ 25 % 64 = 0x18)

/-- FENCE at GANG scope can be performed (R204). -/
def fenced (s : State) : Prop :=
  s.kind = .shading → ∀ x ∈ s.rg.xfers, x.split = s.cur.split → x.todo = [] ∧ x.isLoad = true

/-- A live lane of the issuing group: of a split or of a deferred entry (R113, R153). -/
def live (s : State) (l : Nat) : Prop :=
  ∃ x ∈ s.cg.splits, bitIn x.2.mask l ∨ ∃ e ∈ x.2.stack, bitIn e.2 l
/-- The listed keys rise. -/
def Rising {α : Type} (m : Sparse α) : Prop := m.Pairwise fun x y => x.1 < y.1
/-- Every other participant of the gang has its flag set (R153). -/
def othersArrived (s : State) (n : Nat) : Prop :=
  ∀ x ∈ s.groups, x.2.gang = s.cg.gang → x.2.splits ≠ [] → x.1 ≠ s.cur.grp → bitIn x.2.barFlags n

/-- No store, write or copy of a line is under way, and no cache holds a byte. -/
def Still (s : State) : Prop := s.pend = [] ∧ s.wlog = [] ∧ s.hostCopy = [] ∧ s.l1 = [] ∧ s.l2 = []
/-- The little-endian number of n bytes of memory; memory is as before but for n bytes that hold x. -/
def word (s : State) (pa n : Nat) : Nat := ((List.range n).map fun i => (s.memByte (pa + i)).toNat * 2 ^ (8 * i)).sum
def WordSet (s t : State) (pa n x : Nat) : Prop :=
  ∀ a, t.memByte a = if pa ≤ a ∧ a < pa + n then BitVec.ofNat 8 (x / 2 ^ (8 * (a - pa))) else s.memByte a

/-- Only count and delta of semaphore n of the issuing tile change (R154, R169). -/
def SemSet (s t : State) (n count : Nat) (delta : Int) : Prop :=
  OneGroup s t s.cur.grp ∧
  { t.cg with tile := { t.cg.tile with semCount := s.cg.tile.semCount, semDelta := s.cg.tile.semDelta } } = s.cg ∧
  (∀ m, Sparse.get 0 t.cg.tile.semCount m = if m = n then count else Sparse.get 0 s.cg.tile.semCount m) ∧
  (∀ m, Sparse.get 0 t.cg.tile.semDelta m = if m = n then Sparse.get 0 s.cg.tile.semDelta n + delta else Sparse.get 0 s.cg.tile.semDelta m)

end Sys2Proof.Rule

/-- For every state: NOP and MERGE change nothing. BR with P = 0, and with every lane's bit set, goes to PC + 32 × OFF, with no
lane's bit set it goes on, and else divides the split: the taken lanes at the target, the others at the next bundle in the least
free split with an empty stack, or, with four splits, on top of the split's deferred stack. BRC takes its decision over the lanes
of the mask. CALL writes PC + 32 to k7 and CALLX to kB, and BRX, CALLX and RET go to the old kA, or take ALIGN subcode 5 when it
is no multiple of 32 and, on a tile, UNSEALED subcode 1 when the sealed bundle there holds no CKPT. Nothing else changes. -/
def Obligations.BranchesMergesAndNops : Prop :=
  (∀ (s : State) (stop : Bool), exec (.nopSlot0 stop) s = .next s ∧ exec .nop s = .next s ∧ exec (.merge stop) s = .next s) ∧
  (∀ (s : State) (stop : Bool) (p : PReg) (off : BitVec 19),
    let mt := s.mask &&& s.p p.val
    let a := Rule.target s off
    (p = 0 ∨ mt = s.mask → ∃ t, exec (.br stop p off) s = .next t ∧ Rule.JumpTo s t a) ∧
    (p ≠ 0 → mt = 0 → s.mask ≠ 0 → exec (.br stop p off) s = .next s) ∧
    (p ≠ 0 → mt ≠ 0 → mt ≠ s.mask → ∃ t, exec (.br stop p off) s = .next t ∧ { t with groups := s.groups, cur := s.cur } = s ∧
      (∀ key, key ≠ s.cur.grp → t.group key = s.group key) ∧ { t.cg with splits := s.cg.splits } = s.cg ∧
      t.split.mask = mt ∧ t.split.pc = a ∧
      (∀ i, Rule.FreeSplit s i → i ≠ s.cur.split → t.split.stack = s.split.stack ∧
        (let y := Sparse.get Split.zero t.cg.splits i
         y.mask = s.mask - mt ∧ y.pc = Rule.nextPc s ∧ y.stack = []) ∧
        ∀ n, n ≠ i → n ≠ s.cur.split → Sparse.get Split.zero t.cg.splits n = Sparse.get Split.zero s.cg.splits n) ∧
      ((∀ i < 4, ∃ x ∈ s.cg.splits, x.1 = i) → t.split.stack = (Rule.nextPc s, s.mask - mt) :: s.split.stack ∧
        ∀ n, n ≠ s.cur.split → Sparse.get Split.zero t.cg.splits n = Sparse.get Split.zero s.cg.splits n))) ∧
  (∀ (s : State) (stop : Bool) (p : PReg) (c : BrCond) (off : BitVec 19),
    let v := s.p p.val &&& s.mask
    let take := match c with | .any => v ≠ 0 | .all => v = s.mask | .none => v = 0
    (take → ∃ t, exec (.brc stop p c off) s = .next t ∧ Rule.JumpTo s t (Rule.target s off)) ∧
    (¬take → exec (.brc stop p c off) s = .next s)) ∧
  (∀ (s : State) (stop : Bool) (off : BitVec 19), ∃ t, exec (.call stop off) s = .next t ∧
    Rule.JumpTo (s.setK 7 (BitVec.ofNat 64 (Rule.nextPc s))) t (Rule.target s off)) ∧
  (∀ (s : State) (stop : Bool) (a b : KReg),
    let x := (s.k a).toNat
    (Rule.targetOk s x →
      (∃ t, exec (.brx stop a) s = .next t ∧ Rule.JumpTo s t x) ∧ (∃ t, exec (.ret stop a) s = .next t ∧ Rule.JumpTo s t x) ∧
      (∃ t, exec (.callx stop a b) s = .next t ∧ Rule.JumpTo (s.setK b (BitVec.ofNat 64 (Rule.nextPc s))) t x)) ∧
    (x % 32 ≠ 0 → exec (.brx stop a) s = .next (s.takeTrap (Rule.trapOf .align 5 0 x)) ∧
      exec (.callx stop a b) s = .next (s.takeTrap (Rule.trapOf .align 5 0 x)) ∧
      exec (.ret stop a) s = .next (s.takeTrap (Rule.trapOf .align 5 0 x))) ∧
    (∀ l, x % 32 = 0 → s.kind = .tensor → s.fetch x = .words l → l.headD 0 / 2 ^ 25 % 64 ≠ 0x18 →
      exec (.ret stop a) s = .next (s.takeTrap (Rule.trapOf .unsealed 1 0 x))))

/-- For every state with groups in key order: BARA whose group's flag is set, or with a lane that has contributed, stalls; with no
replay credit and the FENCE performed, it contributes the split's lanes; the group's flag is set once every live lane has
contributed (on a tile at once), and with every other participant's flag set the phase completes and the flag reads clear. On a
tile it adds a GANG boundary and counts the arrival, and a replay credit is used up instead. BAR does the same and then waits
where the flag stays set. BARW with the flag clear changes nothing unless it waited, then a FENCE follows; with the flag set it
holds its bundle. -/
def Obligations.BarriersAndArrivals : Prop :=
  (∀ (s : State) (stop : Bool) (n : Fin 8), Rule.fenced s → Rule.Rising s.groups → s.split.mask ≠ 0 →
    (∃ x ∈ s.cg.splits, x.1 = s.cur.split ∧ x.2 = s.split) → s.cg.kind = s.kind →
    let credit := Sparse.get 0 s.cg.tile.credit n.val
    let lanes := Sparse.get 0 s.cg.barLanes n.val
    let waits := Rule.bitIn s.cg.barFlags n.val ∨ (s.kind = .shading ∧ lanes &&& s.split.mask ≠ 0)
    let full := s.kind = .tensor ∨ ∀ l, Rule.live s l → Rule.bitIn lanes l ∨ Rule.bitIn s.split.mask l
    (s.kind = .tensor → credit ≠ 0 → ∃ t, exec (.bara stop n) s = .next t ∧ Rule.OneGroup s t s.cur.grp ∧
      { t.cg with tile := { t.cg.tile with credit := s.cg.tile.credit } } = s.cg ∧
      ∀ m, Sparse.get 0 t.cg.tile.credit m = if m = n.val then credit - 1 else Sparse.get 0 s.cg.tile.credit m) ∧
    (s.kind = .shading ∨ credit = 0 → waits → exec (.bara stop n) s = .next s.stall ∧ exec (.bar stop n) s = .next s.stall) ∧
    (s.kind = .shading ∨ credit = 0 → ¬waits → ∃ t, exec (.bara stop n) s = .next t ∧
      { t with groups := s.groups } = s ∧ t.cg.r = s.cg.r ∧
      (full → (¬Rule.othersArrived s n.val → Rule.bitIn t.cg.barFlags n.val) ∧
        (Rule.othersArrived s n.val → ∀ x ∈ t.groups, x.2.gang = s.cg.gang → ¬Rule.bitIn x.2.barFlags n.val)) ∧
      (¬full → ¬Rule.bitIn t.cg.barFlags n.val ∧
        ∀ l, Rule.bitIn (Sparse.get 0 t.cg.barLanes n.val) l ↔ Rule.bitIn lanes l ∨ Rule.bitIn s.split.mask l) ∧
      (s.kind = .tensor → t.cg.tile.swb = s.cg.tile.swb ++ [.boundary .gang] ∧
        Sparse.get 0 t.cg.tile.arrivals n.val = Sparse.get 0 s.cg.tile.arrivals n.val + 1) ∧
      (¬Rule.bitIn t.cg.barFlags n.val → exec (.bar stop n) s = .next t) ∧
      (Rule.bitIn t.cg.barFlags n.val → ∃ u, exec (.bar stop n) s = .next u ∧
        Rule.SetsSplit t u { t.split with waits := t.split.waits ++ [.bar n.val] }))) ∧
  (∀ (s : State) (stop : Bool) (n : Fin 8),
    (Rule.bitIn s.cg.barFlags n.val → ∃ t, exec (.barw stop n) s = .next t ∧ t.cur = { s.cur with status := .held } ∧
      Rule.SetsSplit s { t with cur := s.cur } { s.split with barred := true }) ∧
    (¬Rule.bitIn s.cg.barFlags n.val → s.split.barred = false → exec (.barw stop n) s = .next s) ∧
    (¬Rule.bitIn s.cg.barFlags n.val → s.split.barred = true → s.kind = .shading → Rule.fenced s →
      ∃ t, exec (.barw stop n) s = .next t ∧ Rule.SetsSplit s t { s.split with barred := false }) ∧
    (¬Rule.bitIn s.cg.barFlags n.val → s.split.barred = true → s.kind = .tensor →
      ∃ t, exec (.barw stop n) s = .next t ∧ t.split = { s.split with barred := false } ∧
        t.cg.tile.swb = s.cg.tile.swb ++ [.boundary .gang] ∧ t.cg.r = s.cg.r))

/-- For every state: on a tile SEMSIG adds to count and delta, saturating at 0xFFFFFFFF with one SEMSAT record exactly then;
SEMWAIT subtracts when the count suffices and else stalls; SEMTRY subtracts and writes 1, or writes 0. On a shading core, with an
aligned word that translates, nothing waiting in memory and no poison, they do the same to the word, and every other byte stays; a
SEMWAIT with no other waiter whose count is short parks on the word and its bundle is held; a misaligned word takes ALIGN subcode
6. A retry marks the parked SEMWAITs of the split ready. -/
def Obligations.CountedSemaphores : Prop :=
  (∀ (s : State) (stop : Bool) (a b : KReg) (n : Fin 16) (c : Fin 256), s.kind = .tensor →
    let old := Sparse.get 0 s.cg.tile.semCount n.val
    old < 2 ^ 32 →
    (old + c.val < 2 ^ 32 → ∃ t, exec (.semsig stop a n c) s = .next t ∧ Rule.SemSet s t n.val (old + c.val) c.val) ∧
    (2 ^ 32 ≤ old + c.val → ∃ t e, exec (.semsig stop a n c) s = .next t ∧
      Rule.SemSet s { t with errs := s.errs, lastStamp := s.lastStamp } n.val 0xFFFFFFFF (0xFFFFFFFF - (old : Int)) ∧
      t.errs = s.errs ++ [e] ∧ e.cls = 0x15 ∧ e.vaddr = 0 ∧ e.synd = 256 * n.val ∧ e.src = s.src ∧ e.ctx = some s.gg.ctx) ∧
    (c.val ≤ old → (∃ t, exec (.semwait stop a n c) s = .next t ∧ Rule.SemSet s t n.val (old - c.val) (-(c.val : Int))) ∧
      ∃ t : State, exec (.semtry stop a b n c) s = .next (t.setK b 1) ∧ Rule.SemSet s t n.val (old - c.val) (-(c.val : Int))) ∧
    (old < c.val → exec (.semwait stop a n c) s = .next s.stall ∧ exec (.semtry stop a b n c) s = .next (s.setK b 0))) ∧
  (∀ (s : State) (stop : Bool) (a b : KReg) (n : Fin 16) (c : Fin 256) (pa : Nat), s.kind = .shading → Rule.Still s → Rule.fenced s →
    let va := (s.k a).toNat
    let old := Rule.word s pa 4
    va % 4 = 0 → s.xlate s.reqHere va .rw = .ok pa false none → s.poison = [] →
    (∀ g ∈ s.groups, ∀ x ∈ g.2.splits, ∀ p t r, .sem p t r ∉ x.2.waits) → (∀ p t r, .sem p t r ∉ s.split.waits) →
    (∃ t, exec (.semsig stop a n c) s = .next t ∧ Rule.WordSet s t pa 4 (min (old + c.val) 0xFFFFFFFF) ∧ t.groups = s.groups ∧
      (t.errs = s.errs ↔ old + c.val < 2 ^ 32)) ∧
    (c.val ≤ old → (∃ t, exec (.semwait stop a n c) s = .next t ∧ Rule.WordSet s t pa 4 (old - c.val) ∧ t.cg.r = s.cg.r ∧
        t.split = s.split) ∧
      ∃ t : State, exec (.semtry stop a b n c) s = .next (t.setK b 1) ∧ Rule.WordSet s t pa 4 (old - c.val) ∧ t.groups = s.groups) ∧
    (old < c.val → (∃ t, exec (.semwait stop a n c) s = .next t ∧ t.mem = s.mem ∧ t.cur.status = .held ∧ t.cg.r = s.cg.r ∧
        t.split = { s.split with waits := [.sem pa s.cycle false] }) ∧
      ∃ t : State, exec (.semtry stop a b n c) s = .next (t.setK b 0) ∧ t.mem = s.mem ∧ t.groups = s.groups)) ∧
  (∀ (s : State) (stop : Bool) (a b : KReg) (n : Fin 16) (c : Fin 256), s.kind = .shading → (s.k a).toNat % 4 ≠ 0 →
    let t := s.takeTrap (Rule.trapOf .align 6 0 (s.k a).toNat)
    (Rule.fenced s → exec (.semsig stop a n c) s = .next t) ∧ exec (.semwait stop a n c) s = .next t ∧
    exec (.semtry stop a b n c) s = .next t) ∧
  (∀ (s : State) (grp split : Nat),
    let g := s.group grp
    let x := Sparse.get Split.zero g.splits split
    (∃ y ∈ s.groups, y.1 = grp ∧ ∃ z ∈ y.2.splits, z.1 = split) → (s.gang g.gang).saved = none →
    ∃ t, exec (.semwaitRetry grp split) s = .next t ∧ { t with groups := s.groups } = s ∧
      (∀ key, key ≠ grp → t.group key = s.group key) ∧ { t.group grp with splits := g.splits } = g ∧
      Sparse.get Split.zero (t.group grp).splits split =
        { x with waits := x.waits.map fun w => match w with | .sem p u _ => .sem p u true | w => w })

namespace Sys2Proof.Rule

/-- The class codes of R162. -/
def classCode : TrapClass → Nat
  | .unsealed => 1 | .window => 2 | .decode => 3 | .fill => 4 | .recurse => 5 | .mop => 6 | .machineCheck => 7 | .align => 8
  | .perm => 9 | .page => 10 | .software => 11 | .timer => 12 | .illegal => 13

/-- %tcause of R164: CLASS, SUB, LANE, SLOT and PMASK. -/
def cause (x : Split) (t : Trap) (slot : Nat) : Nat :=
  classCode t.cls + 2 ^ 8 * t.sub + 2 ^ 16 * t.lane + 2 ^ 22 * slot + 2 ^ 25 * (if x.tmsk then 1 else 0)

/-- What entering a handler leaves of the split (R165). -/
def Entered (x y : Split) (t : Trap) (slot tvec resume bad : Nat) : Prop :=
  y.tepc = resume ∧ y.tbad = bad ∧ y.taddr = t.addr ∧ y.tcause = cause x t slot ∧ y.tlev = true ∧ y.tmsk = true ∧ y.pc = tvec ∧
  y.mask = x.mask ∧ y.stack = x.stack

/-- A gang has been killed and its record is not appended again (R131): it and its groups are gone. -/
def Killed (s t : State) (gang : Nat) : Prop :=
  (∀ x ∈ t.gangs, x.1 ≠ gang) ∧ (∀ x ∈ t.groups, x.2.gang ≠ gang) ∧ t.queues = s.queues ∧ t.cur = { s.cur with status := .killed }

end Sys2Proof.Rule

/-- For every state and trap: at ordinary level with %tvec not 0, a shading core saves PC (PC + 32 for SOFTWARE) in %tepc and
%tbad, a tile rolls back to its checkpoint image and saves %ckpt in %tepc and PC in %tbad; %taddr and %tcause are the trap's, the
split goes to trap level, masked, at %tvec with its mask and stack, the other splits and all registers of a shading core stay, and
every class but SOFTWARE and TIMER sends one record. A tile's registers, less an armed timer that was raised, are the image's, and
withheld stores, journal and deferred push are gone. At trap level, or with %tvec 0, the gang and its groups are gone and no
record is appended. TRAP takes SOFTWARE with its code. -/
def Obligations.TakingATrap : Prop :=
  (∀ (s : State) (t : Trap), s.split.tlev = false → s.cg.tvec ≠ 0 → s.cg.kind = .shading →
    let u := s.takeTrap t
    let resume := if t.cls = .software then s.split.pc + 32 else s.split.pc
    { u with groups := s.groups, cur := s.cur, errs := s.errs, lastStamp := s.lastStamp } = s ∧
    u.cur = { s.cur with status := .trapped, jumped := true } ∧
    (∀ key, key ≠ s.cur.grp → u.group key = s.group key) ∧ { u.cg with splits := s.cg.splits, busy := s.cg.busy } = s.cg ∧
    (∀ n, n ≠ s.cur.split → Sparse.get Split.zero u.cg.splits n = Sparse.get Split.zero s.cg.splits n) ∧
    Rule.Entered s.split u.split t (if t.cls = .timer then 0 else s.cur.slot) s.cg.tvec resume resume ∧
    (if t.cls = .software ∨ t.cls = .timer then u.errs = s.errs
     else ∃ e, u.errs = s.errs ++ [e] ∧ e.cls = Rule.classCode t.cls ∧ e.sub = t.sub ∧ e.lane = t.lane ∧ e.vaddr = t.addr ∧
       e.ctx = some s.gg.ctx ∧ e.src = s.src)) ∧
  (∀ (s : State) (t : Trap), s.split.tlev = false → s.cg.tvec ≠ 0 → s.cg.kind = .tensor →
    (∀ c ∈ s.casts, c.src ≠ s.cur.grp) →
    let u := s.takeTrap t
    u.cur = { s.cur with status := .trapped, jumped := true } ∧ u.mem = s.mem ∧
    Rule.Entered s.split u.split t (if t.cls = .timer then 0 else s.cur.slot) s.cg.tvec s.cg.tile.ckpc s.split.pc ∧
    u.cg.r = (if s.cg.tile.raised = true then { s.cg.tile.ck with arm := false } else s.cg.tile.ck) ∧
    u.cg.tile.swb = [] ∧ u.cg.tile.journal = [] ∧ u.cg.tile.dpush = .none ∧ u.cg.withheld = [] ∧ u.cg.xfers = [] ∧
    u.cg.tile.wins = s.cg.tile.wins) ∧
  (∀ (s : State) (t : Trap), s.split.tlev = true ∨ s.cg.tvec = 0 → Rule.Killed s (s.takeTrap t) s.cg.gang) ∧
  (∀ (s : State) (stop : Bool) (c : Fin 256), exec (.trap stop c) s = .next (s.takeTrap (Rule.trapOf .software c.val 0 0)))

/-- For every state: TRET at trap level goes to %tepc at ordinary level with PMASK, kills the gang when the class does not resume,
and takes ILLEGAL 1 at ordinary level. TMASK and TUNMASK set and clear the mask. HALT kills the gang with a HALT record that
carries its code. TIMERSET arms with kA or disarms and leaves TCMP. SLEEP parks until kA, or passes at once; a wake removes
exactly the sleeps that are due. YIELD ends the quantum and TIMEHINT sets EST to min(kA, 0xFFFFFFFF) and restarts its count. A
timer that is due is disarmed and traps the lowest split that is at ordinary level, unmasked and not parked, or stays pending;
else nothing happens. -/
def Obligations.TrapLevelTimersAndTime : Prop :=
  (∀ (s : State) (stop : Bool),
    (s.split.tlev = false → exec (.tret stop) s = .next (s.takeTrap (Rule.trapOf .illegal 1 0 0))) ∧
    (s.split.tlev = true → s.split.tcause % 256 ≠ 2 → s.split.tcause % 256 ≠ 7 → ∃ t, exec (.tret stop) s = .next t ∧
      t.cur = { s.cur with jumped := true } ∧
      Rule.SetsSplit s { t with cur := s.cur } { s.split with tlev := false, tmsk := s.split.tcause / 2 ^ 25 % 2 == 1,
                                                              pc := s.split.tepc, arrived := true }) ∧
    (s.split.tlev = true → s.split.tcause % 256 = 2 ∨ s.split.tcause % 256 = 7 →
      ∃ t, exec (.tret stop) s = .next t ∧ Rule.Killed s t s.cg.gang)) ∧
  (∀ (s : State) (stop : Bool) (c : Fin 256), ∃ t, exec (.halt stop c) s = .next t ∧ Rule.Killed s t s.cg.gang ∧
    ∃ e rest, t.errs = s.errs ++ e :: rest ∧ e.cls = 0x0E ∧ e.sub = c.val ∧ e.ctx = some s.gg.ctx) ∧
  (∀ (s : State) (stop : Bool),
    (∃ t, exec (.tmask stop) s = .next t ∧ Rule.SetsSplit s t { s.split with tmsk := true }) ∧
    (∃ t, exec (.tunmask stop) s = .next t ∧ Rule.SetsSplit s t { s.split with tmsk := false }) ∧
    (∃ t, exec (.yield stop) s = .next t ∧ { t with gangs := s.gangs } = s ∧ t.gg = { s.gg with quantumEnd := s.sid } ∧
      ∀ n, n ≠ s.cg.gang → t.gang n = s.gang n)) ∧
  (∀ (s : State) (stop : Bool) (a : KReg),
    (∃ t, exec (.timehint stop a) s = .next t ∧ { t with gangs := s.gangs } = s ∧
      t.gg = { s.gg with est := min (s.k a).toNat 0xFFFFFFFF, estAt := s.sid } ∧ ∀ n, n ≠ s.cg.gang → t.gang n = s.gang n) ∧
    (∃ t, exec (.timerset stop a true) s = .next t ∧ Rule.OneGroup s t s.cur.grp ∧
      t.cg = { s.cg with r := { s.cg.r with tcmp := s.k a, arm := true } }) ∧
    (∃ t, exec (.timerset stop a false) s = .next t ∧ Rule.OneGroup s t s.cur.grp ∧ t.cg = { s.cg with r := { s.cg.r with arm := false } }) ∧
    ((s.k a).toNat ≤ s.sid → exec (.sleep stop a) s = .next s) ∧
    (s.sid < (s.k a).toNat → ∃ t, exec (.sleep stop a) s = .next t ∧
      Rule.SetsSplit s t { s.split with waits := s.split.waits ++ [.sleep (s.k a).toNat] })) ∧
  (∀ (s : State) (grp split : Nat),
    let g := s.group grp
    let x := Sparse.get Split.zero g.splits split
    (∃ y ∈ s.groups, y.1 = grp ∧ ∃ z ∈ y.2.splits, z.1 = split) → (s.gang g.gang).saved = none →
    ∃ t, exec (.sleepWake grp split) s = .next t ∧ { t with groups := s.groups } = s ∧
      (∀ key, key ≠ grp → t.group key = s.group key) ∧ { t.group grp with splits := g.splits } = g ∧
      let y := Sparse.get Split.zero (t.group grp).splits split
      { y with waits := x.waits } = x ∧ ∀ w, w ∈ y.waits ↔ w ∈ x.waits ∧ ∀ c, w = .sleep c → s.sid < c) ∧
  (∀ (s : State) (grp : Nat),
    let g := s.group grp
    let now := g.timer + (s.cycle - g.since)
    let due := g.r.arm = true ∧ g.r.tcmp.toNat ≤ now
    let ok := fun (x : Nat × Split) => x.2.tlev = false ∧ x.2.tmsk = false ∧ (x.2.waits = [] ∨ g.kind = .tensor)
    (∃ y ∈ s.groups, y.1 = grp) → (s.gang g.gang).saved = none → Rule.Rising g.splits →
    (¬due → g.timerPend = false → exec (.timerTrap grp) s = .next s) ∧
    (due ∨ g.timerPend = true → (∀ x ∈ g.splits, ¬ok x) → ∃ t, exec (.timerTrap grp) s = .next t ∧ { t with groups := s.groups } = s ∧
      (t.group grp).timerPend = true ∧ (t.group grp).splits = g.splits ∧ (due → (t.group grp).r = { g.r with arm := false })) ∧
    (due ∨ g.timerPend = true → ∀ x ∈ g.splits, ok x → (∀ y ∈ g.splits, ok y → x.1 ≤ y.1) → g.tvec ≠ 0 → g.kind = .shading →
      ∃ t, exec (.timerTrap grp) s = .next t ∧ t.errs = s.errs ∧ t.mem = s.mem ∧ (t.group grp).timerPend = false ∧
        Rule.Entered x.2 (Sparse.get Split.zero (t.group grp).splits x.1) (Rule.trapOf .timer 0 0 0) 0 g.tvec x.2.pc x.2.pc ∧
        (∀ n, n ≠ x.1 → Sparse.get Split.zero (t.group grp).splits n = Sparse.get Split.zero g.splits n) ∧
        (due → (t.group grp).r = { g.r with arm := false })))

namespace Sys2Proof.Rule

/-- The record in kA to kA+7: byte 8i + j is byte j of kA+i (R155). -/
def recordOf (s : State) (a : KReg) : List Byte := (List.range 64).map fun n => BitVec.ofNat 8 ((s.k (a + Fin.ofNat 64 (n / 8))).toNat / 2 ^ (8 * (n % 8)))
/-- A record with GIDX i (R109). -/
def withGidx (r : List Byte) (i : Nat) : List Byte := r.take 0x14 ++ bytes 4 i ++ r.drop 0x18
/-- A little-endian field of a record. -/
def fieldOf (r : List Byte) (off n : Nat) : Nat := ((List.range n).map fun i => (r.getD (off + i) 0).toNat * 2 ^ (8 * i)).sum
/-- The scheduler that acts for the issuing gang: unit 20 of the base die of its quadrant (R9, R113). -/
def schedOf (s : State) : Nat :=
  let d := s.gg.core / 128
  128 * (16 + (if d < 8 then d / 2 else if d < 16 then (d - 8) / 2 else d - 16)) + 20
/-- A FENCE at PKG scope can be performed (R204). -/
def fencedPkg (s : State) : Prop := fenced s ∧ (s.kind = .shading → ∀ x ∈ s.pend, dieOf x.src ≠ s.die)

/-- A tile with nothing under way but plain withheld stores. -/
def CalmTile (s : State) : Prop :=
  s.kind = .tensor ∧ s.cg.kind = .tensor ∧ s.orderedHere = false ∧ (∀ r ∈ s.replies, r.grp ≠ s.cur.grp) ∧ s.cg.xfers = [] ∧
  s.cg.xfm = [] ∧ s.cg.tile.dpush = .none ∧ s.cg.tile.mcsems = [] ∧ s.cg.tile.ring.relpend = 0 ∧ s.pend = [] ∧
  ∀ e ∈ s.cg.tile.swb, (∃ sc, e = .boundary sc) ∨ ∃ pa d p l c, e = .store pa d p l c ∧ ∀ i < d.length, paHasHome (pa + i) = true
/-- Memory after the withheld stores have been performed in order (R33). -/
def Released (s t : State) : Prop :=
  ∀ b, t.memByte b = ((s.cg.tile.swb.filterMap fun e => match e with
    | .store pa d _ _ _ => if pa ≤ b ∧ b < pa + d.length then some (d.getD (b - pa) 0) else none
    | _ => none).getLast?).getD (s.memByte b)

/-- The lanes of a split without deferred entries have ended (R113, R157). -/
def LanesEnded (s t : State) : Prop :=
  (∀ x ∈ t.cg.splits, x.1 ≠ s.cur.split) ∧ (∀ n, n ≠ s.cur.split → (∃ x ∈ t.cg.splits, x.1 = n) ↔ ∃ x ∈ s.cg.splits, x.1 = n) ∧
  (t.gang s.cg.gang).alive = (s.gang s.cg.gang).alive - (if ∃ x ∈ s.cg.splits, x.1 ≠ s.cur.split then 0 else 1)

end Sys2Proof.Rule

/-- For every state: a queue that is missing or another context's takes PERM 1, and more records than its capacity ILLEGAL 5; on a
shading core whose FENCE is performed, SPAWN with room appends the record of kA to kA+7 and SPAWNG one record for each GIDX below
GCOUNT, and without room the bundle stalls. An append writes the 64 bytes at the ring's slot and advances the tail. On a tile the
push is deferred, and a second takes ILLEGAL 4. JOINW of a record that is not 64-byte aligned takes ALIGN 7; on a shading core it
adds kB to COUNT, sends a JOIN record when COUNT becomes negative, and BIND sets the gang's JOIN. -/
def Obligations.SpawnAndJoin : Prop :=
  (∀ (s : State) (stop many : Bool) (a b : KReg),
    let i := if many then Instr.spawng stop a b else .spawn stop a b
    let r := Rule.recordOf s a
    let qn := (s.k b).toNat % 2 ^ 32
    let n := if many then Rule.fieldOf r 0x34 4 else 1
    (s.queue? qn = none → exec i s = .next (s.takeTrap (Rule.trapOf .perm 1 0 0))) ∧
    (∀ q, s.queue? qn = some q →
      (q.owner ≠ s.gg.ctx → exec i s = .next (s.takeTrap (Rule.trapOf .perm 1 0 0))) ∧
      (q.owner = s.gg.ctx → 2 ^ q.logcap < n → exec i s = .next (s.takeTrap (Rule.trapOf .illegal 5 0 0))) ∧
      (q.owner = s.gg.ctx → n ≤ 2 ^ q.logcap →
        let held := (q.tail + 2 ^ 32 - q.head) % 2 ^ 32
        (s.kind = .shading → Rule.fencedPkg s → n + held ≤ 2 ^ q.logcap → exec i s = .next (((List.range n).map fun j =>
          if many then Rule.withGidx r j else r).foldl (fun t x => t.appendRecord (Rule.schedOf s) qn x none) s)) ∧
        (s.kind = .shading → held ≤ 2 ^ q.logcap → 2 ^ q.logcap < n + held → exec i s = .next s.stall) ∧
        (s.kind = .tensor → s.cg.tile.dpush ≠ .none → exec i s = .next (s.takeTrap (Rule.trapOf .illegal 4 0 0))) ∧
        (s.kind = .tensor → s.cg.tile.dpush = .none → ∃ t, exec i s = .next t ∧ Rule.OneGroup s t s.cur.grp ∧
          t.cg = { s.cg with tile := { s.cg.tile with dpush := if many then .spawng qn r n else .spawn qn r } })))) ∧
  (∀ (s : State) (src qn pa : Nat) (r : List Byte) (q : Queue), Rule.Still s → r.length = 64 → s.queue? qn = some q →
    s.ringWritable q.owner (q.ring + 64 * (q.tail % 2 ^ q.logcap)) = some pa → paHasHome pa = true → pa % 64 = 0 →
    let t := s.appendRecord src qn r none
    t.queue? qn = some { q with tail := (q.tail + 1) % 2 ^ 32, waiting := q.waiting ++ [(s.sid, none)] } ∧
    (∀ m, m ≠ qn → t.queue? m = s.queue? m) ∧ t.groups = s.groups ∧
    ∀ x, t.memByte x = if pa ≤ x ∧ x < pa + 64 then r.getD (x - pa) 0 else s.memByte x) ∧
  (∀ (s : State) (stop bind : Bool) (a b : KReg),
    let va := (s.k a).toNat
    let delta := (s.k b).toNat
    (va % 64 ≠ 0 → s.kind = .tensor ∨ Rule.fencedPkg s → exec (.joinw stop a b bind) s = .next (s.takeTrap (Rule.trapOf .align 7 0 va))) ∧
    (∀ w, va % 64 = 0 → va < 2 ^ 52 → s.kind = .tensor → s.cg.tile.dpush = .none →
      s.rg.tile.wins.find? (fun w => decide (w.len ≠ 0) && decide (w.vbase ≤ va) && decide (va + 8 ≤ w.vbase + w.len)) = some w → w.perm = 3 →
      ∃ t, exec (.joinw stop a b bind) s = .next t ∧ Rule.OneGroup s t s.cur.grp ∧
        t.cg = { s.cg with tile := { s.cg.tile with dpush := .joinw va (w.pbase + (va - w.vbase)) delta bind } }) ∧
    (∀ pa, va % 64 = 0 → s.kind = .shading → Rule.fencedPkg s → Rule.Still s → s.xlate s.reqHere va .rw = .ok pa false none →
      let old := Rule.word s pa 8
      let new := (old + delta) % 2 ^ 64
      old = 0 ∨ new ≠ 0 → ∃ t, exec (.joinw stop a b bind) s = .next t ∧ Rule.WordSet s t pa 8 new ∧ t.groups = s.groups ∧
        t.queues = s.queues ∧ (t.errs = s.errs ↔ new < 2 ^ 63) ∧
        (2 ^ 63 ≤ new → ∃ e, t.errs = s.errs ++ [e] ∧ e.cls = 0x13 ∧ e.vaddr = va ∧ e.synd = 0) ∧
        t.gg = (if bind = true then { s.gg with rec_ := s.gg.rec_.take 0x20 ++ Rule.bytes 8 va ++ s.gg.rec_.drop 0x28 } else s.gg)))

/-- For every state: DONE on a shading core with a deferred entry continues there with its lanes; without one the split goes, and
when it was the group's last the gang has one live group less; beside a parked memory instruction the end waits for it. CKPT on a
shading core changes nothing. On a tile with nothing under way but withheld stores, CKPT and DONE leave every byte as the last
withheld store that covers it wrote it, and the buffer empty; DONE then ends the tile's lanes, and CKPT makes the registers the
checkpoint image with the next bundle as its PC and clears journal, deltas, arrivals and replay credits. -/
def Obligations.DoneAndCheckpoint : Prop :=
  (∀ (s : State) (stop : Bool), s.kind = .shading → (∀ r, .mem r ∉ s.split.waits) →
    (∀ a m rest, s.split.stack = (a, m) :: rest → ∃ t, exec (.done stop) s = .next t ∧
      t.split = { s.split with pc := a, mask := m, stack := rest, arrived := false, waits := [] } ∧ t.cg.r = s.cg.r ∧ t.mem = s.mem ∧
      t.gangs = s.gangs ∧ t.cur = { s.cur with jumped := true }) ∧
    (s.split.stack = [] → ∃ t, exec (.done stop) s = .next t ∧ Rule.LanesEnded s t ∧ t.mem = s.mem ∧ t.cg.r = s.cg.r)) ∧
  (∀ (s : State) (stop : Bool) (r : Replay), s.kind = .shading → .mem r ∈ s.split.waits →
    ∃ t, exec (.done stop) s = .next t ∧ Rule.SetsSplit s t { s.split with waits := s.split.waits ++ [.ending] }) ∧
  (∀ (s : State) (stop : Bool), s.kind = .shading → exec (.ckpt stop) s = .next s) ∧
  (∀ (s : State) (stop : Bool), Rule.CalmTile s →
    (s.split.stack = [] → ∃ t, exec (.done stop) s = .next t ∧ Rule.Released s t ∧ t.cg.tile.swb = [] ∧ Rule.LanesEnded s t) ∧
    (∃ t, exec (.ckpt stop) s = .next t ∧ Rule.Released s t ∧ t.pend = [] ∧ t.cg.r = s.cg.r ∧ t.cg.poison = s.cg.poison ∧
      t.cg.tile.swb = [] ∧ t.cg.tile.ck = s.cg.r ∧ t.cg.tile.ckpc = Rule.nextPc s ∧ t.cg.tile.ckPoison = s.cg.poison ∧
      t.cg.tile.journal = [] ∧ t.cg.tile.semDelta = [] ∧ t.cg.tile.arrivals = [] ∧ t.cg.tile.credit = [] ∧ t.cg.withheld = [] ∧
      t.cg.tile.spad = s.cg.tile.spad ∧ t.cg.tile.semCount = s.cg.tile.semCount))

/-- For every state: WINLD on a shading core and CSLD on a tile take ILLEGAL 2. An aligned table that translates replaces the 64
windows with the fields of its entries and writes 0, when no used entry is refused against those before it; else the table stays,
and kB holds 1 plus the first refused index and the reason. CSLD with no traversal in flight takes 1,024 words into the context's
store and writes 0 when every word is a microword, and else writes 1 with the index of the first that is not. A misaligned address
takes ALIGN 8. PTINV, once its FENCE is performed, drops exactly the context's cached translations of the 64 KiB page, the 2 MiB
page or the whole context, and changes no register and no byte. -/
def Obligations.PrivilegedControl : Prop :=
  (∀ (s : State) (stop : Bool) (a b : KReg),
    (s.kind = .shading → exec (.winld stop a b) s = .next (s.takeTrap (Rule.trapOf .illegal 2 0 0))) ∧
    (s.kind = .tensor → exec (.csld stop a b) s = .next (s.takeTrap (Rule.trapOf .illegal 2 0 0))) ∧
    (s.kind = .tensor → (s.k a).toNat % 2048 ≠ 0 → exec (.winld stop a b) s = .next (s.takeTrap (Rule.trapOf .align 8 0 (s.k a).toNat))) ∧
    (s.kind = .shading → s.traceHere = false → (s.k a).toNat % 8192 ≠ 0 →
      exec (.csld stop a b) s = .next (s.takeTrap (Rule.trapOf .align 8 0 (s.k a).toNat)))) ∧
  (∀ (s : State) (stop : Bool) (a b : KReg) (pa : Nat), s.kind = .tensor → (s.k a).toNat % 2048 = 0 →
    s.xlate s.reqHere (s.k a).toNat .r = .ok pa false none →
    let ent := fun i => (List.range 32).map fun j => s.dieByte s.die (pa + 32 * i + j)
    let win := fun i => ({ vbase := Rule.fieldOf (ent i) 0 8, len := Rule.fieldOf (ent i) 8 8, pbase := Rule.fieldOf (ent i) 16 8,
                           perm := Rule.fieldOf (ent i) 24 1 } : Win)
    let taken := fun i => (win i).len = 0 ∨ s.winRefusal s.gg.ctx (ent i) ((List.range i).map win) = none
    ((∀ i < 64, taken i) → ∃ t : State, exec (.winld stop a b) s = .next (t.setK b 0) ∧ t.mem = s.mem ∧
      t.cg = { s.cg with tile := { s.cg.tile with wins := (List.range 64).map win } }) ∧
    (∀ i n, i < 64 → (∀ j < i, taken j) → (win i).len ≠ 0 → s.winRefusal s.gg.ctx (ent i) ((List.range i).map win) = some n →
      ∃ t : State, exec (.winld stop a b) s = .next (t.setK b (BitVec.ofNat 64 (i + 1 + 256 * n))) ∧ t.mem = s.mem ∧ t.groups = s.groups)) ∧
  (∀ (s : State) (stop : Bool) (a b : KReg) (pa : Nat), s.kind = .shading → s.traceHere = false → (s.k a).toNat % 8192 = 0 →
    s.xlate s.reqHere (s.k a).toNat .r = .ok pa false none →
    let w := fun i => ((List.range 8).map fun j => (s.dieByte s.die (pa + 8 * i + j)).toNat * 2 ^ (8 * j)).sum
    ((∀ i < 1024, State.microOk (w i) = true) → ∃ t : State, exec (.csld stop a b) s = .next (t.setK b 0) ∧ t.groups = s.groups ∧ t.mem = s.mem ∧
      (t.ctx s.gg.ctx).store = some ((List.range 1024).map w) ∧ Sparse.get 0 t.coreStore s.src = s.gg.ctx + 1) ∧
    (∀ i < 1024, (∀ j < i, State.microOk (w j) = true) → State.microOk (w i) = false → ∃ t : State,
      exec (.csld stop a b) s = .next (t.setK b (BitVec.ofNat 64 (1 + 2 ^ 16 * i))) ∧ t.groups = s.groups ∧ t.mem = s.mem ∧
        t.coreStore = s.coreStore ∧ (t.ctx s.gg.ctx).store = (s.ctx s.gg.ctx).store)) ∧
  (∀ (s : State) (stop : Bool) (a : KReg) (n : InvSpan), Rule.fencedPkg s →
    let va := (s.k a).toNat
    ∃ t, exec (.ptinv stop a n) s = .next t ∧ { t with groups := s.groups, tlb := s.tlb } = s ∧ t.cg.r = s.cg.r ∧
      (∀ x, x ∈ t.tlb ↔ x ∈ s.tlb ∧ ¬(x.ctx = s.gg.ctx ∧ match n with
        | .all => True
        | .p64 => x.va = va / (if x.big then 2 ^ 21 else 2 ^ 16) * (if x.big then 2 ^ 21 else 2 ^ 16)
        | .p2m => x.va / 2 ^ 21 = va / 2 ^ 21)) ∧
      t.cg.tile.swb = (if s.kind = .tensor then s.cg.tile.swb ++ [.boundary .pkg] else s.cg.tile.swb))

namespace Sys2Proof.Rule

/-- The step s of a frame, if it has one. -/
def stepAt (f : Frame) (s : Nat) : PlanStep := f.steps.getD s { est := 0, drop := false, rank := 0, coef := 0, subst := 0 }
/-- The slack of R410 at boundary b with the steps of D dropped. -/
def slackAt (f : Frame) (D b now : Nat) : Int :=
  (f.deadline : Int) - f.margin - now - (((List.range f.steps.length).filter fun s => decide (b ≤ s) && D / 2 ^ s % 2 == 0).map fun s => (stepAt f s).est).sum
/-- Step s may be dropped at boundary b, and is not in D. -/
def mayDrop (f : Frame) (D b s : Nat) : Prop := b ≤ s ∧ s < f.steps.length ∧ ¬bitIn D s ∧ (stepAt f s).drop = true

/-- Decide (R410): f' is f after the decision at boundary b, the word the answer, and `ends` whether no step is left. The drops go by rising
RANK, only while the slack is negative, and stop when it is not or nothing may be dropped. -/
def Decided (f f' : Frame) (b now w : Nat) (ends : Prop) : Prop :=
  (∀ s, bitIn f.dropped s → bitIn f'.dropped s) ∧
  (∀ s, bitIn f'.dropped s → ¬bitIn f.dropped s → mayDrop f f.dropped b s ∧
    (∀ r, mayDrop f f'.dropped b r → (stepAt f s).rank < (stepAt f r).rank) ∧
    ((∀ r, bitIn f'.dropped r → ¬bitIn f.dropped r → (stepAt f r).rank ≤ (stepAt f s).rank) →
      slackAt f f'.dropped b now < (stepAt f s).est)) ∧
  (slackAt f f'.dropped b now < 0 → ∀ r, ¬mayDrop f f'.dropped b r) ∧
  (f'.late = true ↔ f.late = true ∨ slackAt f f'.dropped b now < 0) ∧
  (ends ↔ ∀ s, b ≤ s → s < f.steps.length → bitIn f'.dropped s) ∧
  (ends → w = 2 ^ 63 + f.handle * 2 ^ 40 + 0xFF ∧ f'.run = f.run) ∧
  (¬ends → ∃ n, b ≤ n ∧ n < f.steps.length ∧ ¬bitIn f'.dropped n ∧ (∀ s, b ≤ s → s < n → bitIn f'.dropped s) ∧
    (∀ s, bitIn f'.run s ↔ bitIn f.run s ∨ s = n) ∧ f'.next = n ∧ f'.start = now ∧ f'.slack = slackAt f f'.dropped b now ∧
    f'.open_ = f.open_ ∧
    w = f.handle * 2 ^ 40 + n + 2 ^ 32 * (if 0 < n ∧ bitIn f'.dropped (n - 1) then (stepAt f n).subst else (stepAt f n).coef))
/-- A step entry of a plan (R405). -/
def stepOf (e : List Byte) : PlanStep :=
  { est := fieldOf e 0 4, drop := fieldOf e 4 1 == 1, rank := fieldOf e 5 1, coef := fieldOf e 6 1, subst := fieldOf e 7 1 }
/-- Ranks are unique among droppable steps (R405). -/
def RanksUnique (l : List PlanStep) : Prop := l.Pairwise fun x y => x.drop = true → y.drop = true → x.rank ≠ y.rank

end Sys2Proof.Rule

/-- For every state: a misaligned plan takes ALIGN 4, a kept frame of the gang with the same plan and tag answers as at arm, a
header page that is not ordinary takes PERM 8, and a header with NSTEP 0 or above 32, BUDGET 0, a reserved field or a misaligned
RECADDR ILLEGAL 18. When every page is ordinary, the entries are well formed with unique ranks, and the gang keeps fewer than four
frames of fewer than 256, a new frame opens with the plan's fields, ARMT now and DEADLINE now + BUDGET, a handle no frame has, and
the decision of R410 at boundary 0 as its answer in kB. -/
def Obligations.GovernorArmsAFrame : Prop :=
  (∀ (s : State) (stop : Bool) (a b : KReg),
    let p := (s.k a).toNat % 2 ^ 52
    let tag := (s.k a).toNat / 2 ^ 52
    (p % 64 ≠ 0 → exec (.govarm stop a b) s = .next (s.takeTrap (Rule.trapOf .align 4 0 p))) ∧
    (∀ f, p % 64 = 0 → s.frames.find? (fun f => f.gang == s.cg.gang && f.plan == p && f.tag == tag) = some f →
      exec (.govarm stop a b) s = .next (s.setK b (BitVec.ofNat 64 f.atArm))) ∧
    (p % 64 = 0 → (∀ f ∈ s.frames, ¬(f.gang = s.cg.gang ∧ f.plan = p ∧ f.tag = tag)) →
      (s.ordinary s.gg.ctx p = none → exec (.govarm stop a b) s = .next (s.takeTrap (Rule.trapOf .perm 8 0 p))) ∧
      (∀ pa, s.ordinary s.gg.ctx p = some pa →
        let h := (List.range 64).map fun i => s.byteAt (pa + i)
        let nstep := Rule.fieldOf h 0 1
        let rec_ := Rule.fieldOf h 0x10 8
        let okHeader := 1 ≤ nstep ∧ nstep ≤ 32 ∧ Rule.fieldOf h 4 4 ≠ 0 ∧ rec_ % 64 = 0 ∧
          ∀ i < 64, (1 ≤ i ∧ i < 4) ∨ (12 ≤ i ∧ i < 16) ∨ 0x18 ≤ i → h.getD i 0 = 0
        (¬okHeader → exec (.govarm stop a b) s = .next (s.takeTrap (Rule.trapOf .illegal 18 0 0))) ∧
        (∀ pe : Nat → Nat, okHeader → (∀ i < nstep, s.ordinary s.gg.ctx (p + 0x40 + 16 * i) = some (pe i)) →
          (s.ordinary s.gg.ctx rec_).isSome = true →
          let e := fun i => (List.range 16).map fun j => s.byteAt (pe i + j)
          let steps := (List.range nstep).map fun i => Rule.stepOf (e i)
          (∀ i < nstep, Rule.fieldOf (e i) 4 1 ≤ 1 ∧ (Rule.fieldOf (e i) 4 1 = 0 → Rule.fieldOf (e i) 5 1 = 0) ∧ Rule.fieldOf (e i) 8 8 = 0) →
          Rule.RanksUnique steps → (s.frames.filter fun f => f.gang == s.cg.gang).length < 4 → s.frames.length < 256 →
          (∀ f ∈ s.frames, f.no < s.frameNo) →
          ∃ t f0 f' w ends, exec (.govarm stop a b) s = .next (State.setK t b (BitVec.ofNat 64 w)) ∧
            f' ∈ t.frames ∧ f'.atArm = w ∧ Rule.Decided f0 f' 0 s.sid w ends ∧ t.frames.length = s.frames.length + 1 ∧
            (∀ f ∈ s.frames, f ∈ t.frames ∧ f.handle ≠ f0.handle) ∧ f0.handle < 256 ∧
            f0.gang = s.cg.gang ∧ f0.plan = p ∧ f0.tag = tag ∧ f0.steps = steps ∧ f0.armt = s.sid ∧ f0.margin = Rule.fieldOf h 8 4 ∧
            f0.recaddr = rec_ ∧ f0.deadline = s.sid + Rule.fieldOf h 4 4 ∧ f0.dropped = 0 ∧ f0.run = 0 ∧ f0.open_ = true ∧
            f0.late = false ∧ f0.ord = s.orderedHere ∧ f'.steps = steps ∧ f'.deadline = f0.deadline ∧ f'.plan = p ∧ f'.tag = tag))))

/-- For every state: with no kept frame of that handle GOVSTEP and GOVQ take ILLEGAL 19; a report with END set or of a step that
never ran takes ILLEGAL 20; a step already answered answers again and changes no frame. The first report outside ordered mode
makes EST of the step (7 × EST + m) / 8, decides at the next boundary, records the answer and writes it to kB; while a step is
left only that frame changes, and when none is left the frame closes with CLOSET now and SLACK of R407. GOVQ writes word N of the
record and changes no frame. -/
def Obligations.GovernorStepsAndQueries : Prop :=
  (∀ (s : State) (stop : Bool) (a b : KReg) (n : Fin 8),
    let h := (s.k a).toNat / 2 ^ 40 % 256
    let st := (s.k a).toNat % 256
    ((∀ f ∈ s.frames, ¬(f.gang = s.cg.gang ∧ f.handle = h)) →
      exec (.govstep stop a b) s = .next (s.takeTrap (Rule.trapOf .illegal 19 0 0)) ∧
      exec (.govq stop a b n) s = .next (s.takeTrap (Rule.trapOf .illegal 19 0 0))) ∧
    (∀ f, s.frames.find? (fun f => f.gang == s.cg.gang && f.handle == h) = some f →
      ((s.k a).toNat ≥ 2 ^ 63 ∨ ¬Rule.bitIn f.run st ∨ 32 ≤ st → exec (.govstep stop a b) s = .next (s.takeTrap (Rule.trapOf .illegal 20 0 0))) ∧
      ((s.k a).toNat < 2 ^ 63 → Rule.bitIn f.run st → st < 32 →
        (∀ x, f.answers.find? (fun x => x.1 == st) = some x → exec (.govstep stop a b) s = .next (s.setK b (BitVec.ofNat 64 x.2))) ∧
        ((∀ x ∈ f.answers, x.1 ≠ st) → f.ord = false → f.steps.length ≤ 32 → Rule.RanksUnique f.steps →
          (s.frames.filter fun g => g.no == f.no) = [f] →
          let m := min (s.sid - f.start) (2 ^ 32 - 1)
          let f1 := { f with steps := if st < f.steps.length then f.steps.set st { Rule.stepAt f st with est := (7 * (Rule.stepAt f st).est + m) / 8 } else f.steps }
          ∃ t f' w ends, exec (.govstep stop a b) s = .next (State.setK t b (BitVec.ofNat 64 w)) ∧ f' ∈ t.frames ∧
            Rule.Decided f1 f' (st + 1) s.sid w ends ∧ Sparse.get 0 f'.answers st = w ∧ f'.steps = f1.steps ∧
            (ends → f'.open_ = false ∧ f'.closet = s.sid ∧ f'.next = 0xFF ∧ f'.slack = (f.deadline : Int) - f.margin - s.sid) ∧
            (¬ends → { t with frames := s.frames } = s) ∧
            (∀ g, g.no ≠ f.no → (g ∈ t.frames ↔ g ∈ s.frames)))) ∧
      (let x := match n.val with
        | 0 => f.armt
        | 1 => f.closet
        | 2 => f.deadline
        | 3 => (f.slack % 2 ^ 64).toNat
        | 4 => f.dropped % 2 ^ 32 + 2 ^ 32 * f.run
        | 5 => f.steps.length % 2 ^ 8 + 2 ^ 8 * (f.next % 2 ^ 8) +
          2 ^ 16 * ((if f.open_ then 1 else 0) + (if f.late then 2 else 0) + (if f.ord then 4 else 0) + (if f.abandoned then 8 else 0)) +
          2 ^ 24 * (f.handle % 2 ^ 8) + 2 ^ 32 * (f.tag % 2 ^ 16)
        | _ => 0
       exec (.govq stop a b n) s = .next (s.setK b (BitVec.ofNat 64 x)))))

namespace Sys2Proof.Rule

/-- A stream of the issuing tile; only it changes. -/
def strm (s : State) (i : Nat) : Stream := Sparse.get Stream.zero s.cg.tile.streams i
def StreamSet (s t : State) (i : Nat) (x : Stream) : Prop :=
  OneGroup s t s.cur.grp ∧ { t.cg with tile := { t.cg.tile with streams := s.cg.tile.streams } } = s.cg ∧
  strm t i = x ∧ ∀ j, j ≠ i → strm t j = strm s j
/-- E and TOTAL of a stream, and the address of its element n (R280, R283). -/
def esz (x : Stream) : Nat := 2 ^ (x.esz + 2)
def total (x : Stream) : Nat := x.c.getD 0 1 * x.c.getD 1 1 * x.c.getD 2 1 * x.c.getD 3 1
def elemAddr (x : Stream) (n : Nat) : Nat :=
  let n := if x.wrap then n % total x else n
  let c := fun i => x.c.getD i 1
  let d := fun i => x.d.getD i 0
  ((x.base : Int) + (n % c 0 : Nat) * d 0 + (n / c 0 % c 1 : Nat) * d 1 + (n / (c 0 * c 1) % c 2 : Nat) * d 2 + (n / (c 0 * c 1 * c 2) : Nat) * d 3).toNat
/-- Four counts and strides, whole elements in the buffer, and, without WRAP, no element past TOTAL. -/
def Shaped (x : Stream) : Prop :=
  x.c.length = 4 ∧ x.d.length = 4 ∧ x.buf.length % esz x = 0 ∧ (∀ c ∈ x.c, 0 < c) ∧
  (x.wrap = false → x.dir = .rd → x.cons + x.buf.length / esz x ≤ total x) ∧ (x.wrap = false → x.dir = .wr → x.cons ≤ total x) ∧
  (x.dir = .wr → x.buf.length / esz x ≤ x.cons)
/-- The buffered elements of a write stream, oldest first, with their addresses. -/
def buffered (x : Stream) (k : Nat) : List (Nat × List Byte) :=
  (List.range k).map fun j => (elemAddr x (x.cons - x.buf.length / esz x + j), ((x.buf.drop (esz x * j)).take (esz x)).map (·.1))
/-- A scratchpad after pieces have been written in order. -/
def SpadAfter (a b : Tile) (ps : List (Nat × List Byte)) : Prop :=
  ∀ x, Sparse.get 0 b.spad x = match (ps.filter fun p => decide (p.1 ≤ x) && decide (x < p.1 + p.2.length)).getLast? with
    | some p => p.2.getD (x - p.1) 0
    | none => Sparse.get 0 a.spad x
/-- The bounds of a pattern (R282). -/
def patLo (x : Stream) : Int := (List.range 4).foldl (fun a i => a + min 0 (((x.c.getD i 1 : Int) - 1) * x.d.getD i 0)) x.base
def patHi (x : Stream) : Int := (List.range 4).foldl (fun a i => a + max 0 (((x.c.getD i 1 : Int) - 1) * x.d.getD i 0)) x.base + esz x - 1
/-- The byte of the row at CONS that an access reads: from the buffer, or from the scratchpad as it stood before the bundle (R283). -/
def rowByte (s : State) (x : Stream) (b : Nat) : Byte :=
  if b < x.buf.length then (x.buf.getD b (0, false)).1 else Sparse.get 0 s.rg.tile.spad (elemAddr x (x.cons + b / esz x) + b % esz x)

end Sys2Proof.Rule

/-- For every state: SPAT sets one count and stride of an unbound stream, or takes ILLEGAL 7 or 8. SBIND of a stream that holds no
unwritten element binds it with its operands, or takes the first failing check of R282 and leaves it unbound. SRST and SRST.STOP
discard or write the buffer and restart or unbind, and SDRAIN writes every buffered element of a write stream at its pattern
address, in order, changing no other byte. SSTAT shows the fields of R286. SPEEK puts the next 128 bytes into one tile row and
moves no CONS, or traps 7, 8 or 6. A transfer unit brings whole elements in order or writes the oldest ones, and changes nothing
else. -/
def Obligations.StreamsBindAndMove : Prop :=
  (∀ (s : State) (sr : SReg) (a b : KReg) (n : Fin 4),
    let x := Rule.strm s sr
    let c := (s.k a).toNat
    let d := (s.k b).toInt
    let fits := 1 ≤ c ∧ c ≤ 65535 ∧ -(2 ^ 23) ≤ d ∧ d < 2 ^ 23
    (x.dir ≠ .unbound → exec (.spat sr a b n) s = .next (s.takeTrap (Rule.trapOf .illegal 7 0 0))) ∧
    (x.dir = .unbound → ¬fits → exec (.spat sr a b n) s = .next (s.takeTrap (Rule.trapOf .illegal 8 0 0))) ∧
    (x.dir = .unbound → fits → ∃ t, exec (.spat sr a b n) s = .next t ∧ Rule.StreamSet s t sr { x with c := x.c.set n c, d := x.d.set n d })) ∧
  (∀ (s : State) (sr : SReg) (a : KReg) (e : Fin 7) (wrap wr : Bool), (Rule.strm s sr).c.length = 4 → (Rule.strm s sr).d.length = 4 →
    ((Rule.strm s sr).dir = .wr → (Rule.strm s sr).buf = []) →
    let ka := (s.k a).toNat
    let x := { Rule.strm s sr with esz := e, base := ka % 2 ^ 23, wrap := wrap, dir := if wr then .wr else .rd, cons := 0, buf := [] }
    let t1 := ka < 2 ^ 23
    let t2 := x.base % Rule.esz x = 0 ∧ ∀ d ∈ x.d, d % Rule.esz x = 0
    let t3 := Rule.total x < 2 ^ 32
    let t4 := 0 ≤ Rule.patLo x ∧ Rule.patHi x ≤ 0x7FFFFF
    (t1 → t2 → t3 → t4 → ∃ t ep, exec (.sbind sr a e wrap wr) s = .next t ∧ Rule.StreamSet s t sr { x with epoch := ep }) ∧
    (∀ cls sub, (¬t1 ∧ cls = .perm ∧ sub = 3) ∨ (t1 ∧ ¬t2 ∧ cls = .align ∧ sub = 3) ∨ (t1 ∧ t2 ∧ ¬t3 ∧ cls = .illegal ∧ sub = 8) ∨
        (t1 ∧ t2 ∧ t3 ∧ ¬t4 ∧ cls = .perm ∧ sub = 3) →
      ∃ u : State, exec (.sbind sr a e wrap wr) s = .next (u.takeTrap (Rule.trapOf cls sub 0 0)) ∧ (Rule.strm u sr).dir = .unbound)) ∧
  (∀ (s : State) (sr : SReg) (stop : Bool),
    let x := Rule.strm s sr
    Rule.Shaped x →
    (x.dir = .unbound → exec (.srst sr stop) s = .next s ∧ exec (.sdrain sr) s = .next s) ∧
    (x.dir = .rd → exec (.sdrain sr) s = .next s ∧ ∃ t, exec (.srst sr stop) s = .next t ∧ Rule.StreamSet s t sr
      (if stop then { x with dir := .unbound, wrap := false, esz := 0, base := 0, cons := 0, buf := [], epoch := x.epoch + 1 }
       else { x with cons := 0, buf := [], epoch := x.epoch + 1 })) ∧
    (x.dir = .wr → let ps := Rule.buffered x (x.buf.length / Rule.esz x)
      (∃ t, exec (.sdrain sr) s = .next t ∧ Rule.SpadAfter s.cg.tile t.cg.tile ps ∧ Rule.strm t sr = { x with buf := [] } ∧ t.cg.r = s.cg.r) ∧
      ∃ t, exec (.srst sr stop) s = .next t ∧ Rule.SpadAfter s.cg.tile t.cg.tile ps ∧ t.cg.r = s.cg.r ∧ (Rule.strm t sr).buf = [] ∧
        (Rule.strm t sr).cons = 0 ∧ (Rule.strm t sr).c = x.c ∧ (Rule.strm t sr).d = x.d ∧ ((Rule.strm t sr).dir = .unbound ↔ stop = true))) ∧
  (∀ (s : State) (sr : SReg) (a : KReg),
    let x := Sparse.get Stream.zero s.rg.tile.streams sr
    let cons := if x.wrap then x.cons % (x.c.foldl (· * ·) 1) else x.cons
    exec (.sstat sr a) s = .next (s.setK a (BitVec.ofNat 64 (cons % 2 ^ 32 * 2 ^ 32 + x.buf.length * 2 ^ 8 +
      (if x.dir ≠ .unbound ∧ x.wrap = false ∧ x.cons = x.c.foldl (· * ·) 1 then 16 else 0) + (if x.wrap then 8 else 0) +
      (if x.dir = .wr then 4 else 0) + (if x.dir ≠ .unbound then 1 else 0))))) ∧
  (∀ (s : State) (sr : SReg) (d : TReg) (n : Fin 32), s.cg.kind = .tensor →
    let x := Rule.strm s sr
    let e := Rule.esz x
    (x.dir ≠ .rd → exec (.speek sr d n) s = .next (s.takeTrap (Rule.trapOf .illegal 7 0 0))) ∧
    (x.dir = .rd → 128 < e → exec (.speek sr d n) s = .next (s.takeTrap (Rule.trapOf .illegal 8 0 0))) ∧
    (Rule.Shaped x → x.dir = .rd → e ≤ 128 →
      (x.wrap = false → Rule.total x < x.cons + 128 / e → exec (.speek sr d n) s = .next (s.takeTrap (Rule.trapOf .illegal 6 0 0))) ∧
      (x.wrap = true ∨ x.cons + 128 / e ≤ Rule.total x → (∀ y ∈ x.buf, y.2 = false) → s.rg.tile.spadPoison = [] →
        ∃ t, exec (.speek sr d n) s = .next t ∧ Rule.OneGroup s t s.cur.grp ∧ t.cg.r.k = s.cg.r.k ∧ t.cg.r.v = s.cg.r.v ∧
          t.cg.tile.spad = s.cg.tile.spad ∧ { Rule.strm t sr with buf := x.buf } = x ∧
          (∀ m, m ≠ d.val → Sparse.get [] t.cg.r.t m = Sparse.get [] s.cg.r.t m) ∧
          (∀ b < 128, (Sparse.get [] t.cg.r.t d).getD (128 * n + b) 0 = Rule.rowByte s x b) ∧
          (∀ b < 8192, b < 128 * n ∨ 128 * n + 128 ≤ b → (Sparse.get [] t.cg.r.t d).getD b 0 = (Sparse.get [] s.cg.r.t d).getD b 0)))) ∧
  (∀ (s : State) (grp : Nat) (sr : SReg), (∃ y ∈ s.groups, y.1 = grp) → Rule.Rising s.groups →
    let g := s.group grp
    let x := Sparse.get Stream.zero g.tile.streams sr
    let e := Rule.esz x
    let k := max 1 (64 / e)
    Rule.Shaped x →
    (x.dir = .unbound → exec (.transferUnit grp sr) s = .next s) ∧
    (x.dir = .rd → let m := min (min k ((1024 - x.buf.length) / e)) (if x.wrap then k else Rule.total x - x.cons - x.buf.length / e)
      ∃ t, exec (.transferUnit grp sr) s = .next t ∧ Rule.OneGroup s t grp ∧
        { t.group grp with tile := { (t.group grp).tile with streams := g.tile.streams } } = g ∧
        let y := Sparse.get Stream.zero (t.group grp).tile.streams sr
        { y with buf := x.buf } = x ∧ y.buf.map (·.1) = x.buf.map (·.1) ++ (List.range (m * e)).map fun b =>
          Sparse.get 0 g.tile.spad (Rule.elemAddr x (x.cons + x.buf.length / e + b / e) + b % e)) ∧
    (x.dir = .wr → let m := min k (x.buf.length / e)
      ∃ t, exec (.transferUnit grp sr) s = .next t ∧ Rule.OneGroup s t grp ∧ (t.group grp).r = g.r ∧
        Rule.SpadAfter g.tile (t.group grp).tile (Rule.buffered x m) ∧
        Sparse.get Stream.zero (t.group grp).tile.streams sr = { x with buf := x.buf.drop (m * e) }))

namespace Sys2Proof.Rule

/-- A rectangle operand that R287 accepts for the issuing gang. -/
def rectOk (s : State) (r : Nat) : Prop :=
  let x0 := r % 16
  let x1 := r / 16 % 16
  let y0 := r / 2 ^ 8 % 8
  let y1 := r / 2 ^ 12 % 8
  let g := s.gg
  r < 2 ^ 15 ∧ r / 2 ^ 11 % 2 = 0 ∧ x0 ≤ x1 ∧ y0 ≤ y1 ∧ g.x0 ≤ x0 ∧ x1 < g.x0 + fieldOf g.rec_ 0x0A 1 ∧ g.y0 ≤ y0 ∧
  y1 < g.y0 + fieldOf g.rec_ 0x0B 1
/-- The groups on the tiles of a rectangle, row by row: group (y - y0)·W + (x - x0) of the gang (R116, R287). -/
def rectGroups (s : State) (r : Nat) : List Nat :=
  let g := s.gg
  (List.range (r / 2 ^ 12 % 8 + 1 - r / 2 ^ 8 % 8)).flatMap fun j => (List.range (r / 16 % 16 + 1 - r % 16)).map fun i =>
    128 * s.cg.gang + ((r / 2 ^ 8 % 8 + j - g.y0) * fieldOf g.rec_ 0x0A 1 + (r % 16 + i - g.x0))
/-- Multicasts of the issuing tile that have not landed everywhere. -/
def inFlight (s : State) : Nat :=
  ((s.casts.filter fun c => c.src == s.cur.grp && (match c.what with | .data _ _ _ => true | .sem _ => false)).map (·.no)).eraseDups.length
/-- A multicast of bytes to an address leaves for every tile of the rectangle; nothing else changes (R288, R289). -/
def Sent (s t : State) (r addr : Nat) (b : List Byte) : Prop :=
  { t with casts := s.casts, castNo := s.castNo } = s ∧ t.castNo = s.castNo + 1 ∧
  ∃ bad, t.casts = s.casts ++ (rectGroups s r).map fun k => { src := s.cur.grp, dst := k, no := s.castNo, what := .data addr b bad }
/-- A guide ring as SPAT.ring declares it (R292). -/
def newRing (ka kb : Nat) : GRing :=
  { rbase := ka, rslots := kb % 64, rsem := kb / 2 ^ 8, take := 0, rel := 0, relpend := 0, deliv := 0, locked := true, credits := [] }
/-- Only the guide ring of the issuing tile changes. -/
def RingSet (s t : State) (r : GRing) : Prop :=
  OneGroup s t s.cur.grp ∧ t.cg = { s.cg with tile := { s.cg.tile with ring := r } }

end Sys2Proof.Rule

/-- For every state: MCAST with a rectangle inside the gang, aligned and in range, sends its tile or its scratchpad lines to each
tile of the rectangle and changes nothing else, stalls with eight in flight, and else takes PERM 5, ILLEGAL 8, ALIGN 3 or PERM 3
in that order. MCSEM adds to the deferred list or takes ILLEGAL 9. SPAT.ring, GTAKE and GRLS declare the ring, claim the next slot
and return one, stall or trap as R292, R294 and R295 say. A cast that no earlier one of its source and destination precedes lands
whole, or increments its semaphore. A guide tile at the head of its destination's queue lands in its slot, counted in RSEM and
DELIV. -/
def Obligations.MulticastsAndGuideRing : Prop :=
  (∀ (s : State) (d : TReg) (a b : KReg),
    let r := (s.k a).toNat
    let kb := (s.k b).toNat
    let n := 64 * (kb / 2 ^ 46)
    let src := kb / 2 ^ 23 % 2 ^ 23
    let dst := kb % 2 ^ 23
    (¬Rule.rectOk s r → exec (.mcast d a b) s = .next (s.takeTrap (Rule.trapOf .perm 5 0 0)) ∧
      exec (.mcastSp a b) s = .next (s.takeTrap (Rule.trapOf .perm 5 0 0))) ∧
    (Rule.rectOk s r →
      (2 ^ 23 ≤ kb → exec (.mcast d a b) s = .next (s.takeTrap (Rule.trapOf .illegal 8 0 0))) ∧
      (kb < 2 ^ 23 → kb % 64 ≠ 0 → exec (.mcast d a b) s = .next (s.takeTrap (Rule.trapOf .align 3 0 0))) ∧
      (kb < 2 ^ 23 → kb % 64 = 0 → 0x800000 < kb + 8192 → exec (.mcast d a b) s = .next (s.takeTrap (Rule.trapOf .perm 3 0 0))) ∧
      (kb % 64 = 0 → kb + 8192 ≤ 0x800000 → (8 ≤ Rule.inFlight s → exec (.mcast d a b) s = .next s.stall) ∧
        (Rule.inFlight s < 8 → ∃ t, exec (.mcast d a b) s = .next t ∧ Rule.Sent s t r kb (s.t d))) ∧
      (n = 0 → exec (.mcastSp a b) s = .next (s.takeTrap (Rule.trapOf .illegal 8 0 0))) ∧
      (n ≠ 0 → dst % 64 ≠ 0 ∨ src % 64 ≠ 0 → exec (.mcastSp a b) s = .next (s.takeTrap (Rule.trapOf .align 3 0 0))) ∧
      (n ≠ 0 → dst % 64 = 0 → src % 64 = 0 → 0x800000 < dst + n ∨ 0x800000 < src + n →
        exec (.mcastSp a b) s = .next (s.takeTrap (Rule.trapOf .perm 3 0 0))) ∧
      (n ≠ 0 → dst % 64 = 0 → src % 64 = 0 → dst + n ≤ 0x800000 → src + n ≤ 0x800000 → Rule.inFlight s < 8 →
        ∃ t, exec (.mcastSp a b) s = .next t ∧ Rule.Sent s t r dst ((List.range n).map fun i => Sparse.get 0 s.rg.tile.spad (src + i))))) ∧
  (∀ (s : State) (a : KReg) (n : Fin 16),
    let r := (s.k a).toNat
    let l := s.cg.tile.mcsems
    (¬Rule.rectOk s r → exec (.mcsem a n) s = .next (s.takeTrap (Rule.trapOf .perm 5 0 0))) ∧
    (Rule.rectOk s r → 16 ≤ l.length → exec (.mcsem a n) s = .next (s.takeTrap (Rule.trapOf .illegal 9 0 0))) ∧
    (Rule.rectOk s r → l.length < 16 → ∃ t, exec (.mcsem a n) s = .next t ∧ Rule.OneGroup s t s.cur.grp ∧
      t.cg = { s.cg with tile := { s.cg.tile with mcsems := l ++ [(r, n.val)] } })) ∧
  (∀ (s : State) (a b : KReg),
    let ka := (s.k a).toNat
    let kb := (s.k b).toNat
    let r := s.cg.tile.ring
    let c := Sparse.get 0 s.cg.tile.semCount r.rsem
    (ka % 4096 = 0 → ka < 2 ^ 23 → kb < 2 ^ 12 → kb % 64 ≤ 32 → kb / 64 % 4 = 0 → ka + 4096 * (kb % 64) ≤ 0x800000 → r.deliv = r.rel →
      r.relpend = 0 → ∃ t, exec (.spatRing a b) s = .next t ∧ Rule.RingSet s t (Rule.newRing ka kb)) ∧
    (ka % 4096 ≠ 0 → exec (.spatRing a b) s = .next (s.takeTrap (Rule.trapOf .align 3 0 0))) ∧
    (ka % 4096 = 0 → ka < 2 ^ 23 → kb < 2 ^ 12 → kb % 64 ≤ 32 → kb / 64 % 4 = 0 → ka + 4096 * (kb % 64) ≤ 0x800000 →
      r.deliv ≠ r.rel ∨ r.relpend ≠ 0 → exec (.spatRing a b) s = .next (s.takeTrap (Rule.trapOf .illegal 10 0 0))) ∧
    (r.rslots = 0 → exec (.gtake a) s = .next (s.takeTrap (Rule.trapOf .illegal 10 0 0)) ∧
      exec .grls s = .next (s.takeTrap (Rule.trapOf .illegal 10 0 0))) ∧
    (r.rslots ≠ 0 → c = 0 → exec (.gtake a) s = .next s.stall) ∧
    (r.rslots ≠ 0 → c ≠ 0 → ∃ u t : State, exec (.gtake a) s = .next (t.setK a (BitVec.ofNat 64 (r.rbase + 4096 * (r.take % r.rslots)))) ∧
      Rule.SemSet s u r.rsem (c - 1) (-1) ∧ Rule.RingSet u t { r with take := (r.take + 1) % 2 ^ 32 }) ∧
    (r.rslots ≠ 0 → r.take = (r.rel + r.relpend) % 2 ^ 32 → exec .grls s = .next (s.takeTrap (Rule.trapOf .illegal 10 0 0))) ∧
    (r.rslots ≠ 0 → r.take ≠ (r.rel + r.relpend) % 2 ^ 32 → ∃ t, exec .grls s = .next t ∧ Rule.RingSet s t { r with relpend := r.relpend + 1 })) ∧
  (∀ (s : State) (idx : Nat) (c : CastRec), s.casts[idx]? = some c → (∃ x ∈ s.groups, x.1 = c.dst) → Rule.Rising s.groups →
    let g := s.group c.dst
    let first := ∀ e ∈ s.casts.take idx, ¬(e.src = c.src ∧ e.dst = c.dst)
    (¬first → exec (.multicastLand idx) s = .next s ∧ exec (.mcsemIncrement idx) s = .next s) ∧
    (∀ addr b bad, first → c.what = .data addr b bad → ∃ t, exec (.multicastLand idx) s = .next t ∧
      { t with groups := s.groups, casts := s.casts } = s ∧ t.casts = s.casts.eraseIdx idx ∧
      (∀ key, key ≠ c.dst → t.group key = s.group key) ∧ Rule.SpadAfter g.tile (t.group c.dst).tile [(addr, b)] ∧ (t.group c.dst).r = g.r) ∧
    (∀ n, first → c.what = .sem n → ∃ t, exec (.mcsemIncrement idx) s = .next t ∧ t.casts = s.casts.eraseIdx idx ∧
      (∀ key, key ≠ c.dst → t.group key = s.group key) ∧ (t.group c.dst).r = g.r ∧
      let old := Sparse.get 0 g.tile.semCount n
      Sparse.get 0 (t.group c.dst).tile.semCount n = min (old + 1) 0xFFFFFFFF ∧ (t.errs = s.errs ↔ old < 0xFFFFFFFF))) ∧
  (∀ (s : State) (die dest key idx : Nat) (p : PortTile), s.port[idx]? = some p → p.die = die → p.dest = dest →
    (∀ q ∈ s.port.take idx, ¬(q.die = die ∧ q.dest = dest)) → Rule.Rising s.groups → (∃ x ∈ s.groups, x.1 = key) →
    let g := s.group key
    let r := g.tile.ring
    let fits := fun (y : Group) => y.core = dest ∧ y.kind = .tensor ∧ (s.gang y.gang).saved = none ∧ (s.gang y.gang).ctx = p.ctx ∧
      y.tile.ring.rslots ≠ 0 ∧ y.tile.ring.locked = false ∧ (y.tile.ring.deliv + 2 ^ 32 - y.tile.ring.rel) % 2 ^ 32 < y.tile.ring.rslots
    (fits g → (∀ x ∈ s.groups, x.1 < key → ¬fits x.2) → ∃ t, exec (.guideDelivery die dest) s = .next t ∧ t.port = s.port.eraseIdx idx ∧
      (∀ x, x ≠ key → t.group x = s.group x) ∧ (t.group key).r = g.r ∧
      Rule.SpadAfter g.tile (t.group key).tile [(r.rbase + 4096 * (r.deliv % r.rslots), p.bytes)] ∧
      (t.group key).tile.ring = { r with deliv := (r.deliv + 1) % 2 ^ 32, credits := r.credits ++ [(p.ctx, p.credit)] } ∧
      Sparse.get 0 (t.group key).tile.semCount r.rsem = min (Sparse.get 0 g.tile.semCount r.rsem + 1) 0xFFFFFFFF) ∧
    ((∀ x ∈ s.groups, ¬fits x.2) → exec (.guideDelivery die dest) s = .next s))

namespace Sys2Proof.Rule

/-- A read stream gives a row of r bytes (R283): bound to read, whole elements, not past TOTAL, no marked byte. -/
def RowReady (s : State) (i r : Nat) : Prop :=
  let x := strm s i
  Shaped x ∧ x.dir = .rd ∧ r % esz x = 0 ∧ (x.wrap = true ∨ x.cons + r / esz x ≤ total x) ∧ (∀ y ∈ x.buf, y.2 = false) ∧
  s.rg.tile.spadPoison = []
/-- The streams after rows of r bytes have been read from some of them. -/
def StreamsRead (s t : State) (l : List (Nat × Nat)) : Prop :=
  ∀ j, strm t j = match l.find? fun p => p.1 == j with
    | some p => { strm s j with cons := (strm s j).cons + p.2 / esz (strm s j), buf := (strm s j).buf.drop p.2 }
    | none => strm s j
/-- A slot-5 instruction that completes n beats after issue: only the array and the rows read change, and it retires in order (R328). -/
def MatStep (s t : State) (n : Nat) (l : List (Nat × Nat)) : Prop :=
  OneGroup s t s.cur.grp ∧
  { t.cg with tile := { t.cg.tile with mat := s.cg.tile.mat, matBusy := s.cg.tile.matBusy, streams := s.cg.tile.streams },
              r := { t.cg.r with acc := s.cg.r.acc } } = s.cg ∧ StreamsRead s t l ∧
  ∃ c, t.cg.tile.matBusy = (s.cg.tile.matBusy.filter fun d => decide (s.cycle < d)) ++ [c] ∧ s.cycle + n ≤ c ∧
    ∀ d ∈ s.cg.tile.matBusy, d ≤ c
/-- The cell row or slot of an explicit or .NX form (R304). -/
def idx (p : Nat) : MIdx → Nat
  | .at m => m
  | .nx => p
/-- Chunk i of a row of bytes (R303). -/
def chunk (row : Nat → Byte) (i : Nat) : Nat := (row (2 * i)).toNat + 256 * (row (2 * i + 1)).toNat
/-- The array after a compute beat into slot n: every column folds over the cell rows, and PP moves on (R312, R304). -/
def Beat (s : State) (a b : Mat) (n : Nat) : Prop :=
  { b with ps := a.ps, pp := a.pp } = a ∧ b.pp = (n + 1) % 128 ∧
  ∀ m < 128, ∀ j < 128, b.ps.get (128 * m + j) =
    if m = n then (List.range 128).foldl (fun p i => cellStep a (s.f (mopFn a.mopw)).toNat i j p) (a.ps.get (128 * m + j))
    else a.ps.get (128 * m + j)
/-- MPUSH of a row with a scale row (R316, R319). -/
def Pushed (s t : State) (row sc : Nat → Byte) (l : List (Nat × Nat)) (m : MIdx) : Prop :=
  let a := s.cg.tile.mat
  MatStep s t 132 l ∧ t.cg.r = s.cg.r ∧ ∃ e : Mat, { e with xw := a.xw, xf := a.xf, xsc := a.xsc } = a ∧
    (∀ i < 128, Sparse.get 0 e.xw i = chunk row i ∧ Sparse.get 0 e.xf i = 0 ∧
      e.xsc.get i = if mopXs a.mopw then (sc (mopC a.mopw * i / 32)).toNat else 0x7F) ∧
    Beat s e t.cg.tile.mat (idx a.pp m)
/-- MLDS of a row with a scale row (R314, R315, R320). -/
def Loaded (s t : State) (row sc : Nat → Byte) (l : List (Nat × Nat)) (skip : Bool) (m : MIdx) : Prop :=
  let a := s.cg.tile.mat
  let b := t.cg.tile.mat
  let i := idx a.lp m
  let c := mopC a.mopw
  MatStep s t 132 l ∧ t.cg.r = s.cg.r ∧ { b with sw := a.sw, ssk := a.ssk, sws := a.sws, lp := a.lp } = a ∧ b.lp = (i + 1) % 128 ∧
  (∀ p < 128, ∀ j < 128, Sparse.get 0 b.sw (128 * p + j) = (if p = i then chunk row j else Sparse.get 0 a.sw (128 * p + j)) ∧
    b.sws.get (128 * p + j) = (if mopWs a.mopw ∧ c * i % 32 = 0 ∧ i ≤ p ∧ p < i + 32 / c then (sc j).toNat else a.sws.get (128 * p + j)) ∧
    (p ≠ i → Sparse.get 0 b.ssk (128 * p + j) = Sparse.get 0 a.ssk (128 * p + j)) ∧
    ∀ e < 16, bitIn (Sparse.get 0 b.ssk (128 * i + j)) e ↔
      e < c ∧ skip = true ∧ isAnnihilator a.mopw (s.f (mopFn a.mopw)).toNat (chunkElem c (mfBits (mopW a.mopw)) (chunk row j) e) = true)
/-- The tile row that MPUSH or MLDS reads, as before the bundle (R303, R329), with no marked word. -/
def tileByte (s : State) (t : TReg) (q i : Nat) : Byte := (s.t t).getD (256 * (q % 32) + i) 0
def TileClean (s : State) (t : TReg) (off n : Nat) : Prop := ∀ j, off ≤ 4 * j → 4 * j < off + n → .t t j ∉ s.rg.poison
/-- The record of one state of cell (p, j) (R333). -/
def cellRecord (m : Mat) (p j : Nat) : List Byte :=
  bytes 2 (Sparse.get 0 m.aw (128 * p + j)) ++ bytes 2 (Sparse.get 0 m.sw (128 * p + j)) ++ bytes 1 (m.aws.get (128 * p + j)) ++
  bytes 1 (m.sws.get (128 * p + j)) ++ bytes 2 (Sparse.get 0 m.ask (128 * p + j)) ++ bytes 2 (Sparse.get 0 m.ssk (128 * p + j)) ++
  bytes 2 (Sparse.get 0 m.xw p) ++ bytes 1 (m.xsc.get p) ++ bytes 1 (Sparse.get 0 m.xf p) ++ bytes 2 0 ++
  bytes 4 (m.ps.get (128 * p + j)).toNat ++ bytes 12 0
/-- Row p taken from an image, one state at an offset of each record; every other row as before (R333). -/
def ScannedIn (a b : Mat) (p off : Nat) (img : Nat → Byte) : Prop :=
  let le := fun (j o n : Nat) => ((List.range n).map fun i => (img (64 * j + off + o + i)).toNat * 2 ^ (8 * i)).sum
  { b with aw := a.aw, sw := a.sw, aws := a.aws, sws := a.sws, ask := a.ask, ssk := a.ssk, xw := a.xw, xsc := a.xsc, xf := a.xf, ps := a.ps } = a ∧
  ∀ q < 128, ∀ j < 128, let k := 128 * q + j
    if q = p then
      Sparse.get 0 b.aw k = le j 0 2 ∧ Sparse.get 0 b.sw k = le j 2 2 ∧ b.aws.get k = le j 4 1 ∧ b.sws.get k = le j 5 1 ∧
      Sparse.get 0 b.ask k = le j 6 2 ∧ Sparse.get 0 b.ssk k = le j 8 2 ∧ (b.ps.get k).toNat = le j 16 4 ∧
      Sparse.get 0 b.xw q = le 0 10 2 ∧ b.xsc.get q = le 0 12 1 ∧ Sparse.get 0 b.xf q = le 0 13 1 % 2
    else
      Sparse.get 0 b.aw k = Sparse.get 0 a.aw k ∧ Sparse.get 0 b.sw k = Sparse.get 0 a.sw k ∧ b.aws.get k = a.aws.get k ∧
      b.sws.get k = a.sws.get k ∧ Sparse.get 0 b.ask k = Sparse.get 0 a.ask k ∧ Sparse.get 0 b.ssk k = Sparse.get 0 a.ssk k ∧
      b.ps.get k = a.ps.get k ∧ Sparse.get 0 b.xw q = Sparse.get 0 a.xw q ∧ b.xsc.get q = a.xsc.get q ∧ Sparse.get 0 b.xf q = Sparse.get 0 a.xf q

end Sys2Proof.Rule

/-- For every state whose array is not frozen: MPUSH of a stream row or of a clean tile row loads the edge row with its chunks and
scales, folds each column of its slot over the cell rows, and moves PP; MACC folds with the edge row it finds; MLDS writes one row
of the shadow plane with its skip mask and, on the first row of a run with WS, the scales of the run, and moves LP. Rows of
streams are consumed, and each instruction retires 132 beats later and in order. A stream that is unbound, of an element size that
does not divide the row, or exhausted gives ILLEGAL 7, 8 or 6. A padding chunk and a chunk with every element skipped leave the
partial sum; entries 7 to 10 and, with 16-bit integers, 1, 2, 5 and 6 combine as R312 and R311 say. -/
def Obligations.MatrixBeats : Prop :=
  (∀ (s : State) (r : SReg) (m : MIdx) (skip : Bool), s.cg.tile.mat.frozen = false →
    let a := s.cg.tile.mat
    let x := Rule.strm s r
    let other := r.val ^^^ 1
    let first := mopWs a.mopw = true ∧ mopC a.mopw * Rule.idx a.lp m % 32 = 0
    (∀ n, (x.dir ≠ .rd ∧ n = 7) ∨ (x.dir = .rd ∧ 256 % Rule.esz x ≠ 0 ∧ n = 8) ∨
        (x.dir = .rd ∧ 256 % Rule.esz x = 0 ∧ x.wrap = false ∧ Rule.total x < x.cons + 256 / Rule.esz x ∧ n = 6) →
      exec (.mpush r m) s = .next (s.takeTrap (Rule.trapOf .illegal n 0 0)) ∧
      exec (.mlds skip r m) s = .next (s.takeTrap (Rule.trapOf .illegal n 0 0))) ∧
    (Rule.RowReady s r 256 →
      (mopXs a.mopw = false → ∃ t, exec (.mpush r m) s = .next t ∧ Rule.Pushed s t (Rule.rowByte s x) (fun _ => 0) [(r.val, 256)] m) ∧
      (mopXs a.mopw = true → Rule.RowReady s other 64 → ∃ t, exec (.mpush r m) s = .next t ∧
        Rule.Pushed s t (Rule.rowByte s x) (Rule.rowByte s (Rule.strm s other)) [(r.val, 256), (other, 64)] m) ∧
      (¬first → ∃ t, exec (.mlds skip r m) s = .next t ∧ Rule.Loaded s t (Rule.rowByte s x) (fun _ => 0) [(r.val, 256)] skip m) ∧
      (first → Rule.RowReady s other 128 → ∃ t, exec (.mlds skip r m) s = .next t ∧
        Rule.Loaded s t (Rule.rowByte s x) (Rule.rowByte s (Rule.strm s other)) [(r.val, 256), (other, 128)] skip m))) ∧
  (∀ (s : State) (r : SReg) (d : TReg) (m : MIdx) (skip : Bool), s.cg.tile.mat.frozen = false → s.cg.kind = .tensor → s.rg.kind = .tensor →
    let a := s.cg.tile.mat
    let first := mopWs a.mopw = true ∧ mopC a.mopw * Rule.idx a.lp m % 32 = 0
    (Rule.TileClean s d (256 * (Rule.idx a.pp m % 32)) 256 →
      (mopXs a.mopw = false → ∃ t, exec (.mpushTile r d m) s = .next t ∧ Rule.Pushed s t (Rule.tileByte s d (Rule.idx a.pp m)) (fun _ => 0) [] m) ∧
      (mopXs a.mopw = true → Rule.RowReady s r 64 → ∃ t, exec (.mpushTile r d m) s = .next t ∧
        Rule.Pushed s t (Rule.tileByte s d (Rule.idx a.pp m)) (Rule.rowByte s (Rule.strm s r)) [(r.val, 64)] m)) ∧
    (Rule.TileClean s d (256 * (Rule.idx a.lp m % 32)) 256 →
      (¬first → ∃ t, exec (.mldsTile skip r d m) s = .next t ∧ Rule.Loaded s t (Rule.tileByte s d (Rule.idx a.lp m)) (fun _ => 0) [] skip m) ∧
      (first → Rule.RowReady s r 128 → ∃ t, exec (.mldsTile skip r d m) s = .next t ∧
        Rule.Loaded s t (Rule.tileByte s d (Rule.idx a.lp m)) (Rule.rowByte s (Rule.strm s r)) [(r.val, 128)] skip m))) ∧
  (∀ (s : State) (m : MIdx), s.cg.tile.mat.frozen = false → ∃ t, exec (.macc m) s = .next t ∧ Rule.MatStep s t 132 [] ∧ t.cg.r = s.cg.r ∧
    Rule.Beat s s.cg.tile.mat t.cg.tile.mat (Rule.idx s.cg.tile.mat.pp m)) ∧
  (∀ (m : Mat) (rec i j : Nat) (p : W32),
    let w := m.mopw
    let wd := BitVec.ofNat 16 (Sparse.get 0 m.aw (128 * i + j))
    let xd := BitVec.ofNat 16 (Sparse.get 0 m.xw i)
    let sk := BitVec.ofNat 16 (Sparse.get 0 m.ask (128 * i + j))
    let run := cellStep m rec i j p
    let wf := mopW w
    let xf := mopX w
    let byteOf := fun (f : Nat) (x : BitVec 16) (e : Nat) => let b := x.extractLsb' (8 * e) 8; if f = 11 then (b.toNat : Int) else b.toInt
    let skb := fun (e : Nat) => sk.getLsbD e
    (Sparse.get 0 m.xf i ≠ 0 → run = p) ∧
    ((∀ e < mopC w, skb e = true) → run = p) ∧
    (Sparse.get 0 m.xf i = 0 →
      (wf = 13 → xf = 13 → mopEntry w = 7 → run = p ||| (if wd &&& xd &&& ~~~sk = 0 then 0 else 1)) ∧
      (wf = 13 → xf = 13 → mopEntry w = 8 → run = p ^^^ BitVec.ofNat 32 (((List.range 16).filter fun e => (wd &&& xd &&& ~~~sk).getLsbD e).length % 2)) ∧
      ((wf = 10 ∨ wf = 11) → (xf = 10 ∨ xf = 11) → mopEntry w = 9 ∨ mopEntry w = 10 → skb 0 = false → skb 1 = false →
        let sum := p.toInt + byteOf wf wd 0 * byteOf xf xd 0 + byteOf wf wd 1 * byteOf xf xd 1
        run = BitVec.ofInt 32 (if mopEntry w = 9 then sum else max (-(2 ^ 31)) (min (2 ^ 31 - 1) sum))) ∧
      (wf = 12 → xf = 12 → skb 0 = false →
        (mopEntry w = 1 → run = BitVec.ofInt 32 (min p.toInt (if wd = 0x7FFF ∨ xd = 0x7FFF then 0x7FFFFFFF else wd.toInt + xd.toInt))) ∧
        (mopEntry w = 2 → run = BitVec.ofInt 32 (max p.toInt (if wd = 0x8000 ∨ xd = 0x8000 then -0x80000000 else wd.toInt + xd.toInt))) ∧
        (mopEntry w = 5 → run = BitVec.ofInt 32 (max p.toInt (min wd.toInt xd.toInt))) ∧
        (mopEntry w = 6 → run = BitVec.ofInt 32 (min p.toInt (max wd.toInt xd.toInt))) ∧
        (mopEntry w = 9 → run = p + BitVec.ofInt 32 (wd.toInt * xd.toInt)))))

/-- For every state: while the array is frozen every slot-5 instruction but MSTAT, MFREEZE and MSCAN takes ILLEGAL 11. Otherwise
MSHIFT, MSWAP, MOP, MCLR, MDRAIN, MRDA and MWRA move the edge row, the planes, the operator word, the partial sums, the
accumulators and four tile rows as their rules say and change nothing else, and MOP (reg) takes the MOP trap with the subcode of
the first check of R310 that fails. MSTAT reports the engine. MWAIT and MFREEZE hold until every slot-5 instruction has retired;
MATRIX_RETIRE retires those whose time has come. MSCAN traps as R327 says, or moves one row's scan image between the chain and the
scratchpad. -/
def Obligations.MatrixMovesAndScans : Prop :=
  (∀ (s : State) (i : Instr), s.cg.tile.mat.frozen = true →
    (∃ (a : AReg) (k : KReg) (r : SReg) (d : TReg) (m : MIdx) (n : Fin 128) (q e w x : Fin 16) (f : FReg) (b c : Bool),
      i ∈ [.mpush r m, .mpushTile r d m, .mshift n, .macc m, .mdrain a b m, .mlds b r m, .mldsTile b r d m, .mswap, .mopImm e w x f b c, .mopReg k,
           .mclr, .mwait, .mrda a d q, .mwra a d b q n]) →
    exec i s = .next (s.takeTrap (Rule.trapOf .illegal 11 0 0))) ∧
  (∀ (s : State) (n : Fin 128), s.cg.tile.mat.frozen = false → ∃ t, exec (.mshift n) s = .next t ∧ Rule.MatStep s t 1 [] ∧ t.cg.r = s.cg.r ∧
    let a := s.cg.tile.mat
    let b := t.cg.tile.mat
    { b with xw := a.xw, xf := a.xf, xsc := a.xsc } = a ∧
    ∀ i < 128, Sparse.get 0 b.xw i = (if i + n < 128 then Sparse.get 0 a.xw (i + n) else 0) ∧
      b.xsc.get i = (if i + n < 128 then a.xsc.get (i + n) else 0x7F) ∧ Sparse.get 0 b.xf i = (if i + n < 128 then Sparse.get 0 a.xf (i + n) else 1)) ∧
  (∀ (s : State) (q : AReg) (keep : Bool) (m : MIdx), s.cg.tile.mat.frozen = false →
    let a := s.cg.tile.mat
    let n := Rule.idx a.dp m
    ∃ t, exec (.mdrain q keep m) s = .next t ∧ Rule.MatStep s t 136 [] ∧ { t.cg.tile.mat with ps := a.ps, dp := a.dp } = a ∧
      t.cg.tile.mat.dp = (n + 1) % 128 ∧
      ∀ p < 128, ∀ j < 128, t.cg.r.acc.get (128 * p + j) = (if p = q.val then a.ps.get (128 * n + j) else s.cg.r.acc.get (128 * p + j)) ∧
        t.cg.tile.mat.ps.get (128 * p + j) = if p = n ∧ keep = false then mopIdentity a.mopw else a.ps.get (128 * p + j)) ∧
  (∀ (s : State), s.cg.tile.mat.frozen = false →
    let a := s.cg.tile.mat
    (∃ t, exec .mswap s = .next t ∧ Rule.MatStep s t 1 [] ∧ t.cg.r = s.cg.r ∧
      t.cg.tile.mat = { a with aw := a.sw, sw := a.aw, aws := a.sws, sws := a.aws, ask := a.ssk, ssk := a.ask, lp := 0 }) ∧
    (∃ t, exec .mclr s = .next t ∧ Rule.MatStep s t 1 [] ∧ { t.cg.tile.mat with ps := a.ps, pp := a.pp, dp := a.dp } = a ∧
      t.cg.tile.mat.pp = 0 ∧ t.cg.tile.mat.dp = 0 ∧
      ∀ j, t.cg.tile.mat.ps.get j = mopIdentity a.mopw ∧ t.cg.r.acc.get j = mopIdentity a.mopw) ∧
    (exec .mwait s = .next (if ∀ c ∈ s.cg.tile.matBusy, c ≤ s.cycle then s else s.stall))) ∧
  (∀ (s : State) (e w x : Fin 16) (f : FReg) (ws xs : Bool), s.cg.tile.mat.frozen = false → ∃ t, exec (.mopImm e w x f ws xs) s = .next t ∧
    Rule.MatStep s t 1 [] ∧ t.cg.r = s.cg.r ∧ t.cg.tile.mat = { s.cg.tile.mat with
      mopw := 2 ^ 12 * e + 2 ^ 8 * w + 2 ^ 4 * x + 4 * f + (if ws then 2 else 0) + if xs then 1 else 0 }) ∧
  (∀ (s : State) (k : KReg), s.cg.tile.mat.frozen = false →
    let w := (s.k k).toNat
    let e := w / 2 ^ 12
    let wf := w / 2 ^ 8 % 16
    let xf := w / 2 ^ 4 % 16
    let rec_ := (s.f (Fin.ofNat 4 (w / 4))).toNat
    let c1 := w < 2 ^ 16 ∧ e ≤ 11 ∧ wf ≤ 13 ∧ xf ≤ 13
    let fam := fun (c : Nat) => if c ≤ 9 then 0 else if c ≤ 12 then 1 else 2
    let c24 := wf ∈ entryFormats e ∧ xf ∈ entryFormats e ∧ fam wf = fam xf ∧ (w / 2 % 2 = 1 → wf ≤ 7) ∧ (w % 2 = 1 → xf ≤ 7)
    let fits := fun (c : Nat) => (c = 5 → recordWidth rec_ = some 4) ∧ (c = 6 → recordWidth rec_ = some 6) ∧ (c = 7 → recordWidth rec_ = some 8)
    (¬c1 → exec (.mopReg k) s = .next (s.takeTrap (Rule.trapOf .mop 1 0 0))) ∧
    (c1 → ¬c24 → exec (.mopReg k) s = .next (s.takeTrap (Rule.trapOf .mop 2 0 0))) ∧
    (c1 → c24 → ¬(fits wf ∧ fits xf) → exec (.mopReg k) s = .next (s.takeTrap (Rule.trapOf .mop 3 0 0))) ∧
    (c1 → c24 → fits wf → fits xf → ∃ t, exec (.mopReg k) s = .next t ∧ Rule.MatStep s t 1 [] ∧ t.cg.r = s.cg.r ∧
      t.cg.tile.mat = { s.cg.tile.mat with mopw := w })) ∧
  (∀ (s : State) (k : KReg),
    let a := s.cg.tile.mat
    ∃ t : State, exec (.mstat k) s = .next t ∧ t.cg.tile.mat = a ∧ t.cg.r = (s.setK k (BitVec.ofNat 64 (a.mopw % 2 ^ 16 * 2 ^ 32 + a.lp * 2 ^ 24 + a.pp * 2 ^ 16 + a.dp * 2 ^ 8 +
      (if a.frozen then 2 else 0) + if ∀ c ∈ s.cg.tile.matBusy, c ≤ s.cycle then 1 else 0))).cg.r) ∧
  (∀ (s : State) (q : AReg) (d : TReg) (n : Fin 16), s.cg.tile.mat.frozen = false → s.cg.kind = .tensor →
    ∃ t : State, exec (.mrda q d n) s = .next t ∧ t.cg.tile.mat = s.cg.tile.mat ∧ t.cg.r.acc = s.cg.r.acc ∧ t.cg.r.k = s.cg.r.k ∧ t.cg.r.v = s.cg.r.v ∧
      (∀ m, m ≠ d.val → Sparse.get [] t.cg.r.t m = Sparse.get [] s.cg.r.t m) ∧
      ∀ b < 8192, (Sparse.get [] t.cg.r.t d).getD b 0 = if 512 * n ≤ b ∧ b < 512 * n + 512 then
        ((s.cg.r.acc.get (128 * q + (b - 512 * n) / 4)).extractLsb' (8 * (b % 4)) 8 : BitVec 8) else (Sparse.get [] s.cg.r.t d).getD b 0) ∧
  (∀ (s : State) (q : AReg) (d : TReg) (p : Bool) (n : Fin 16) (m : Fin 128), s.cg.tile.mat.frozen = false →
    let w := fun (j : Nat) => ((List.range 4).map fun i => ((s.t d).getD (512 * n + 4 * j + i) 0).toNat * 2 ^ (8 * i)).sum
    (¬Rule.TileClean s d (512 * n) 512 → exec (.mwra q d p n m) s = .next (s.takeTrap (Rule.trapOf .machineCheck 0 0 0))) ∧
    (Rule.TileClean s d (512 * n) 512 → ∃ t, exec (.mwra q d p n m) s = .next t ∧ Rule.MatStep s t 4 [] ∧
      { t.cg.tile.mat with ps := s.cg.tile.mat.ps } = s.cg.tile.mat ∧
      ∀ x < 128, ∀ j < 128, (t.cg.r.acc.get (128 * x + j)).toNat = (if x = q.val then w j else (s.cg.r.acc.get (128 * x + j)).toNat) ∧
        (t.cg.tile.mat.ps.get (128 * x + j)).toNat = if x = m.val ∧ p = true then w j else (s.cg.tile.mat.ps.get (128 * x + j)).toNat)) ∧
  (∀ (s : State), (∃ t, exec (.mfreeze true) s = .next t ∧ Rule.OneGroup s t s.cur.grp ∧
      t.cg = { s.cg with tile := { s.cg.tile with mat := { s.cg.tile.mat with frozen := false } } }) ∧
    ((∃ c ∈ s.cg.tile.matBusy, s.cycle < c) → exec (.mfreeze false) s = .next s.stall) ∧
    ((∀ c ∈ s.cg.tile.matBusy, c ≤ s.cycle) → ∃ t, exec (.mfreeze false) s = .next t ∧ Rule.OneGroup s t s.cur.grp ∧
      t.cg = { s.cg with tile := { s.cg.tile with mat := { s.cg.tile.mat with frozen := true } } })) ∧
  (∀ (s : State) (inp : Bool) (k : KReg),
    let w := (s.k k).toNat
    let addr := w % 2 ^ 23
    let p := w / 2 ^ 24 % 128
    let ok := w < 2 ^ 31 ∧ w / 2 ^ 23 % 2 = 0
    (s.cg.tile.mat.frozen = false → exec (.mscan inp k) s = .next (s.takeTrap (Rule.trapOf .illegal 11 0 0))) ∧
    (s.cg.tile.mat.frozen = true → ¬ok → exec (.mscan inp k) s = .next (s.takeTrap (Rule.trapOf .illegal 12 0 0))) ∧
    (s.cg.tile.mat.frozen = true → ok → addr % 8192 ≠ 0 → exec (.mscan inp k) s = .next (s.takeTrap (Rule.trapOf .align 3 0 0))) ∧
    (s.cg.tile.mat.frozen = true → ok → addr % 8192 = 0 →
      (∃ t, exec (.mscan false k) s = .next t ∧ Rule.OneGroup s t s.cur.grp ∧ t.cg.r = s.cg.r ∧ t.cg.tile.mat = s.cg.tile.mat ∧
        Rule.SpadAfter s.cg.tile t.cg.tile [(addr, (List.range 128).flatMap fun j =>
          Rule.cellRecord s.cg.tile.mat p j ++ Rule.cellRecord s.cg.tile.ckMat p j)]) ∧
      ∃ t, exec (.mscan true k) s = .next t ∧ Rule.OneGroup s t s.cur.grp ∧ t.cg.r = s.cg.r ∧ t.cg.tile.spad = s.cg.tile.spad ∧
        Rule.ScannedIn s.cg.tile.mat t.cg.tile.mat p 0 (fun i => Sparse.get 0 s.rg.tile.spad (addr + i)) ∧
        Rule.ScannedIn s.cg.tile.ckMat t.cg.tile.ckMat p 32 (fun i => Sparse.get 0 s.rg.tile.spad (addr + i)))) ∧
  (∀ (s : State) (grp : Nat), (∃ x ∈ s.groups, x.1 = grp) → Rule.Rising s.groups → ∃ t, exec (.matrixRetire grp) s = .next t ∧
    Rule.OneGroup s t grp ∧ t.group grp = { s.group grp with tile := { (s.group grp).tile with
      matBusy := (s.group grp).tile.matBusy.filter fun c => decide (s.cycle < c) } })

namespace Sys2Proof.Rule

/-- A transform unit of the issuing group; only it changes. -/
def xfm (s : State) (u : XUnit) : XUnitSt := getUnit s.cg u
def UnitSet (s t : State) (u : XUnit) (x : XUnitSt) : Prop :=
  OneGroup s t s.cur.grp ∧ { t.cg with xfm := s.cg.xfm } = s.cg ∧ xfm t u = x ∧ ∀ v, v ≠ u → xfm t v = xfm s v
/-- What a unit accepts as operation, OPT and LEN (R347, R349, R350, R351). -/
def accepts (s : State) (u : XUnit) (n opt len : Nat) : Prop :=
  match u with
  | .dcz => n = 0 ∧ opt = 0 ∧ 8 ≤ len ∧ len ≤ 8192
  | .spx => n = 0 ∧ opt < 4 ∧ 0 < len ∧ len % 64 = 0 ∧ len * (4 * 2 ^ opt) / 8 ≤ 128 * s.rows
  | .exc => n ≤ 1 ∧ opt < 32 ∧ 0 < len ∧ len % 256 = 0 ∧ len ≤ 7680
  | .mxq => n = 0 ∧ opt < 2 ^ 9 ∧ opt / 32 % 4 ≠ 3 ∧ 32 ≤ len ∧ len ≤ 2048 ∧ len % 32 = 0 ∧
      (opt % 8 ≤ 4 ∨ opt % 8 = 5 ∧ (recordWidth (s.f (Fin.ofNat 4 (opt / 8))).toNat).isSome = true)
/-- The most bytes an operation reads and writes (R341, R342): for EXC a coded flit of 256 raw bytes takes up to 272 bytes of BF16
or 264 bytes of F32, and DCZ may give RATIO / 16 times its payload, at most 4,096 bytes. -/
def inSize (u : XUnit) (n opt len : Nat) : Nat :=
  match u with
  | .dcz => len
  | .spx => len / 8 + len * (4 * 2 ^ opt) / 8
  | .exc => if n = 0 then len else len / 256 * (if opt / 16 % 2 = 1 then 264 else 272)
  | .mxq => len * (if opt / 32 % 4 = 0 then 4 else 2)
def outSize (s : State) (u : XUnit) (n opt len : Nat) : Nat :=
  match u with
  | .dcz => min 4096 ((xfm s .dcz).cfg * (len - 8) / 16)
  | .spx => len * (4 * 2 ^ opt) / 8
  | .exc => if n = 0 then len / 256 * (if opt / 16 % 2 = 1 then 264 else 272) else len
  | .mxq => len * (match opt % 8 with | 0 | 1 => 8 | 2 | 3 => 6 | 4 => 4 | _ => (recordWidth (s.f (Fin.ofNat 4 (opt / 8))).toNat).getD 0) / 8 + len / 32
/-- A bound stream of the right direction, or another operand. -/
def boundOk (s : State) (b : Option XBind) (d : StreamDir) : Prop := ∀ i, b = some (.s i) → (strm s i).dir = d
/-- Fields of a completion word (R343). -/
def xDone (u : XUnit) (o : XOp) (status sub outLen inLen : Nat) : Nat :=
  2 ^ 63 + 2 ^ 48 * status + 2 ^ 40 * sub + 2 ^ 34 * u.code + 2 ^ 32 * o.n + 2 ^ 16 * (outLen % 2 ^ 16) + inLen % 2 ^ 16
def statusOf (w : Nat) : Nat := w / 2 ^ 48 % 256
/-- The trap of a removed word whose STATUS is not 0 (R344). -/
def xTrap (o : XOp) (w : Nat) : Trap :=
  let at_ := if o.inp = none then o.src else 0
  if statusOf w = 1 then { trapOf .decode (w / 2 ^ 40 % 256) 0 at_ with synd := 2 ^ 8 * o.pos }
  else if statusOf w = 2 then trapOf .illegal 6 0 0 else trapOf .machineCheck 0 0 at_
/-- n bits from bit p of a run of bytes, lowest first (R85). -/
def bitsAt (b : Nat → Byte) (p n : Nat) : Nat := ((List.range n).map fun j => if (b ((p + j) / 8)).getLsbD ((p + j) % 8) then 2 ^ j else 0).sum

end Sys2Proof.Rule

/-- For every state: XMOV and XMOVT set one port. A trigger stalls while QMAX operations are queued, takes the trap of the first
check of R341 that fails, and else appends the operation with everything captured, clears the bindings and reserves an output
tile. XGET, XGETS and XWAIT wait, answer 0 or remove words, or raise the trap of the STATUS, as the table of R344 says. XCFG,
XSTAT and XRST set, show and reset a unit. The oldest operation not yet done completes; SPX of a whole clean block writes its
elements, FILL where the bitmap has no bit, and its OUTLEN and INLEN. -/
def Obligations.TransformOperations : Prop :=
  (∀ (s : State) (u : XUnit) (a : KReg),
    let v := (s.k a).toNat
    let x := Rule.xfm s u
    (∃ t, exec (.xmov u .src a) s = .next t ∧ Rule.UnitSet s t u { x with src := v }) ∧
    (∃ t, exec (.xmov u .dst a) s = .next t ∧ Rule.UnitSet s t u { x with dst := v }) ∧
    (∃ t, exec (.xmov u .len a) s = .next t ∧ Rule.UnitSet s t u { x with len := v }) ∧
    (∀ b, (∃ t, exec (.xmovt u .inp b) s = .next t ∧ Rule.UnitSet s t u { x with inp := some b }) ∧
      ∃ t, exec (.xmovt u .out b) s = .next t ∧ Rule.UnitSet s t u { x with out := some b }) ∧
    (∀ d, ∃ t, exec (.xmovt u .tab (.t d)) s = .next t ∧ Rule.UnitSet s t u { x with tab := some d })) ∧
  (∀ (s : State) (u : XUnit) (n : Fin 4) (a : KReg),
    let opt := (s.k a).toNat
    let x := Rule.xfm s u
    let go := exec (.xmov u (.go n) a) s
    let q := match s.kind with | .shading => 1 | .tensor => 4
    let tabBytes := fun (d : TReg) => ((s.t d).drop 0).take 128
    let srcOn := x.inp = none
    let dstOn := x.out = none
    let c1 := Rule.accepts s u n opt x.len
    let c2 := (s.kind = .shading → x.inp ≠ none ∧ x.out ≠ none) ∧ (u = .dcz → x.tab ≠ none)
    let c3 := Rule.boundOk s x.inp .rd ∧ Rule.boundOk s x.out .wr
    let c4a := srcOn → x.src % 64 = 0
    let c4b := dstOn → x.dst % 64 = 0
    let c5a := srcOn → x.src + Rule.inSize u n opt x.len ≤ 0x800000
    let c5b := dstOn → x.dst + Rule.outSize s u n opt x.len ≤ 0x800000
    let trap := fun (c : TrapClass) (sub addr : Nat) => go = .next (s.takeTrap (Rule.trapOf c sub 0 addr))
    (q ≤ x.queue.length → go = .next s.stall) ∧
    (x.queue.length < q →
      (¬c1 → trap .illegal 13 0) ∧ (c1 → ¬c2 → trap .illegal 14 0) ∧ (c1 → c2 → ¬c3 → trap .illegal 7 0) ∧
      (c1 → c2 → c3 → ¬c4a → trap .align 3 x.src) ∧ (c1 → c2 → c3 → c4a → ¬c4b → trap .align 3 x.dst) ∧
      (c1 → c2 → c3 → c4a → c4b → ¬c5a → trap .perm 3 x.src) ∧ (c1 → c2 → c3 → c4a → c4b → c5a → ¬c5b → trap .perm 3 x.dst) ∧
      (c1 → c2 → c3 → c4a → c4b → c5a → c5b →
        (∀ d, u = .dcz → x.tab = some d → Rule.TileClean s d 0 128 → dczTableOk (tabBytes d) = false → trap .illegal 13 0) ∧
        ((∀ d, u = .dcz → x.tab = some d → Rule.TileClean s d 0 128 ∧ dczTableOk (tabBytes d) = true) →
          (∀ d, x.inp = some (.t d) ∨ x.out = some (.t d) ∨ x.tab = some d → RegId.t d ∉ s.rg.busy) →
          (∀ i, x.inp = some (.s i) ∨ x.out = some (.s i) → i.val ∉ xStreams s.rg) →
          ∃ (t : State) (o : XOp), go = .next t ∧ Rule.OneGroup s t s.cur.grp ∧ { t.cg with xfm := s.cg.xfm, busy := s.cg.busy } = s.cg ∧
            Rule.xfm t u = { x with inp := none, out := none, tab := none, queue := x.queue ++ [o], cfg := if u = .exc then 0 else x.cfg } ∧
            (∀ v, v ≠ u → Rule.xfm t v = Rule.xfm s v) ∧
            o.n = n ∧ o.opt = opt ∧ o.src = x.src ∧ o.dst = x.dst ∧ o.len = x.len ∧ o.inp = x.inp ∧ o.out = x.out ∧ o.done = none ∧
            (u ≠ .mxq → o.cfg = x.cfg) ∧ (∀ d, x.tab = some d → o.tab = tabBytes d) ∧
            (∀ d, x.inp = some (.t d) → o.data.map (·.1) = (s.t d).take (Rule.inSize u n opt x.len)) ∧
            (srcOn → o.data.map (·.1) = (List.range (Rule.inSize u n opt x.len)).map fun i => Sparse.get 0 s.rg.tile.spad (x.src + i)) ∧
            (∀ d, x.out = some (.t d) → RegId.t d ∈ t.cg.busy) ∧ ∀ r, (∀ d, x.out = some (.t d) → r ≠ RegId.t d) → (r ∈ t.cg.busy ↔ r ∈ s.cg.busy))))) ∧
  (∀ (s : State) (u : XUnit) (d : KReg),
    let x := Rule.xfm s u
    (x.queue = [] → exec (.xget u d) s = .next (s.takeTrap (Rule.trapOf .illegal 14 0 0)) ∧ exec (.xgets u d) s = .next (s.setK d 0) ∧
      exec (.xwait u) s = .next s) ∧
    (∀ o r, x.queue = o :: r → (o.done = none → exec (.xget u d) s = .next s.stall ∧ exec (.xgets u d) s = .next (s.setK d 0)) ∧
      ∀ w, o.done = some w → ∃ t : State, Rule.UnitSet s t u { x with queue := r } ∧
        exec (.xget u d) s = .next (if Rule.statusOf w = 0 then t.setK d (BitVec.ofNat 64 w) else t.takeTrap (Rule.xTrap o w)) ∧
        exec (.xgets u d) s = exec (.xget u d) s ∧
        ((∀ e ∈ r, e.done ≠ none) → Rule.statusOf w ≠ 0 → exec (.xwait u) s = .next (t.takeTrap (Rule.xTrap o w)))) ∧
    ((∃ o ∈ x.queue, o.done = none) → exec (.xwait u) s = .next s.stall ∧ exec (.xrst u) s = .next s.stall) ∧
    ((∀ o ∈ x.queue, ∃ w, o.done = some w ∧ Rule.statusOf w = 0) → x.queue ≠ [] →
      ∃ t, exec (.xwait u) s = .next t ∧ Rule.UnitSet s t u { x with queue := [] }) ∧
    ((∀ o ∈ x.queue, o.done ≠ none) → ∃ t : State, exec (.xrst u) s = .next t ∧ Rule.xfm t u =
        { src := 0, dst := 0, len := 0, inp := none, out := none, tab := none, cfg := if u = .dcz then 0x40 else 0, queue := [] } ∧
      (∀ v, v ≠ u → Rule.xfm t v = Rule.xfm s v) ∧ t.cg.r = s.cg.r ∧
      ∀ c < 16, Sparse.get ExcChan.zero t.cg.tile.exc c = if u = .exc then ExcChan.zero else Sparse.get ExcChan.zero s.cg.tile.exc c) ∧
    exec (.xstat u d) s = .next (s.setK d (BitVec.ofNat 64 (
      let y := getUnit s.rg u
      (if y.tab = none then 0 else 256) + (if y.out = none then 0 else 128) + (if y.inp = none then 0 else 64) +
      8 * (y.queue.filter fun o => o.done.isSome).length + y.queue.length)))) ∧
  (∀ (s : State) (a : KReg),
    let v := (s.k a).toNat
    let bad := s.takeTrap (Rule.trapOf .illegal 13 0 0)
    ((v < 16 ∨ 256 ≤ v) → exec (.xcfg .dcz a) s = .next bad) ∧
    (16 ≤ v → v < 256 → ∃ t, exec (.xcfg .dcz a) s = .next t ∧ Rule.UnitSet s t .dcz { Rule.xfm s .dcz with cfg := v }) ∧
    (2 ^ 32 ≤ v → exec (.xcfg .spx a) s = .next bad) ∧
    (v < 2 ^ 32 → ∃ t, exec (.xcfg .spx a) s = .next t ∧ Rule.UnitSet s t .spx { Rule.xfm s .spx with cfg := v }) ∧
    (2 ^ 16 ≤ v → exec (.xcfg .exc a) s = .next bad) ∧
    (v < 2 ^ 16 → (∀ o ∈ (Rule.xfm s .exc).queue, o.done ≠ none) → ∃ t : State, exec (.xcfg .exc a) s = .next t ∧ Rule.xfm t .exc = Rule.xfm s .exc ∧
      ∀ c < 16, Sparse.get ExcChan.zero t.cg.tile.exc c = if Rule.bitIn v c then ExcChan.zero else Sparse.get ExcChan.zero s.cg.tile.exc c)) ∧
  (∀ (s : State) (grp : Nat) (u : XUnit), (∃ x ∈ s.groups, x.1 = grp) → Rule.Rising s.groups →
    let g := s.group grp
    let q := (getUnit g u).queue
    ((∀ o ∈ q, o.done ≠ none) → exec (.transformComplete grp u) s = .next s) ∧
    (∀ pre o post, q = pre ++ o :: post → (∀ e ∈ pre, e.done ≠ none) → o.done = none →
      ∃ (t : State) (o' : XOp), exec (.transformComplete grp u) s = .next t ∧ Rule.OneGroup s t grp ∧ (getUnit (t.group grp) u).queue = pre ++ o' :: post ∧
        { o' with done := none, data := o.data, pos := o.pos } = o ∧ o'.done ≠ none ∧ (t.group grp).r.k = g.r.k ∧ (t.group grp).r.v = g.r.v)) ∧
  (∀ (s : State) (grp : Nat) (pre : List XOp) (o : XOp) (post : List XOp), (∃ x ∈ s.groups, x.1 = grp) → Rule.Rising s.groups →
    let g := s.group grp
    let w := 4 * 2 ^ o.opt
    let src := fun (i : Nat) => (o.data.getD i (0, false)).1
    let on := fun (i : Nat) => (src (i / 8)).getLsbD (i % 8) = true
    let rank := fun (i : Nat) => ((List.range i).filter fun j => (src (j / 8)).getLsbD (j % 8)).length
    let inLen := o.len / 8 + (rank o.len * w + 7) / 8
    let outLen := o.len * w / 8
    (getUnit g .spx).queue = pre ++ o :: post → (∀ e ∈ pre, e.done ≠ none) → o.done = none → o.inp = none → o.out = none →
    o.opt < 4 → o.len % 64 = 0 → 0 < o.len → o.len ≤ 2 ^ 14 → inLen ≤ o.data.length → (∀ y ∈ o.data, y.2 = false) →
    ∃ t : State, exec (.transformComplete grp .spx) s = .next t ∧
      (∃ o' ∈ (getUnit (t.group grp) .spx).queue, o'.done = some (Rule.xDone .spx o 0 0 outLen inLen)) ∧ (t.group grp).r = g.r ∧
      (∀ a, ¬(o.dst ≤ a ∧ a < o.dst + outLen) → Sparse.get 0 (t.group grp).tile.spad a = Sparse.get 0 g.tile.spad a) ∧
      ∀ i < o.len, Rule.bitsAt (fun b => Sparse.get 0 (t.group grp).tile.spad (o.dst + b)) (i * w) w =
        if on i then Rule.bitsAt src (o.len + rank i * w) w else o.cfg % 2 ^ w)
end

