-- ==== Sys2Proof/Laws/Sparse.lean ====
section
/-!
SUPPORT. What reading a sparse map gives after a write, and that every write keeps the canonical form.
-/
namespace Sys2Proof

variable {α : Type}

theorem Sparse.get_erase_same (d : α) (m : Sparse α) (k : Nat) : Sparse.get d (Sparse.erase m k) k = d := by
  induction m with
  | nil => rfl
  | cons e r ih =>
    obtain ⟨j, a⟩ := e
    by_cases h : j = k <;> simp [Sparse.erase, Sparse.get, h, ih]

theorem Sparse.get_erase_other (d : α) (m : Sparse α) {k n : Nat} (h : n ≠ k) :
    Sparse.get d (Sparse.erase m k) n = Sparse.get d m n := by
  induction m with
  | nil => rfl
  | cons e r ih =>
    obtain ⟨j, a⟩ := e
    by_cases hk : j = k
    · subst hk; simp [Sparse.erase, Sparse.get, ih, Ne.symm h]
    · simp only [Sparse.erase, hk, if_false, Sparse.get, ih]

theorem Sparse.get_insert_same (d : α) (m : Sparse α) (k : Nat) (v : α) : Sparse.get d (Sparse.insert m k v) k = v := by
  induction m with
  | nil => simp [Sparse.insert, Sparse.get]
  | cons e r ih =>
    obtain ⟨j, a⟩ := e
    by_cases h1 : k < j
    · simp [Sparse.insert, Sparse.get, h1]
    · by_cases h2 : k = j
      · simp [Sparse.insert, Sparse.get, h2]
      · simp [Sparse.insert, Sparse.get, h1, h2, Ne.symm h2, ih]

theorem Sparse.get_insert_other (d : α) (m : Sparse α) {k n : Nat} (v : α) (h : n ≠ k) :
    Sparse.get d (Sparse.insert m k v) n = Sparse.get d m n := by
  induction m with
  | nil => simp [Sparse.insert, Sparse.get, Ne.symm h]
  | cons e r ih =>
    obtain ⟨j, a⟩ := e
    by_cases h1 : k < j
    · simp [Sparse.insert, Sparse.get, h1, Ne.symm h]
    · by_cases h2 : k = j
      · subst h2; simp [Sparse.insert, Sparse.get, Ne.symm h]
      · simp only [Sparse.insert, h1, h2, if_false, Sparse.get, ih]

@[simp] theorem Sparse.get_insert (d : α) (m : Sparse α) (k n : Nat) (v : α) :
    Sparse.get d (Sparse.insert m k v) n = if n = k then v else Sparse.get d m n := by
  by_cases h : n = k
  · subst h; simp [Sparse.get_insert_same]
  · simp [h, Sparse.get_insert_other d m v h]

@[simp] theorem Sparse.get_erase (d : α) (m : Sparse α) (k n : Nat) :
    Sparse.get d (Sparse.erase m k) n = if n = k then d else Sparse.get d m n := by
  by_cases h : n = k
  · subst h; simp [Sparse.get_erase_same]
  · simp [h, Sparse.get_erase_other d m h]

/-- The later of two writes of one key stands. -/
theorem Sparse.insert_insert (m : Sparse α) (k : Nat) (v w : α) :
    Sparse.insert (Sparse.insert m k v) k w = Sparse.insert m k w := by
  induction m with
  | nil => simp [Sparse.insert]
  | cons e r ih =>
    obtain ⟨j, a⟩ := e
    by_cases h1 : k < j
    · simp [Sparse.insert, h1]
    · by_cases h2 : k = j
      · simp [Sparse.insert, h2]
      · simp [Sparse.insert, h1, h2, ih]

variable [DecidableEq α]

/-- A write is read back, and leaves every other key. -/
@[simp] theorem Sparse.get_set (d : α) (m : Sparse α) (k n : Nat) (v : α) :
    Sparse.get d (Sparse.set d m k v) n = if n = k then v else Sparse.get d m n := by
  unfold Sparse.set
  split <;> simp_all

/-- Keys that a list of writes does not name keep their values. -/
theorem Sparse.get_setAll_other (d : α) (ws : List (Nat × α)) (m : Sparse α) (n : Nat) (h : ∀ w ∈ ws, w.1 ≠ n) :
    Sparse.get d (Sparse.setAll d m ws) n = Sparse.get d m n := by
  unfold Sparse.setAll
  induction ws generalizing m with
  | nil => rfl
  | cons w r ih =>
    rw [List.foldl_cons, ih _ (fun x hx => h x (List.mem_cons_of_mem _ hx)), Sparse.get_set,
      if_neg (Ne.symm (h w List.mem_cons_self))]

theorem Sparse.setAll_append (d : α) (a b : List (Nat × α)) (m : Sparse α) :
    Sparse.setAll d m (a ++ b) = Sparse.setAll d (Sparse.setAll d m a) b := List.foldl_append

-- ## The canonical form

theorem Sparse.wfFrom_mono (d : α) (m : Sparse α) {b c : Nat} (h : c ≤ b) (w : Sparse.wfFrom d (some b) m = true) :
    Sparse.wfFrom d (some c) m = true := by
  cases m with
  | nil => rfl
  | cons e r =>
    simp only [Sparse.wfFrom, Bool.and_eq_true, decide_eq_true_eq] at w ⊢
    exact ⟨⟨by omega, w.1.2⟩, w.2⟩

theorem Sparse.wfFrom_erase (d : α) (m : Sparse α) (b : Option Nat) (k : Nat) (w : Sparse.wfFrom d b m = true) :
    Sparse.wfFrom d b (Sparse.erase m k) = true := by
  induction m generalizing b with
  | nil => rfl
  | cons e r ih =>
    obtain ⟨j, a⟩ := e
    simp only [Sparse.wfFrom, Bool.and_eq_true] at w
    unfold Sparse.erase
    split
    · refine ih b ?_
      cases b with
      | none => cases r with
        | nil => rfl
        | cons f t => simp only [Sparse.wfFrom, Bool.and_eq_true] at w ⊢; exact ⟨⟨trivial, w.2.1.2⟩, w.2.2⟩
      | some c => exact Sparse.wfFrom_mono d r (Nat.le_of_lt (by simpa using w.1.1)) w.2
    · simp only [Sparse.wfFrom, Bool.and_eq_true]
      exact ⟨w.1, ih _ w.2⟩

theorem Sparse.wfFrom_insert (d : α) (m : Sparse α) (b : Option Nat) (k : Nat) (v : α) (hv : v ≠ d)
    (hb : ∀ c, b = some c → c < k) (w : Sparse.wfFrom d b m = true) : Sparse.wfFrom d b (Sparse.insert m k v) = true := by
  induction m generalizing b with
  | nil => cases b with
    | none => simp [Sparse.insert, Sparse.wfFrom, hv]
    | some c => simpa [Sparse.insert, Sparse.wfFrom, hv] using hb c rfl
  | cons e r ih =>
    obtain ⟨j, a⟩ := e
    simp only [Sparse.wfFrom, Bool.and_eq_true] at w
    unfold Sparse.insert
    split
    · rename_i h
      simp only [Sparse.wfFrom, Bool.and_eq_true]
      refine ⟨⟨?_, by simpa using hv⟩, ⟨by simpa using h, w.1.2⟩, w.2⟩
      cases b with
      | none => rfl
      | some c => simpa using hb c rfl
    · split
      · rename_i h
        subst h
        simp only [Sparse.wfFrom, Bool.and_eq_true]
        exact ⟨⟨w.1.1, by simpa using hv⟩, w.2⟩
      · simp only [Sparse.wfFrom, Bool.and_eq_true]
        exact ⟨w.1, ih (some j) (fun c hc => by cases hc; omega) w.2⟩

/-- A write keeps the canonical form. -/
theorem Sparse.wf_set (d : α) (m : Sparse α) (k : Nat) (v : α) (w : Sparse.wf d m = true) : Sparse.wf d (Sparse.set d m k v) = true := by
  unfold Sparse.set Sparse.wf at *
  split
  · exact Sparse.wfFrom_erase d m none k w
  · rename_i h
    exact Sparse.wfFrom_insert d m none k v h (fun c hc => by cases hc) w

theorem Sparse.wf_setAll (d : α) (ws : List (Nat × α)) (m : Sparse α) (w : Sparse.wf d m = true) :
    Sparse.wf d (Sparse.setAll d m ws) = true := by
  unfold Sparse.setAll
  induction ws generalizing m with
  | nil => exact w
  | cons x r ih => exact ih _ (Sparse.wf_set d m x.1 x.2 w)

/-- What holds of the start and is kept by every element holds of a fold. -/
theorem foldl_keeps {β γ : Type} (P : β → Prop) (f : β → γ → β) (l : List γ) (b : β) (h0 : P b)
    (h : ∀ b c, c ∈ l → P b → P (f b c)) : P (l.foldl f b) := by
  induction l generalizing b with
  | nil => exact h0
  | cons c r ih =>
    exact ih _ (h b c List.mem_cons_self h0) (fun b' c' hc => h b' c' (List.mem_cons_of_mem _ hc))

end Sys2Proof
end

