-- ==== Sys2Proof/Laws/State.lean ====
section
/-!
SUPPORT. One lemma per field per update of State, each by definition; then what the accessors of the issuing group read after the
updates of Machine/Basic.lean.
-/
namespace Sys2Proof.Machine.State

variable (s : State)

@[simp] theorem setGroup_cycle (key : Nat) (g : Group) : (s.setGroup key g).cycle = s.cycle := rfl
@[simp] theorem setGroup_turns (key : Nat) (g : Group) : (s.setGroup key g).turns = s.turns := rfl
@[simp] theorem setGroup_issued (key : Nat) (g : Group) : (s.setGroup key g).issued = s.issued := rfl
@[simp] theorem setGroup_cur (key : Nat) (g : Group) : (s.setGroup key g).cur = s.cur := rfl
@[simp] theorem setGroup_free (key : Nat) (g : Group) : (s.setGroup key g).free = s.free := rfl
@[simp] theorem setGroup_replyLater (key : Nat) (g : Group) : (s.setGroup key g).replyLater = s.replyLater := rfl
@[simp] theorem setGroup_gangs (key : Nat) (g : Group) : (s.setGroup key g).gangs = s.gangs := rfl
@[simp] theorem setGroup_nextGang (key : Nat) (g : Group) : (s.setGroup key g).nextGang = s.nextGang := rfl
@[simp] theorem setGroup_ctxs (key : Nat) (g : Group) : (s.setGroup key g).ctxs = s.ctxs := rfl
@[simp] theorem setGroup_queues (key : Nat) (g : Group) : (s.setGroup key g).queues = s.queues := rfl
@[simp] theorem setGroup_quantum (key : Nat) (g : Group) : (s.setGroup key g).quantum = s.quantum := rfl
@[simp] theorem setGroup_drainlim (key : Nat) (g : Group) : (s.setGroup key g).drainlim = s.drainlim := rfl
@[simp] theorem setGroup_mem (key : Nat) (g : Group) : (s.setGroup key g).mem = s.mem := rfl
@[simp] theorem setGroup_pend (key : Nat) (g : Group) : (s.setGroup key g).pend = s.pend := rfl
@[simp] theorem setGroup_seqNo (key : Nat) (g : Group) : (s.setGroup key g).seqNo = s.seqNo := rfl
@[simp] theorem setGroup_wlog (key : Nat) (g : Group) : (s.setGroup key g).wlog = s.wlog := rfl
@[simp] theorem setGroup_clocks (key : Nat) (g : Group) : (s.setGroup key g).clocks = s.clocks := rfl
@[simp] theorem setGroup_poison (key : Nat) (g : Group) : (s.setGroup key g).poison = s.poison := rfl
@[simp] theorem setGroup_sealed (key : Nat) (g : Group) : (s.setGroup key g).sealed_ = s.sealed_ := rfl
@[simp] theorem setGroup_seals (key : Nat) (g : Group) : (s.setGroup key g).seals = s.seals := rfl
@[simp] theorem setGroup_tlb (key : Nat) (g : Group) : (s.setGroup key g).tlb = s.tlb := rfl
@[simp] theorem setGroup_moves (key : Nat) (g : Group) : (s.setGroup key g).moves = s.moves := rfl
@[simp] theorem setGroup_pools (key : Nat) (g : Group) : (s.setGroup key g).pools = s.pools := rfl
@[simp] theorem setGroup_regions (key : Nat) (g : Group) : (s.setGroup key g).regions = s.regions := rfl
@[simp] theorem setGroup_pinned (key : Nat) (g : Group) : (s.setGroup key g).pinned = s.pinned := rfl
@[simp] theorem setGroup_l1 (key : Nat) (g : Group) : (s.setGroup key g).l1 = s.l1 := rfl
@[simp] theorem setGroup_l2 (key : Nat) (g : Group) : (s.setGroup key g).l2 = s.l2 := rfl
@[simp] theorem setGroup_ro (key : Nat) (g : Group) : (s.setGroup key g).ro = s.ro := rfl
@[simp] theorem setGroup_hostCopy (key : Nat) (g : Group) : (s.setGroup key g).hostCopy = s.hostCopy := rfl
@[simp] theorem setGroup_fusedClusters (key : Nat) (g : Group) : (s.setGroup key g).fusedClusters = s.fusedClusters := rfl
@[simp] theorem setGroup_casts (key : Nat) (g : Group) : (s.setGroup key g).casts = s.casts := rfl
@[simp] theorem setGroup_castNo (key : Nat) (g : Group) : (s.setGroup key g).castNo = s.castNo := rfl
@[simp] theorem setGroup_replies (key : Nat) (g : Group) : (s.setGroup key g).replies = s.replies := rfl
@[simp] theorem setGroup_errs (key : Nat) (g : Group) : (s.setGroup key g).errs = s.errs := rfl
@[simp] theorem setGroup_lastStamp (key : Nat) (g : Group) : (s.setGroup key g).lastStamp = s.lastStamp := rfl
@[simp] theorem setGroup_heldPush (key : Nat) (g : Group) : (s.setGroup key g).heldPush = s.heldPush := rfl
@[simp] theorem setGroup_heldJoin (key : Nat) (g : Group) : (s.setGroup key g).heldJoin = s.heldJoin := rfl
@[simp] theorem setGroup_ranges (key : Nat) (g : Group) : (s.setGroup key g).ranges = s.ranges := rfl
@[simp] theorem setGroup_blocks (key : Nat) (g : Group) : (s.setGroup key g).blocks = s.blocks := rfl
@[simp] theorem setGroup_inflight (key : Nat) (g : Group) : (s.setGroup key g).inflight = s.inflight := rfl
@[simp] theorem setGroup_heldFails (key : Nat) (g : Group) : (s.setGroup key g).heldFails = s.heldFails := rfl
@[simp] theorem setGroup_rtbase (key : Nat) (g : Group) : (s.setGroup key g).rtbase = s.rtbase := rfl
@[simp] theorem setGroup_rtcount (key : Nat) (g : Group) : (s.setGroup key g).rtcount = s.rtcount := rfl
@[simp] theorem setGroup_rtstatus (key : Nat) (g : Group) : (s.setGroup key g).rtstatus = s.rtstatus := rfl
@[simp] theorem setGroup_rtlast (key : Nat) (g : Group) : (s.setGroup key g).rtlast = s.rtlast := rfl
@[simp] theorem setGroup_fillcnt (key : Nat) (g : Group) : (s.setGroup key g).fillcnt = s.fillcnt := rfl
@[simp] theorem setGroup_failcnt (key : Nat) (g : Group) : (s.setGroup key g).failcnt = s.failcnt := rfl
@[simp] theorem setGroup_meshlets (key : Nat) (g : Group) : (s.setGroup key g).meshlets = s.meshlets := rfl
@[simp] theorem setGroup_meshNo (key : Nat) (g : Group) : (s.setGroup key g).meshNo = s.meshNo := rfl
@[simp] theorem setGroup_drawNo (key : Nat) (g : Group) : (s.setGroup key g).drawNo = s.drawNo := rfl
@[simp] theorem setGroup_badDraws (key : Nat) (g : Group) : (s.setGroup key g).badDraws = s.badDraws := rfl
@[simp] theorem setGroup_frags (key : Nat) (g : Group) : (s.setGroup key g).frags = s.frags := rfl
@[simp] theorem setGroup_fragNo (key : Nat) (g : Group) : (s.setGroup key g).fragNo = s.fragNo := rfl
@[simp] theorem setGroup_hz (key : Nat) (g : Group) : (s.setGroup key g).hz = s.hz := rfl
@[simp] theorem setGroup_staged (key : Nat) (g : Group) : (s.setGroup key g).staged = s.staged := rfl
@[simp] theorem setGroup_flushes (key : Nat) (g : Group) : (s.setGroup key g).flushes = s.flushes := rfl
@[simp] theorem setGroup_port (key : Nat) (g : Group) : (s.setGroup key g).port = s.port := rfl
@[simp] theorem setGroup_incs (key : Nat) (g : Group) : (s.setGroup key g).incs = s.incs := rfl
@[simp] theorem setGroup_coreStore (key : Nat) (g : Group) : (s.setGroup key g).coreStore = s.coreStore := rfl
@[simp] theorem setGroup_atomfs (key : Nat) (g : Group) : (s.setGroup key g).atomfs = s.atomfs := rfl
@[simp] theorem setGroup_frames (key : Nat) (g : Group) : (s.setGroup key g).frames = s.frames := rfl
@[simp] theorem setGroup_frameNo (key : Nat) (g : Group) : (s.setGroup key g).frameNo = s.frameNo := rfl
@[simp] theorem setGroup_windows (key : Nat) (g : Group) : (s.setGroup key g).windows = s.windows := rfl
@[simp] theorem setGroup_copies (key : Nat) (g : Group) : (s.setGroup key g).copies = s.copies := rfl
@[simp] theorem setGroup_irqDev (key : Nat) (g : Group) : (s.setGroup key g).irqDev = s.irqDev := rfl
@[simp] theorem setGroup_irqPriv (key : Nat) (g : Group) : (s.setGroup key g).irqPriv = s.irqPriv := rfl
@[simp] theorem setGroup_irqIdle (key : Nat) (g : Group) : (s.setGroup key g).irqIdle = s.irqIdle := rfl
@[simp] theorem setGroup_msgs (key : Nat) (g : Group) : (s.setGroup key g).msgs = s.msgs := rfl
@[simp] theorem setGroup_msixOpen (key : Nat) (g : Group) : (s.setGroup key g).msixOpen = s.msixOpen := rfl
@[simp] theorem setGroup_msixPend (key : Nat) (g : Group) : (s.setGroup key g).msixPend = s.msixPend := rfl
@[simp] theorem setGroup_msixTable (key : Nat) (g : Group) : (s.setGroup key g).msixTable = s.msixTable := rfl
@[simp] theorem setGroup_links (key : Nat) (g : Group) : (s.setGroup key g).links = s.links := rfl
@[simp] theorem setGroup_route (key : Nat) (g : Group) : (s.setGroup key g).route = s.route := rfl
@[simp] theorem setGroup_pwbase (key : Nat) (g : Group) : (s.setGroup key g).pwbase = s.pwbase := rfl
@[simp] theorem setGroup_pwlimit (key : Nat) (g : Group) : (s.setGroup key g).pwlimit = s.pwlimit := rfl
@[simp] theorem setGroup_bootstat (key : Nat) (g : Group) : (s.setGroup key g).bootstat = s.bootstat := rfl
@[simp] theorem setGroup_boots (key : Nat) (g : Group) : (s.setGroup key g).boots = s.boots := rfl
@[simp] theorem setGroup_inReset (key : Nat) (g : Group) : (s.setGroup key g).inReset = s.inReset := rfl
@[simp] theorem setGroup_tripped (key : Nat) (g : Group) : (s.setGroup key g).tripped = s.tripped := rfl
@[simp] theorem setGroup_catalogue (key : Nat) (g : Group) : (s.setGroup key g).catalogue = s.catalogue := rfl
@[simp] theorem setGroup_devCount (key : Nat) (g : Group) : (s.setGroup key g).devCount = s.devCount := rfl
@[simp] theorem setGroup_idle (key : Nat) (g : Group) : (s.setGroup key g).idle = s.idle := rfl
@[simp] theorem setGroup_corrected (key : Nat) (g : Group) : (s.setGroup key g).corrected = s.corrected := rfl
@[simp] theorem setGroup_uncorrected (key : Nat) (g : Group) : (s.setGroup key g).uncorrected = s.uncorrected := rfl
@[simp] theorem setGroup_flips (key : Nat) (g : Group) : (s.setGroup key g).flips = s.flips := rfl
@[simp] theorem setGroup_flitFails (key : Nat) (g : Group) : (s.setGroup key g).flitFails = s.flitFails := rfl
@[simp] theorem setGroup_rtOp (key : Nat) (g : Group) : (s.setGroup key g).rtOp = s.rtOp := rfl
@[simp] theorem setGroup_lastRead (key : Nat) (g : Group) : (s.setGroup key g).lastRead = s.lastRead := rfl

@[simp] theorem setGang_cycle (n : Nat) (g : Gang) : (s.setGang n g).cycle = s.cycle := rfl
@[simp] theorem setGang_turns (n : Nat) (g : Gang) : (s.setGang n g).turns = s.turns := rfl
@[simp] theorem setGang_issued (n : Nat) (g : Gang) : (s.setGang n g).issued = s.issued := rfl
@[simp] theorem setGang_cur (n : Nat) (g : Gang) : (s.setGang n g).cur = s.cur := rfl
@[simp] theorem setGang_free (n : Nat) (g : Gang) : (s.setGang n g).free = s.free := rfl
@[simp] theorem setGang_replyLater (n : Nat) (g : Gang) : (s.setGang n g).replyLater = s.replyLater := rfl
@[simp] theorem setGang_groups (n : Nat) (g : Gang) : (s.setGang n g).groups = s.groups := rfl
@[simp] theorem setGang_nextGang (n : Nat) (g : Gang) : (s.setGang n g).nextGang = s.nextGang := rfl
@[simp] theorem setGang_ctxs (n : Nat) (g : Gang) : (s.setGang n g).ctxs = s.ctxs := rfl
@[simp] theorem setGang_queues (n : Nat) (g : Gang) : (s.setGang n g).queues = s.queues := rfl
@[simp] theorem setGang_quantum (n : Nat) (g : Gang) : (s.setGang n g).quantum = s.quantum := rfl
@[simp] theorem setGang_drainlim (n : Nat) (g : Gang) : (s.setGang n g).drainlim = s.drainlim := rfl
@[simp] theorem setGang_mem (n : Nat) (g : Gang) : (s.setGang n g).mem = s.mem := rfl
@[simp] theorem setGang_pend (n : Nat) (g : Gang) : (s.setGang n g).pend = s.pend := rfl
@[simp] theorem setGang_seqNo (n : Nat) (g : Gang) : (s.setGang n g).seqNo = s.seqNo := rfl
@[simp] theorem setGang_wlog (n : Nat) (g : Gang) : (s.setGang n g).wlog = s.wlog := rfl
@[simp] theorem setGang_clocks (n : Nat) (g : Gang) : (s.setGang n g).clocks = s.clocks := rfl
@[simp] theorem setGang_poison (n : Nat) (g : Gang) : (s.setGang n g).poison = s.poison := rfl
@[simp] theorem setGang_sealed (n : Nat) (g : Gang) : (s.setGang n g).sealed_ = s.sealed_ := rfl
@[simp] theorem setGang_seals (n : Nat) (g : Gang) : (s.setGang n g).seals = s.seals := rfl
@[simp] theorem setGang_tlb (n : Nat) (g : Gang) : (s.setGang n g).tlb = s.tlb := rfl
@[simp] theorem setGang_moves (n : Nat) (g : Gang) : (s.setGang n g).moves = s.moves := rfl
@[simp] theorem setGang_pools (n : Nat) (g : Gang) : (s.setGang n g).pools = s.pools := rfl
@[simp] theorem setGang_regions (n : Nat) (g : Gang) : (s.setGang n g).regions = s.regions := rfl
@[simp] theorem setGang_pinned (n : Nat) (g : Gang) : (s.setGang n g).pinned = s.pinned := rfl
@[simp] theorem setGang_l1 (n : Nat) (g : Gang) : (s.setGang n g).l1 = s.l1 := rfl
@[simp] theorem setGang_l2 (n : Nat) (g : Gang) : (s.setGang n g).l2 = s.l2 := rfl
@[simp] theorem setGang_ro (n : Nat) (g : Gang) : (s.setGang n g).ro = s.ro := rfl
@[simp] theorem setGang_hostCopy (n : Nat) (g : Gang) : (s.setGang n g).hostCopy = s.hostCopy := rfl
@[simp] theorem setGang_fusedClusters (n : Nat) (g : Gang) : (s.setGang n g).fusedClusters = s.fusedClusters := rfl
@[simp] theorem setGang_casts (n : Nat) (g : Gang) : (s.setGang n g).casts = s.casts := rfl
@[simp] theorem setGang_castNo (n : Nat) (g : Gang) : (s.setGang n g).castNo = s.castNo := rfl
@[simp] theorem setGang_replies (n : Nat) (g : Gang) : (s.setGang n g).replies = s.replies := rfl
@[simp] theorem setGang_errs (n : Nat) (g : Gang) : (s.setGang n g).errs = s.errs := rfl
@[simp] theorem setGang_lastStamp (n : Nat) (g : Gang) : (s.setGang n g).lastStamp = s.lastStamp := rfl
@[simp] theorem setGang_heldPush (n : Nat) (g : Gang) : (s.setGang n g).heldPush = s.heldPush := rfl
@[simp] theorem setGang_heldJoin (n : Nat) (g : Gang) : (s.setGang n g).heldJoin = s.heldJoin := rfl
@[simp] theorem setGang_ranges (n : Nat) (g : Gang) : (s.setGang n g).ranges = s.ranges := rfl
@[simp] theorem setGang_blocks (n : Nat) (g : Gang) : (s.setGang n g).blocks = s.blocks := rfl
@[simp] theorem setGang_inflight (n : Nat) (g : Gang) : (s.setGang n g).inflight = s.inflight := rfl
@[simp] theorem setGang_heldFails (n : Nat) (g : Gang) : (s.setGang n g).heldFails = s.heldFails := rfl
@[simp] theorem setGang_rtbase (n : Nat) (g : Gang) : (s.setGang n g).rtbase = s.rtbase := rfl
@[simp] theorem setGang_rtcount (n : Nat) (g : Gang) : (s.setGang n g).rtcount = s.rtcount := rfl
@[simp] theorem setGang_rtstatus (n : Nat) (g : Gang) : (s.setGang n g).rtstatus = s.rtstatus := rfl
@[simp] theorem setGang_rtlast (n : Nat) (g : Gang) : (s.setGang n g).rtlast = s.rtlast := rfl
@[simp] theorem setGang_fillcnt (n : Nat) (g : Gang) : (s.setGang n g).fillcnt = s.fillcnt := rfl
@[simp] theorem setGang_failcnt (n : Nat) (g : Gang) : (s.setGang n g).failcnt = s.failcnt := rfl
@[simp] theorem setGang_meshlets (n : Nat) (g : Gang) : (s.setGang n g).meshlets = s.meshlets := rfl
@[simp] theorem setGang_meshNo (n : Nat) (g : Gang) : (s.setGang n g).meshNo = s.meshNo := rfl
@[simp] theorem setGang_drawNo (n : Nat) (g : Gang) : (s.setGang n g).drawNo = s.drawNo := rfl
@[simp] theorem setGang_badDraws (n : Nat) (g : Gang) : (s.setGang n g).badDraws = s.badDraws := rfl
@[simp] theorem setGang_frags (n : Nat) (g : Gang) : (s.setGang n g).frags = s.frags := rfl
@[simp] theorem setGang_fragNo (n : Nat) (g : Gang) : (s.setGang n g).fragNo = s.fragNo := rfl
@[simp] theorem setGang_hz (n : Nat) (g : Gang) : (s.setGang n g).hz = s.hz := rfl
@[simp] theorem setGang_staged (n : Nat) (g : Gang) : (s.setGang n g).staged = s.staged := rfl
@[simp] theorem setGang_flushes (n : Nat) (g : Gang) : (s.setGang n g).flushes = s.flushes := rfl
@[simp] theorem setGang_port (n : Nat) (g : Gang) : (s.setGang n g).port = s.port := rfl
@[simp] theorem setGang_incs (n : Nat) (g : Gang) : (s.setGang n g).incs = s.incs := rfl
@[simp] theorem setGang_coreStore (n : Nat) (g : Gang) : (s.setGang n g).coreStore = s.coreStore := rfl
@[simp] theorem setGang_atomfs (n : Nat) (g : Gang) : (s.setGang n g).atomfs = s.atomfs := rfl
@[simp] theorem setGang_frames (n : Nat) (g : Gang) : (s.setGang n g).frames = s.frames := rfl
@[simp] theorem setGang_frameNo (n : Nat) (g : Gang) : (s.setGang n g).frameNo = s.frameNo := rfl
@[simp] theorem setGang_windows (n : Nat) (g : Gang) : (s.setGang n g).windows = s.windows := rfl
@[simp] theorem setGang_copies (n : Nat) (g : Gang) : (s.setGang n g).copies = s.copies := rfl
@[simp] theorem setGang_irqDev (n : Nat) (g : Gang) : (s.setGang n g).irqDev = s.irqDev := rfl
@[simp] theorem setGang_irqPriv (n : Nat) (g : Gang) : (s.setGang n g).irqPriv = s.irqPriv := rfl
@[simp] theorem setGang_irqIdle (n : Nat) (g : Gang) : (s.setGang n g).irqIdle = s.irqIdle := rfl
@[simp] theorem setGang_msgs (n : Nat) (g : Gang) : (s.setGang n g).msgs = s.msgs := rfl
@[simp] theorem setGang_msixOpen (n : Nat) (g : Gang) : (s.setGang n g).msixOpen = s.msixOpen := rfl
@[simp] theorem setGang_msixPend (n : Nat) (g : Gang) : (s.setGang n g).msixPend = s.msixPend := rfl
@[simp] theorem setGang_msixTable (n : Nat) (g : Gang) : (s.setGang n g).msixTable = s.msixTable := rfl
@[simp] theorem setGang_links (n : Nat) (g : Gang) : (s.setGang n g).links = s.links := rfl
@[simp] theorem setGang_route (n : Nat) (g : Gang) : (s.setGang n g).route = s.route := rfl
@[simp] theorem setGang_pwbase (n : Nat) (g : Gang) : (s.setGang n g).pwbase = s.pwbase := rfl
@[simp] theorem setGang_pwlimit (n : Nat) (g : Gang) : (s.setGang n g).pwlimit = s.pwlimit := rfl
@[simp] theorem setGang_bootstat (n : Nat) (g : Gang) : (s.setGang n g).bootstat = s.bootstat := rfl
@[simp] theorem setGang_boots (n : Nat) (g : Gang) : (s.setGang n g).boots = s.boots := rfl
@[simp] theorem setGang_inReset (n : Nat) (g : Gang) : (s.setGang n g).inReset = s.inReset := rfl
@[simp] theorem setGang_tripped (n : Nat) (g : Gang) : (s.setGang n g).tripped = s.tripped := rfl
@[simp] theorem setGang_catalogue (n : Nat) (g : Gang) : (s.setGang n g).catalogue = s.catalogue := rfl
@[simp] theorem setGang_devCount (n : Nat) (g : Gang) : (s.setGang n g).devCount = s.devCount := rfl
@[simp] theorem setGang_idle (n : Nat) (g : Gang) : (s.setGang n g).idle = s.idle := rfl
@[simp] theorem setGang_corrected (n : Nat) (g : Gang) : (s.setGang n g).corrected = s.corrected := rfl
@[simp] theorem setGang_uncorrected (n : Nat) (g : Gang) : (s.setGang n g).uncorrected = s.uncorrected := rfl
@[simp] theorem setGang_flips (n : Nat) (g : Gang) : (s.setGang n g).flips = s.flips := rfl
@[simp] theorem setGang_flitFails (n : Nat) (g : Gang) : (s.setGang n g).flitFails = s.flitFails := rfl
@[simp] theorem setGang_rtOp (n : Nat) (g : Gang) : (s.setGang n g).rtOp = s.rtOp := rfl
@[simp] theorem setGang_lastRead (n : Nat) (g : Gang) : (s.setGang n g).lastRead = s.lastRead := rfl

@[simp] theorem setCtx_cycle (n : Nat) (c : Ctx) : (s.setCtx n c).cycle = s.cycle := rfl
@[simp] theorem setCtx_turns (n : Nat) (c : Ctx) : (s.setCtx n c).turns = s.turns := rfl
@[simp] theorem setCtx_issued (n : Nat) (c : Ctx) : (s.setCtx n c).issued = s.issued := rfl
@[simp] theorem setCtx_cur (n : Nat) (c : Ctx) : (s.setCtx n c).cur = s.cur := rfl
@[simp] theorem setCtx_free (n : Nat) (c : Ctx) : (s.setCtx n c).free = s.free := rfl
@[simp] theorem setCtx_replyLater (n : Nat) (c : Ctx) : (s.setCtx n c).replyLater = s.replyLater := rfl
@[simp] theorem setCtx_groups (n : Nat) (c : Ctx) : (s.setCtx n c).groups = s.groups := rfl
@[simp] theorem setCtx_gangs (n : Nat) (c : Ctx) : (s.setCtx n c).gangs = s.gangs := rfl
@[simp] theorem setCtx_nextGang (n : Nat) (c : Ctx) : (s.setCtx n c).nextGang = s.nextGang := rfl
@[simp] theorem setCtx_queues (n : Nat) (c : Ctx) : (s.setCtx n c).queues = s.queues := rfl
@[simp] theorem setCtx_quantum (n : Nat) (c : Ctx) : (s.setCtx n c).quantum = s.quantum := rfl
@[simp] theorem setCtx_drainlim (n : Nat) (c : Ctx) : (s.setCtx n c).drainlim = s.drainlim := rfl
@[simp] theorem setCtx_mem (n : Nat) (c : Ctx) : (s.setCtx n c).mem = s.mem := rfl
@[simp] theorem setCtx_pend (n : Nat) (c : Ctx) : (s.setCtx n c).pend = s.pend := rfl
@[simp] theorem setCtx_seqNo (n : Nat) (c : Ctx) : (s.setCtx n c).seqNo = s.seqNo := rfl
@[simp] theorem setCtx_wlog (n : Nat) (c : Ctx) : (s.setCtx n c).wlog = s.wlog := rfl
@[simp] theorem setCtx_clocks (n : Nat) (c : Ctx) : (s.setCtx n c).clocks = s.clocks := rfl
@[simp] theorem setCtx_poison (n : Nat) (c : Ctx) : (s.setCtx n c).poison = s.poison := rfl
@[simp] theorem setCtx_sealed (n : Nat) (c : Ctx) : (s.setCtx n c).sealed_ = s.sealed_ := rfl
@[simp] theorem setCtx_seals (n : Nat) (c : Ctx) : (s.setCtx n c).seals = s.seals := rfl
@[simp] theorem setCtx_tlb (n : Nat) (c : Ctx) : (s.setCtx n c).tlb = s.tlb := rfl
@[simp] theorem setCtx_moves (n : Nat) (c : Ctx) : (s.setCtx n c).moves = s.moves := rfl
@[simp] theorem setCtx_pools (n : Nat) (c : Ctx) : (s.setCtx n c).pools = s.pools := rfl
@[simp] theorem setCtx_regions (n : Nat) (c : Ctx) : (s.setCtx n c).regions = s.regions := rfl
@[simp] theorem setCtx_pinned (n : Nat) (c : Ctx) : (s.setCtx n c).pinned = s.pinned := rfl
@[simp] theorem setCtx_l1 (n : Nat) (c : Ctx) : (s.setCtx n c).l1 = s.l1 := rfl
@[simp] theorem setCtx_l2 (n : Nat) (c : Ctx) : (s.setCtx n c).l2 = s.l2 := rfl
@[simp] theorem setCtx_ro (n : Nat) (c : Ctx) : (s.setCtx n c).ro = s.ro := rfl
@[simp] theorem setCtx_hostCopy (n : Nat) (c : Ctx) : (s.setCtx n c).hostCopy = s.hostCopy := rfl
@[simp] theorem setCtx_fusedClusters (n : Nat) (c : Ctx) : (s.setCtx n c).fusedClusters = s.fusedClusters := rfl
@[simp] theorem setCtx_casts (n : Nat) (c : Ctx) : (s.setCtx n c).casts = s.casts := rfl
@[simp] theorem setCtx_castNo (n : Nat) (c : Ctx) : (s.setCtx n c).castNo = s.castNo := rfl
@[simp] theorem setCtx_replies (n : Nat) (c : Ctx) : (s.setCtx n c).replies = s.replies := rfl
@[simp] theorem setCtx_errs (n : Nat) (c : Ctx) : (s.setCtx n c).errs = s.errs := rfl
@[simp] theorem setCtx_lastStamp (n : Nat) (c : Ctx) : (s.setCtx n c).lastStamp = s.lastStamp := rfl
@[simp] theorem setCtx_heldPush (n : Nat) (c : Ctx) : (s.setCtx n c).heldPush = s.heldPush := rfl
@[simp] theorem setCtx_heldJoin (n : Nat) (c : Ctx) : (s.setCtx n c).heldJoin = s.heldJoin := rfl
@[simp] theorem setCtx_ranges (n : Nat) (c : Ctx) : (s.setCtx n c).ranges = s.ranges := rfl
@[simp] theorem setCtx_blocks (n : Nat) (c : Ctx) : (s.setCtx n c).blocks = s.blocks := rfl
@[simp] theorem setCtx_inflight (n : Nat) (c : Ctx) : (s.setCtx n c).inflight = s.inflight := rfl
@[simp] theorem setCtx_heldFails (n : Nat) (c : Ctx) : (s.setCtx n c).heldFails = s.heldFails := rfl
@[simp] theorem setCtx_rtbase (n : Nat) (c : Ctx) : (s.setCtx n c).rtbase = s.rtbase := rfl
@[simp] theorem setCtx_rtcount (n : Nat) (c : Ctx) : (s.setCtx n c).rtcount = s.rtcount := rfl
@[simp] theorem setCtx_rtstatus (n : Nat) (c : Ctx) : (s.setCtx n c).rtstatus = s.rtstatus := rfl
@[simp] theorem setCtx_rtlast (n : Nat) (c : Ctx) : (s.setCtx n c).rtlast = s.rtlast := rfl
@[simp] theorem setCtx_fillcnt (n : Nat) (c : Ctx) : (s.setCtx n c).fillcnt = s.fillcnt := rfl
@[simp] theorem setCtx_failcnt (n : Nat) (c : Ctx) : (s.setCtx n c).failcnt = s.failcnt := rfl
@[simp] theorem setCtx_meshlets (n : Nat) (c : Ctx) : (s.setCtx n c).meshlets = s.meshlets := rfl
@[simp] theorem setCtx_meshNo (n : Nat) (c : Ctx) : (s.setCtx n c).meshNo = s.meshNo := rfl
@[simp] theorem setCtx_drawNo (n : Nat) (c : Ctx) : (s.setCtx n c).drawNo = s.drawNo := rfl
@[simp] theorem setCtx_badDraws (n : Nat) (c : Ctx) : (s.setCtx n c).badDraws = s.badDraws := rfl
@[simp] theorem setCtx_frags (n : Nat) (c : Ctx) : (s.setCtx n c).frags = s.frags := rfl
@[simp] theorem setCtx_fragNo (n : Nat) (c : Ctx) : (s.setCtx n c).fragNo = s.fragNo := rfl
@[simp] theorem setCtx_hz (n : Nat) (c : Ctx) : (s.setCtx n c).hz = s.hz := rfl
@[simp] theorem setCtx_staged (n : Nat) (c : Ctx) : (s.setCtx n c).staged = s.staged := rfl
@[simp] theorem setCtx_flushes (n : Nat) (c : Ctx) : (s.setCtx n c).flushes = s.flushes := rfl
@[simp] theorem setCtx_port (n : Nat) (c : Ctx) : (s.setCtx n c).port = s.port := rfl
@[simp] theorem setCtx_incs (n : Nat) (c : Ctx) : (s.setCtx n c).incs = s.incs := rfl
@[simp] theorem setCtx_coreStore (n : Nat) (c : Ctx) : (s.setCtx n c).coreStore = s.coreStore := rfl
@[simp] theorem setCtx_atomfs (n : Nat) (c : Ctx) : (s.setCtx n c).atomfs = s.atomfs := rfl
@[simp] theorem setCtx_frames (n : Nat) (c : Ctx) : (s.setCtx n c).frames = s.frames := rfl
@[simp] theorem setCtx_frameNo (n : Nat) (c : Ctx) : (s.setCtx n c).frameNo = s.frameNo := rfl
@[simp] theorem setCtx_windows (n : Nat) (c : Ctx) : (s.setCtx n c).windows = s.windows := rfl
@[simp] theorem setCtx_copies (n : Nat) (c : Ctx) : (s.setCtx n c).copies = s.copies := rfl
@[simp] theorem setCtx_irqDev (n : Nat) (c : Ctx) : (s.setCtx n c).irqDev = s.irqDev := rfl
@[simp] theorem setCtx_irqPriv (n : Nat) (c : Ctx) : (s.setCtx n c).irqPriv = s.irqPriv := rfl
@[simp] theorem setCtx_irqIdle (n : Nat) (c : Ctx) : (s.setCtx n c).irqIdle = s.irqIdle := rfl
@[simp] theorem setCtx_msgs (n : Nat) (c : Ctx) : (s.setCtx n c).msgs = s.msgs := rfl
@[simp] theorem setCtx_msixOpen (n : Nat) (c : Ctx) : (s.setCtx n c).msixOpen = s.msixOpen := rfl
@[simp] theorem setCtx_msixPend (n : Nat) (c : Ctx) : (s.setCtx n c).msixPend = s.msixPend := rfl
@[simp] theorem setCtx_msixTable (n : Nat) (c : Ctx) : (s.setCtx n c).msixTable = s.msixTable := rfl
@[simp] theorem setCtx_links (n : Nat) (c : Ctx) : (s.setCtx n c).links = s.links := rfl
@[simp] theorem setCtx_route (n : Nat) (c : Ctx) : (s.setCtx n c).route = s.route := rfl
@[simp] theorem setCtx_pwbase (n : Nat) (c : Ctx) : (s.setCtx n c).pwbase = s.pwbase := rfl
@[simp] theorem setCtx_pwlimit (n : Nat) (c : Ctx) : (s.setCtx n c).pwlimit = s.pwlimit := rfl
@[simp] theorem setCtx_bootstat (n : Nat) (c : Ctx) : (s.setCtx n c).bootstat = s.bootstat := rfl
@[simp] theorem setCtx_boots (n : Nat) (c : Ctx) : (s.setCtx n c).boots = s.boots := rfl
@[simp] theorem setCtx_inReset (n : Nat) (c : Ctx) : (s.setCtx n c).inReset = s.inReset := rfl
@[simp] theorem setCtx_tripped (n : Nat) (c : Ctx) : (s.setCtx n c).tripped = s.tripped := rfl
@[simp] theorem setCtx_catalogue (n : Nat) (c : Ctx) : (s.setCtx n c).catalogue = s.catalogue := rfl
@[simp] theorem setCtx_devCount (n : Nat) (c : Ctx) : (s.setCtx n c).devCount = s.devCount := rfl
@[simp] theorem setCtx_idle (n : Nat) (c : Ctx) : (s.setCtx n c).idle = s.idle := rfl
@[simp] theorem setCtx_corrected (n : Nat) (c : Ctx) : (s.setCtx n c).corrected = s.corrected := rfl
@[simp] theorem setCtx_uncorrected (n : Nat) (c : Ctx) : (s.setCtx n c).uncorrected = s.uncorrected := rfl
@[simp] theorem setCtx_flips (n : Nat) (c : Ctx) : (s.setCtx n c).flips = s.flips := rfl
@[simp] theorem setCtx_flitFails (n : Nat) (c : Ctx) : (s.setCtx n c).flitFails = s.flitFails := rfl
@[simp] theorem setCtx_rtOp (n : Nat) (c : Ctx) : (s.setCtx n c).rtOp = s.rtOp := rfl
@[simp] theorem setCtx_lastRead (n : Nat) (c : Ctx) : (s.setCtx n c).lastRead = s.lastRead := rfl

@[simp] theorem modG_cycle (f : Group → Group) : (s.modG f).cycle = s.cycle := rfl
@[simp] theorem modG_turns (f : Group → Group) : (s.modG f).turns = s.turns := rfl
@[simp] theorem modG_issued (f : Group → Group) : (s.modG f).issued = s.issued := rfl
@[simp] theorem modG_cur (f : Group → Group) : (s.modG f).cur = s.cur := rfl
@[simp] theorem modG_free (f : Group → Group) : (s.modG f).free = s.free := rfl
@[simp] theorem modG_replyLater (f : Group → Group) : (s.modG f).replyLater = s.replyLater := rfl
@[simp] theorem modG_gangs (f : Group → Group) : (s.modG f).gangs = s.gangs := rfl
@[simp] theorem modG_nextGang (f : Group → Group) : (s.modG f).nextGang = s.nextGang := rfl
@[simp] theorem modG_ctxs (f : Group → Group) : (s.modG f).ctxs = s.ctxs := rfl
@[simp] theorem modG_queues (f : Group → Group) : (s.modG f).queues = s.queues := rfl
@[simp] theorem modG_quantum (f : Group → Group) : (s.modG f).quantum = s.quantum := rfl
@[simp] theorem modG_drainlim (f : Group → Group) : (s.modG f).drainlim = s.drainlim := rfl
@[simp] theorem modG_mem (f : Group → Group) : (s.modG f).mem = s.mem := rfl
@[simp] theorem modG_pend (f : Group → Group) : (s.modG f).pend = s.pend := rfl
@[simp] theorem modG_seqNo (f : Group → Group) : (s.modG f).seqNo = s.seqNo := rfl
@[simp] theorem modG_wlog (f : Group → Group) : (s.modG f).wlog = s.wlog := rfl
@[simp] theorem modG_clocks (f : Group → Group) : (s.modG f).clocks = s.clocks := rfl
@[simp] theorem modG_poison (f : Group → Group) : (s.modG f).poison = s.poison := rfl
@[simp] theorem modG_sealed (f : Group → Group) : (s.modG f).sealed_ = s.sealed_ := rfl
@[simp] theorem modG_seals (f : Group → Group) : (s.modG f).seals = s.seals := rfl
@[simp] theorem modG_tlb (f : Group → Group) : (s.modG f).tlb = s.tlb := rfl
@[simp] theorem modG_moves (f : Group → Group) : (s.modG f).moves = s.moves := rfl
@[simp] theorem modG_pools (f : Group → Group) : (s.modG f).pools = s.pools := rfl
@[simp] theorem modG_regions (f : Group → Group) : (s.modG f).regions = s.regions := rfl
@[simp] theorem modG_pinned (f : Group → Group) : (s.modG f).pinned = s.pinned := rfl
@[simp] theorem modG_l1 (f : Group → Group) : (s.modG f).l1 = s.l1 := rfl
@[simp] theorem modG_l2 (f : Group → Group) : (s.modG f).l2 = s.l2 := rfl
@[simp] theorem modG_ro (f : Group → Group) : (s.modG f).ro = s.ro := rfl
@[simp] theorem modG_hostCopy (f : Group → Group) : (s.modG f).hostCopy = s.hostCopy := rfl
@[simp] theorem modG_fusedClusters (f : Group → Group) : (s.modG f).fusedClusters = s.fusedClusters := rfl
@[simp] theorem modG_casts (f : Group → Group) : (s.modG f).casts = s.casts := rfl
@[simp] theorem modG_castNo (f : Group → Group) : (s.modG f).castNo = s.castNo := rfl
@[simp] theorem modG_replies (f : Group → Group) : (s.modG f).replies = s.replies := rfl
@[simp] theorem modG_errs (f : Group → Group) : (s.modG f).errs = s.errs := rfl
@[simp] theorem modG_lastStamp (f : Group → Group) : (s.modG f).lastStamp = s.lastStamp := rfl
@[simp] theorem modG_heldPush (f : Group → Group) : (s.modG f).heldPush = s.heldPush := rfl
@[simp] theorem modG_heldJoin (f : Group → Group) : (s.modG f).heldJoin = s.heldJoin := rfl
@[simp] theorem modG_ranges (f : Group → Group) : (s.modG f).ranges = s.ranges := rfl
@[simp] theorem modG_blocks (f : Group → Group) : (s.modG f).blocks = s.blocks := rfl
@[simp] theorem modG_inflight (f : Group → Group) : (s.modG f).inflight = s.inflight := rfl
@[simp] theorem modG_heldFails (f : Group → Group) : (s.modG f).heldFails = s.heldFails := rfl
@[simp] theorem modG_rtbase (f : Group → Group) : (s.modG f).rtbase = s.rtbase := rfl
@[simp] theorem modG_rtcount (f : Group → Group) : (s.modG f).rtcount = s.rtcount := rfl
@[simp] theorem modG_rtstatus (f : Group → Group) : (s.modG f).rtstatus = s.rtstatus := rfl
@[simp] theorem modG_rtlast (f : Group → Group) : (s.modG f).rtlast = s.rtlast := rfl
@[simp] theorem modG_fillcnt (f : Group → Group) : (s.modG f).fillcnt = s.fillcnt := rfl
@[simp] theorem modG_failcnt (f : Group → Group) : (s.modG f).failcnt = s.failcnt := rfl
@[simp] theorem modG_meshlets (f : Group → Group) : (s.modG f).meshlets = s.meshlets := rfl
@[simp] theorem modG_meshNo (f : Group → Group) : (s.modG f).meshNo = s.meshNo := rfl
@[simp] theorem modG_drawNo (f : Group → Group) : (s.modG f).drawNo = s.drawNo := rfl
@[simp] theorem modG_badDraws (f : Group → Group) : (s.modG f).badDraws = s.badDraws := rfl
@[simp] theorem modG_frags (f : Group → Group) : (s.modG f).frags = s.frags := rfl
@[simp] theorem modG_fragNo (f : Group → Group) : (s.modG f).fragNo = s.fragNo := rfl
@[simp] theorem modG_hz (f : Group → Group) : (s.modG f).hz = s.hz := rfl
@[simp] theorem modG_staged (f : Group → Group) : (s.modG f).staged = s.staged := rfl
@[simp] theorem modG_flushes (f : Group → Group) : (s.modG f).flushes = s.flushes := rfl
@[simp] theorem modG_port (f : Group → Group) : (s.modG f).port = s.port := rfl
@[simp] theorem modG_incs (f : Group → Group) : (s.modG f).incs = s.incs := rfl
@[simp] theorem modG_coreStore (f : Group → Group) : (s.modG f).coreStore = s.coreStore := rfl
@[simp] theorem modG_atomfs (f : Group → Group) : (s.modG f).atomfs = s.atomfs := rfl
@[simp] theorem modG_frames (f : Group → Group) : (s.modG f).frames = s.frames := rfl
@[simp] theorem modG_frameNo (f : Group → Group) : (s.modG f).frameNo = s.frameNo := rfl
@[simp] theorem modG_windows (f : Group → Group) : (s.modG f).windows = s.windows := rfl
@[simp] theorem modG_copies (f : Group → Group) : (s.modG f).copies = s.copies := rfl
@[simp] theorem modG_irqDev (f : Group → Group) : (s.modG f).irqDev = s.irqDev := rfl
@[simp] theorem modG_irqPriv (f : Group → Group) : (s.modG f).irqPriv = s.irqPriv := rfl
@[simp] theorem modG_irqIdle (f : Group → Group) : (s.modG f).irqIdle = s.irqIdle := rfl
@[simp] theorem modG_msgs (f : Group → Group) : (s.modG f).msgs = s.msgs := rfl
@[simp] theorem modG_msixOpen (f : Group → Group) : (s.modG f).msixOpen = s.msixOpen := rfl
@[simp] theorem modG_msixPend (f : Group → Group) : (s.modG f).msixPend = s.msixPend := rfl
@[simp] theorem modG_msixTable (f : Group → Group) : (s.modG f).msixTable = s.msixTable := rfl
@[simp] theorem modG_links (f : Group → Group) : (s.modG f).links = s.links := rfl
@[simp] theorem modG_route (f : Group → Group) : (s.modG f).route = s.route := rfl
@[simp] theorem modG_pwbase (f : Group → Group) : (s.modG f).pwbase = s.pwbase := rfl
@[simp] theorem modG_pwlimit (f : Group → Group) : (s.modG f).pwlimit = s.pwlimit := rfl
@[simp] theorem modG_bootstat (f : Group → Group) : (s.modG f).bootstat = s.bootstat := rfl
@[simp] theorem modG_boots (f : Group → Group) : (s.modG f).boots = s.boots := rfl
@[simp] theorem modG_inReset (f : Group → Group) : (s.modG f).inReset = s.inReset := rfl
@[simp] theorem modG_tripped (f : Group → Group) : (s.modG f).tripped = s.tripped := rfl
@[simp] theorem modG_catalogue (f : Group → Group) : (s.modG f).catalogue = s.catalogue := rfl
@[simp] theorem modG_devCount (f : Group → Group) : (s.modG f).devCount = s.devCount := rfl
@[simp] theorem modG_idle (f : Group → Group) : (s.modG f).idle = s.idle := rfl
@[simp] theorem modG_corrected (f : Group → Group) : (s.modG f).corrected = s.corrected := rfl
@[simp] theorem modG_uncorrected (f : Group → Group) : (s.modG f).uncorrected = s.uncorrected := rfl
@[simp] theorem modG_flips (f : Group → Group) : (s.modG f).flips = s.flips := rfl
@[simp] theorem modG_flitFails (f : Group → Group) : (s.modG f).flitFails = s.flitFails := rfl
@[simp] theorem modG_rtOp (f : Group → Group) : (s.modG f).rtOp = s.rtOp := rfl
@[simp] theorem modG_lastRead (f : Group → Group) : (s.modG f).lastRead = s.lastRead := rfl

@[simp] theorem setK_cycle (n : KReg) (x : W64) : (s.setK n x).cycle = s.cycle := rfl
@[simp] theorem setK_turns (n : KReg) (x : W64) : (s.setK n x).turns = s.turns := rfl
@[simp] theorem setK_issued (n : KReg) (x : W64) : (s.setK n x).issued = s.issued := rfl
@[simp] theorem setK_cur (n : KReg) (x : W64) : (s.setK n x).cur = s.cur := rfl
@[simp] theorem setK_free (n : KReg) (x : W64) : (s.setK n x).free = s.free := rfl
@[simp] theorem setK_replyLater (n : KReg) (x : W64) : (s.setK n x).replyLater = s.replyLater := rfl
@[simp] theorem setK_gangs (n : KReg) (x : W64) : (s.setK n x).gangs = s.gangs := rfl
@[simp] theorem setK_nextGang (n : KReg) (x : W64) : (s.setK n x).nextGang = s.nextGang := rfl
@[simp] theorem setK_ctxs (n : KReg) (x : W64) : (s.setK n x).ctxs = s.ctxs := rfl
@[simp] theorem setK_queues (n : KReg) (x : W64) : (s.setK n x).queues = s.queues := rfl
@[simp] theorem setK_quantum (n : KReg) (x : W64) : (s.setK n x).quantum = s.quantum := rfl
@[simp] theorem setK_drainlim (n : KReg) (x : W64) : (s.setK n x).drainlim = s.drainlim := rfl
@[simp] theorem setK_mem (n : KReg) (x : W64) : (s.setK n x).mem = s.mem := rfl
@[simp] theorem setK_pend (n : KReg) (x : W64) : (s.setK n x).pend = s.pend := rfl
@[simp] theorem setK_seqNo (n : KReg) (x : W64) : (s.setK n x).seqNo = s.seqNo := rfl
@[simp] theorem setK_wlog (n : KReg) (x : W64) : (s.setK n x).wlog = s.wlog := rfl
@[simp] theorem setK_clocks (n : KReg) (x : W64) : (s.setK n x).clocks = s.clocks := rfl
@[simp] theorem setK_poison (n : KReg) (x : W64) : (s.setK n x).poison = s.poison := rfl
@[simp] theorem setK_sealed (n : KReg) (x : W64) : (s.setK n x).sealed_ = s.sealed_ := rfl
@[simp] theorem setK_seals (n : KReg) (x : W64) : (s.setK n x).seals = s.seals := rfl
@[simp] theorem setK_tlb (n : KReg) (x : W64) : (s.setK n x).tlb = s.tlb := rfl
@[simp] theorem setK_moves (n : KReg) (x : W64) : (s.setK n x).moves = s.moves := rfl
@[simp] theorem setK_pools (n : KReg) (x : W64) : (s.setK n x).pools = s.pools := rfl
@[simp] theorem setK_regions (n : KReg) (x : W64) : (s.setK n x).regions = s.regions := rfl
@[simp] theorem setK_pinned (n : KReg) (x : W64) : (s.setK n x).pinned = s.pinned := rfl
@[simp] theorem setK_l1 (n : KReg) (x : W64) : (s.setK n x).l1 = s.l1 := rfl
@[simp] theorem setK_l2 (n : KReg) (x : W64) : (s.setK n x).l2 = s.l2 := rfl
@[simp] theorem setK_ro (n : KReg) (x : W64) : (s.setK n x).ro = s.ro := rfl
@[simp] theorem setK_hostCopy (n : KReg) (x : W64) : (s.setK n x).hostCopy = s.hostCopy := rfl
@[simp] theorem setK_fusedClusters (n : KReg) (x : W64) : (s.setK n x).fusedClusters = s.fusedClusters := rfl
@[simp] theorem setK_casts (n : KReg) (x : W64) : (s.setK n x).casts = s.casts := rfl
@[simp] theorem setK_castNo (n : KReg) (x : W64) : (s.setK n x).castNo = s.castNo := rfl
@[simp] theorem setK_replies (n : KReg) (x : W64) : (s.setK n x).replies = s.replies := rfl
@[simp] theorem setK_errs (n : KReg) (x : W64) : (s.setK n x).errs = s.errs := rfl
@[simp] theorem setK_lastStamp (n : KReg) (x : W64) : (s.setK n x).lastStamp = s.lastStamp := rfl
@[simp] theorem setK_heldPush (n : KReg) (x : W64) : (s.setK n x).heldPush = s.heldPush := rfl
@[simp] theorem setK_heldJoin (n : KReg) (x : W64) : (s.setK n x).heldJoin = s.heldJoin := rfl
@[simp] theorem setK_ranges (n : KReg) (x : W64) : (s.setK n x).ranges = s.ranges := rfl
@[simp] theorem setK_blocks (n : KReg) (x : W64) : (s.setK n x).blocks = s.blocks := rfl
@[simp] theorem setK_inflight (n : KReg) (x : W64) : (s.setK n x).inflight = s.inflight := rfl
@[simp] theorem setK_heldFails (n : KReg) (x : W64) : (s.setK n x).heldFails = s.heldFails := rfl
@[simp] theorem setK_rtbase (n : KReg) (x : W64) : (s.setK n x).rtbase = s.rtbase := rfl
@[simp] theorem setK_rtcount (n : KReg) (x : W64) : (s.setK n x).rtcount = s.rtcount := rfl
@[simp] theorem setK_rtstatus (n : KReg) (x : W64) : (s.setK n x).rtstatus = s.rtstatus := rfl
@[simp] theorem setK_rtlast (n : KReg) (x : W64) : (s.setK n x).rtlast = s.rtlast := rfl
@[simp] theorem setK_fillcnt (n : KReg) (x : W64) : (s.setK n x).fillcnt = s.fillcnt := rfl
@[simp] theorem setK_failcnt (n : KReg) (x : W64) : (s.setK n x).failcnt = s.failcnt := rfl
@[simp] theorem setK_meshlets (n : KReg) (x : W64) : (s.setK n x).meshlets = s.meshlets := rfl
@[simp] theorem setK_meshNo (n : KReg) (x : W64) : (s.setK n x).meshNo = s.meshNo := rfl
@[simp] theorem setK_drawNo (n : KReg) (x : W64) : (s.setK n x).drawNo = s.drawNo := rfl
@[simp] theorem setK_badDraws (n : KReg) (x : W64) : (s.setK n x).badDraws = s.badDraws := rfl
@[simp] theorem setK_frags (n : KReg) (x : W64) : (s.setK n x).frags = s.frags := rfl
@[simp] theorem setK_fragNo (n : KReg) (x : W64) : (s.setK n x).fragNo = s.fragNo := rfl
@[simp] theorem setK_hz (n : KReg) (x : W64) : (s.setK n x).hz = s.hz := rfl
@[simp] theorem setK_staged (n : KReg) (x : W64) : (s.setK n x).staged = s.staged := rfl
@[simp] theorem setK_flushes (n : KReg) (x : W64) : (s.setK n x).flushes = s.flushes := rfl
@[simp] theorem setK_port (n : KReg) (x : W64) : (s.setK n x).port = s.port := rfl
@[simp] theorem setK_incs (n : KReg) (x : W64) : (s.setK n x).incs = s.incs := rfl
@[simp] theorem setK_coreStore (n : KReg) (x : W64) : (s.setK n x).coreStore = s.coreStore := rfl
@[simp] theorem setK_atomfs (n : KReg) (x : W64) : (s.setK n x).atomfs = s.atomfs := rfl
@[simp] theorem setK_frames (n : KReg) (x : W64) : (s.setK n x).frames = s.frames := rfl
@[simp] theorem setK_frameNo (n : KReg) (x : W64) : (s.setK n x).frameNo = s.frameNo := rfl
@[simp] theorem setK_windows (n : KReg) (x : W64) : (s.setK n x).windows = s.windows := rfl
@[simp] theorem setK_copies (n : KReg) (x : W64) : (s.setK n x).copies = s.copies := rfl
@[simp] theorem setK_irqDev (n : KReg) (x : W64) : (s.setK n x).irqDev = s.irqDev := rfl
@[simp] theorem setK_irqPriv (n : KReg) (x : W64) : (s.setK n x).irqPriv = s.irqPriv := rfl
@[simp] theorem setK_irqIdle (n : KReg) (x : W64) : (s.setK n x).irqIdle = s.irqIdle := rfl
@[simp] theorem setK_msgs (n : KReg) (x : W64) : (s.setK n x).msgs = s.msgs := rfl
@[simp] theorem setK_msixOpen (n : KReg) (x : W64) : (s.setK n x).msixOpen = s.msixOpen := rfl
@[simp] theorem setK_msixPend (n : KReg) (x : W64) : (s.setK n x).msixPend = s.msixPend := rfl
@[simp] theorem setK_msixTable (n : KReg) (x : W64) : (s.setK n x).msixTable = s.msixTable := rfl
@[simp] theorem setK_links (n : KReg) (x : W64) : (s.setK n x).links = s.links := rfl
@[simp] theorem setK_route (n : KReg) (x : W64) : (s.setK n x).route = s.route := rfl
@[simp] theorem setK_pwbase (n : KReg) (x : W64) : (s.setK n x).pwbase = s.pwbase := rfl
@[simp] theorem setK_pwlimit (n : KReg) (x : W64) : (s.setK n x).pwlimit = s.pwlimit := rfl
@[simp] theorem setK_bootstat (n : KReg) (x : W64) : (s.setK n x).bootstat = s.bootstat := rfl
@[simp] theorem setK_boots (n : KReg) (x : W64) : (s.setK n x).boots = s.boots := rfl
@[simp] theorem setK_inReset (n : KReg) (x : W64) : (s.setK n x).inReset = s.inReset := rfl
@[simp] theorem setK_tripped (n : KReg) (x : W64) : (s.setK n x).tripped = s.tripped := rfl
@[simp] theorem setK_catalogue (n : KReg) (x : W64) : (s.setK n x).catalogue = s.catalogue := rfl
@[simp] theorem setK_devCount (n : KReg) (x : W64) : (s.setK n x).devCount = s.devCount := rfl
@[simp] theorem setK_idle (n : KReg) (x : W64) : (s.setK n x).idle = s.idle := rfl
@[simp] theorem setK_corrected (n : KReg) (x : W64) : (s.setK n x).corrected = s.corrected := rfl
@[simp] theorem setK_uncorrected (n : KReg) (x : W64) : (s.setK n x).uncorrected = s.uncorrected := rfl
@[simp] theorem setK_flips (n : KReg) (x : W64) : (s.setK n x).flips = s.flips := rfl
@[simp] theorem setK_flitFails (n : KReg) (x : W64) : (s.setK n x).flitFails = s.flitFails := rfl
@[simp] theorem setK_rtOp (n : KReg) (x : W64) : (s.setK n x).rtOp = s.rtOp := rfl
@[simp] theorem setK_lastRead (n : KReg) (x : W64) : (s.setK n x).lastRead = s.lastRead := rfl

@[simp] theorem setV_cycle (n lane : Nat) (x : W32) : (s.setV n lane x).cycle = s.cycle := rfl
@[simp] theorem setV_turns (n lane : Nat) (x : W32) : (s.setV n lane x).turns = s.turns := rfl
@[simp] theorem setV_issued (n lane : Nat) (x : W32) : (s.setV n lane x).issued = s.issued := rfl
@[simp] theorem setV_cur (n lane : Nat) (x : W32) : (s.setV n lane x).cur = s.cur := rfl
@[simp] theorem setV_free (n lane : Nat) (x : W32) : (s.setV n lane x).free = s.free := rfl
@[simp] theorem setV_replyLater (n lane : Nat) (x : W32) : (s.setV n lane x).replyLater = s.replyLater := rfl
@[simp] theorem setV_gangs (n lane : Nat) (x : W32) : (s.setV n lane x).gangs = s.gangs := rfl
@[simp] theorem setV_nextGang (n lane : Nat) (x : W32) : (s.setV n lane x).nextGang = s.nextGang := rfl
@[simp] theorem setV_ctxs (n lane : Nat) (x : W32) : (s.setV n lane x).ctxs = s.ctxs := rfl
@[simp] theorem setV_queues (n lane : Nat) (x : W32) : (s.setV n lane x).queues = s.queues := rfl
@[simp] theorem setV_quantum (n lane : Nat) (x : W32) : (s.setV n lane x).quantum = s.quantum := rfl
@[simp] theorem setV_drainlim (n lane : Nat) (x : W32) : (s.setV n lane x).drainlim = s.drainlim := rfl
@[simp] theorem setV_mem (n lane : Nat) (x : W32) : (s.setV n lane x).mem = s.mem := rfl
@[simp] theorem setV_pend (n lane : Nat) (x : W32) : (s.setV n lane x).pend = s.pend := rfl
@[simp] theorem setV_seqNo (n lane : Nat) (x : W32) : (s.setV n lane x).seqNo = s.seqNo := rfl
@[simp] theorem setV_wlog (n lane : Nat) (x : W32) : (s.setV n lane x).wlog = s.wlog := rfl
@[simp] theorem setV_clocks (n lane : Nat) (x : W32) : (s.setV n lane x).clocks = s.clocks := rfl
@[simp] theorem setV_poison (n lane : Nat) (x : W32) : (s.setV n lane x).poison = s.poison := rfl
@[simp] theorem setV_sealed (n lane : Nat) (x : W32) : (s.setV n lane x).sealed_ = s.sealed_ := rfl
@[simp] theorem setV_seals (n lane : Nat) (x : W32) : (s.setV n lane x).seals = s.seals := rfl
@[simp] theorem setV_tlb (n lane : Nat) (x : W32) : (s.setV n lane x).tlb = s.tlb := rfl
@[simp] theorem setV_moves (n lane : Nat) (x : W32) : (s.setV n lane x).moves = s.moves := rfl
@[simp] theorem setV_pools (n lane : Nat) (x : W32) : (s.setV n lane x).pools = s.pools := rfl
@[simp] theorem setV_regions (n lane : Nat) (x : W32) : (s.setV n lane x).regions = s.regions := rfl
@[simp] theorem setV_pinned (n lane : Nat) (x : W32) : (s.setV n lane x).pinned = s.pinned := rfl
@[simp] theorem setV_l1 (n lane : Nat) (x : W32) : (s.setV n lane x).l1 = s.l1 := rfl
@[simp] theorem setV_l2 (n lane : Nat) (x : W32) : (s.setV n lane x).l2 = s.l2 := rfl
@[simp] theorem setV_ro (n lane : Nat) (x : W32) : (s.setV n lane x).ro = s.ro := rfl
@[simp] theorem setV_hostCopy (n lane : Nat) (x : W32) : (s.setV n lane x).hostCopy = s.hostCopy := rfl
@[simp] theorem setV_fusedClusters (n lane : Nat) (x : W32) : (s.setV n lane x).fusedClusters = s.fusedClusters := rfl
@[simp] theorem setV_casts (n lane : Nat) (x : W32) : (s.setV n lane x).casts = s.casts := rfl
@[simp] theorem setV_castNo (n lane : Nat) (x : W32) : (s.setV n lane x).castNo = s.castNo := rfl
@[simp] theorem setV_replies (n lane : Nat) (x : W32) : (s.setV n lane x).replies = s.replies := rfl
@[simp] theorem setV_errs (n lane : Nat) (x : W32) : (s.setV n lane x).errs = s.errs := rfl
@[simp] theorem setV_lastStamp (n lane : Nat) (x : W32) : (s.setV n lane x).lastStamp = s.lastStamp := rfl
@[simp] theorem setV_heldPush (n lane : Nat) (x : W32) : (s.setV n lane x).heldPush = s.heldPush := rfl
@[simp] theorem setV_heldJoin (n lane : Nat) (x : W32) : (s.setV n lane x).heldJoin = s.heldJoin := rfl
@[simp] theorem setV_ranges (n lane : Nat) (x : W32) : (s.setV n lane x).ranges = s.ranges := rfl
@[simp] theorem setV_blocks (n lane : Nat) (x : W32) : (s.setV n lane x).blocks = s.blocks := rfl
@[simp] theorem setV_inflight (n lane : Nat) (x : W32) : (s.setV n lane x).inflight = s.inflight := rfl
@[simp] theorem setV_heldFails (n lane : Nat) (x : W32) : (s.setV n lane x).heldFails = s.heldFails := rfl
@[simp] theorem setV_rtbase (n lane : Nat) (x : W32) : (s.setV n lane x).rtbase = s.rtbase := rfl
@[simp] theorem setV_rtcount (n lane : Nat) (x : W32) : (s.setV n lane x).rtcount = s.rtcount := rfl
@[simp] theorem setV_rtstatus (n lane : Nat) (x : W32) : (s.setV n lane x).rtstatus = s.rtstatus := rfl
@[simp] theorem setV_rtlast (n lane : Nat) (x : W32) : (s.setV n lane x).rtlast = s.rtlast := rfl
@[simp] theorem setV_fillcnt (n lane : Nat) (x : W32) : (s.setV n lane x).fillcnt = s.fillcnt := rfl
@[simp] theorem setV_failcnt (n lane : Nat) (x : W32) : (s.setV n lane x).failcnt = s.failcnt := rfl
@[simp] theorem setV_meshlets (n lane : Nat) (x : W32) : (s.setV n lane x).meshlets = s.meshlets := rfl
@[simp] theorem setV_meshNo (n lane : Nat) (x : W32) : (s.setV n lane x).meshNo = s.meshNo := rfl
@[simp] theorem setV_drawNo (n lane : Nat) (x : W32) : (s.setV n lane x).drawNo = s.drawNo := rfl
@[simp] theorem setV_badDraws (n lane : Nat) (x : W32) : (s.setV n lane x).badDraws = s.badDraws := rfl
@[simp] theorem setV_frags (n lane : Nat) (x : W32) : (s.setV n lane x).frags = s.frags := rfl
@[simp] theorem setV_fragNo (n lane : Nat) (x : W32) : (s.setV n lane x).fragNo = s.fragNo := rfl
@[simp] theorem setV_hz (n lane : Nat) (x : W32) : (s.setV n lane x).hz = s.hz := rfl
@[simp] theorem setV_staged (n lane : Nat) (x : W32) : (s.setV n lane x).staged = s.staged := rfl
@[simp] theorem setV_flushes (n lane : Nat) (x : W32) : (s.setV n lane x).flushes = s.flushes := rfl
@[simp] theorem setV_port (n lane : Nat) (x : W32) : (s.setV n lane x).port = s.port := rfl
@[simp] theorem setV_incs (n lane : Nat) (x : W32) : (s.setV n lane x).incs = s.incs := rfl
@[simp] theorem setV_coreStore (n lane : Nat) (x : W32) : (s.setV n lane x).coreStore = s.coreStore := rfl
@[simp] theorem setV_atomfs (n lane : Nat) (x : W32) : (s.setV n lane x).atomfs = s.atomfs := rfl
@[simp] theorem setV_frames (n lane : Nat) (x : W32) : (s.setV n lane x).frames = s.frames := rfl
@[simp] theorem setV_frameNo (n lane : Nat) (x : W32) : (s.setV n lane x).frameNo = s.frameNo := rfl
@[simp] theorem setV_windows (n lane : Nat) (x : W32) : (s.setV n lane x).windows = s.windows := rfl
@[simp] theorem setV_copies (n lane : Nat) (x : W32) : (s.setV n lane x).copies = s.copies := rfl
@[simp] theorem setV_irqDev (n lane : Nat) (x : W32) : (s.setV n lane x).irqDev = s.irqDev := rfl
@[simp] theorem setV_irqPriv (n lane : Nat) (x : W32) : (s.setV n lane x).irqPriv = s.irqPriv := rfl
@[simp] theorem setV_irqIdle (n lane : Nat) (x : W32) : (s.setV n lane x).irqIdle = s.irqIdle := rfl
@[simp] theorem setV_msgs (n lane : Nat) (x : W32) : (s.setV n lane x).msgs = s.msgs := rfl
@[simp] theorem setV_msixOpen (n lane : Nat) (x : W32) : (s.setV n lane x).msixOpen = s.msixOpen := rfl
@[simp] theorem setV_msixPend (n lane : Nat) (x : W32) : (s.setV n lane x).msixPend = s.msixPend := rfl
@[simp] theorem setV_msixTable (n lane : Nat) (x : W32) : (s.setV n lane x).msixTable = s.msixTable := rfl
@[simp] theorem setV_links (n lane : Nat) (x : W32) : (s.setV n lane x).links = s.links := rfl
@[simp] theorem setV_route (n lane : Nat) (x : W32) : (s.setV n lane x).route = s.route := rfl
@[simp] theorem setV_pwbase (n lane : Nat) (x : W32) : (s.setV n lane x).pwbase = s.pwbase := rfl
@[simp] theorem setV_pwlimit (n lane : Nat) (x : W32) : (s.setV n lane x).pwlimit = s.pwlimit := rfl
@[simp] theorem setV_bootstat (n lane : Nat) (x : W32) : (s.setV n lane x).bootstat = s.bootstat := rfl
@[simp] theorem setV_boots (n lane : Nat) (x : W32) : (s.setV n lane x).boots = s.boots := rfl
@[simp] theorem setV_inReset (n lane : Nat) (x : W32) : (s.setV n lane x).inReset = s.inReset := rfl
@[simp] theorem setV_tripped (n lane : Nat) (x : W32) : (s.setV n lane x).tripped = s.tripped := rfl
@[simp] theorem setV_catalogue (n lane : Nat) (x : W32) : (s.setV n lane x).catalogue = s.catalogue := rfl
@[simp] theorem setV_devCount (n lane : Nat) (x : W32) : (s.setV n lane x).devCount = s.devCount := rfl
@[simp] theorem setV_idle (n lane : Nat) (x : W32) : (s.setV n lane x).idle = s.idle := rfl
@[simp] theorem setV_corrected (n lane : Nat) (x : W32) : (s.setV n lane x).corrected = s.corrected := rfl
@[simp] theorem setV_uncorrected (n lane : Nat) (x : W32) : (s.setV n lane x).uncorrected = s.uncorrected := rfl
@[simp] theorem setV_flips (n lane : Nat) (x : W32) : (s.setV n lane x).flips = s.flips := rfl
@[simp] theorem setV_flitFails (n lane : Nat) (x : W32) : (s.setV n lane x).flitFails = s.flitFails := rfl
@[simp] theorem setV_rtOp (n lane : Nat) (x : W32) : (s.setV n lane x).rtOp = s.rtOp := rfl
@[simp] theorem setV_lastRead (n lane : Nat) (x : W32) : (s.setV n lane x).lastRead = s.lastRead := rfl

@[simp] theorem stall_cycle : (s.stall).cycle = s.cycle := rfl
@[simp] theorem stall_turns : (s.stall).turns = s.turns := rfl
@[simp] theorem stall_issued : (s.stall).issued = s.issued := rfl
@[simp] theorem stall_free : (s.stall).free = s.free := rfl
@[simp] theorem stall_replyLater : (s.stall).replyLater = s.replyLater := rfl
@[simp] theorem stall_groups : (s.stall).groups = s.groups := rfl
@[simp] theorem stall_gangs : (s.stall).gangs = s.gangs := rfl
@[simp] theorem stall_nextGang : (s.stall).nextGang = s.nextGang := rfl
@[simp] theorem stall_ctxs : (s.stall).ctxs = s.ctxs := rfl
@[simp] theorem stall_queues : (s.stall).queues = s.queues := rfl
@[simp] theorem stall_quantum : (s.stall).quantum = s.quantum := rfl
@[simp] theorem stall_drainlim : (s.stall).drainlim = s.drainlim := rfl
@[simp] theorem stall_mem : (s.stall).mem = s.mem := rfl
@[simp] theorem stall_pend : (s.stall).pend = s.pend := rfl
@[simp] theorem stall_seqNo : (s.stall).seqNo = s.seqNo := rfl
@[simp] theorem stall_wlog : (s.stall).wlog = s.wlog := rfl
@[simp] theorem stall_clocks : (s.stall).clocks = s.clocks := rfl
@[simp] theorem stall_poison : (s.stall).poison = s.poison := rfl
@[simp] theorem stall_sealed : (s.stall).sealed_ = s.sealed_ := rfl
@[simp] theorem stall_seals : (s.stall).seals = s.seals := rfl
@[simp] theorem stall_tlb : (s.stall).tlb = s.tlb := rfl
@[simp] theorem stall_moves : (s.stall).moves = s.moves := rfl
@[simp] theorem stall_pools : (s.stall).pools = s.pools := rfl
@[simp] theorem stall_regions : (s.stall).regions = s.regions := rfl
@[simp] theorem stall_pinned : (s.stall).pinned = s.pinned := rfl
@[simp] theorem stall_l1 : (s.stall).l1 = s.l1 := rfl
@[simp] theorem stall_l2 : (s.stall).l2 = s.l2 := rfl
@[simp] theorem stall_ro : (s.stall).ro = s.ro := rfl
@[simp] theorem stall_hostCopy : (s.stall).hostCopy = s.hostCopy := rfl
@[simp] theorem stall_fusedClusters : (s.stall).fusedClusters = s.fusedClusters := rfl
@[simp] theorem stall_casts : (s.stall).casts = s.casts := rfl
@[simp] theorem stall_castNo : (s.stall).castNo = s.castNo := rfl
@[simp] theorem stall_replies : (s.stall).replies = s.replies := rfl
@[simp] theorem stall_errs : (s.stall).errs = s.errs := rfl
@[simp] theorem stall_lastStamp : (s.stall).lastStamp = s.lastStamp := rfl
@[simp] theorem stall_heldPush : (s.stall).heldPush = s.heldPush := rfl
@[simp] theorem stall_heldJoin : (s.stall).heldJoin = s.heldJoin := rfl
@[simp] theorem stall_ranges : (s.stall).ranges = s.ranges := rfl
@[simp] theorem stall_blocks : (s.stall).blocks = s.blocks := rfl
@[simp] theorem stall_inflight : (s.stall).inflight = s.inflight := rfl
@[simp] theorem stall_heldFails : (s.stall).heldFails = s.heldFails := rfl
@[simp] theorem stall_rtbase : (s.stall).rtbase = s.rtbase := rfl
@[simp] theorem stall_rtcount : (s.stall).rtcount = s.rtcount := rfl
@[simp] theorem stall_rtstatus : (s.stall).rtstatus = s.rtstatus := rfl
@[simp] theorem stall_rtlast : (s.stall).rtlast = s.rtlast := rfl
@[simp] theorem stall_fillcnt : (s.stall).fillcnt = s.fillcnt := rfl
@[simp] theorem stall_failcnt : (s.stall).failcnt = s.failcnt := rfl
@[simp] theorem stall_meshlets : (s.stall).meshlets = s.meshlets := rfl
@[simp] theorem stall_meshNo : (s.stall).meshNo = s.meshNo := rfl
@[simp] theorem stall_drawNo : (s.stall).drawNo = s.drawNo := rfl
@[simp] theorem stall_badDraws : (s.stall).badDraws = s.badDraws := rfl
@[simp] theorem stall_frags : (s.stall).frags = s.frags := rfl
@[simp] theorem stall_fragNo : (s.stall).fragNo = s.fragNo := rfl
@[simp] theorem stall_hz : (s.stall).hz = s.hz := rfl
@[simp] theorem stall_staged : (s.stall).staged = s.staged := rfl
@[simp] theorem stall_flushes : (s.stall).flushes = s.flushes := rfl
@[simp] theorem stall_port : (s.stall).port = s.port := rfl
@[simp] theorem stall_incs : (s.stall).incs = s.incs := rfl
@[simp] theorem stall_coreStore : (s.stall).coreStore = s.coreStore := rfl
@[simp] theorem stall_atomfs : (s.stall).atomfs = s.atomfs := rfl
@[simp] theorem stall_frames : (s.stall).frames = s.frames := rfl
@[simp] theorem stall_frameNo : (s.stall).frameNo = s.frameNo := rfl
@[simp] theorem stall_windows : (s.stall).windows = s.windows := rfl
@[simp] theorem stall_copies : (s.stall).copies = s.copies := rfl
@[simp] theorem stall_irqDev : (s.stall).irqDev = s.irqDev := rfl
@[simp] theorem stall_irqPriv : (s.stall).irqPriv = s.irqPriv := rfl
@[simp] theorem stall_irqIdle : (s.stall).irqIdle = s.irqIdle := rfl
@[simp] theorem stall_msgs : (s.stall).msgs = s.msgs := rfl
@[simp] theorem stall_msixOpen : (s.stall).msixOpen = s.msixOpen := rfl
@[simp] theorem stall_msixPend : (s.stall).msixPend = s.msixPend := rfl
@[simp] theorem stall_msixTable : (s.stall).msixTable = s.msixTable := rfl
@[simp] theorem stall_links : (s.stall).links = s.links := rfl
@[simp] theorem stall_route : (s.stall).route = s.route := rfl
@[simp] theorem stall_pwbase : (s.stall).pwbase = s.pwbase := rfl
@[simp] theorem stall_pwlimit : (s.stall).pwlimit = s.pwlimit := rfl
@[simp] theorem stall_bootstat : (s.stall).bootstat = s.bootstat := rfl
@[simp] theorem stall_boots : (s.stall).boots = s.boots := rfl
@[simp] theorem stall_inReset : (s.stall).inReset = s.inReset := rfl
@[simp] theorem stall_tripped : (s.stall).tripped = s.tripped := rfl
@[simp] theorem stall_catalogue : (s.stall).catalogue = s.catalogue := rfl
@[simp] theorem stall_devCount : (s.stall).devCount = s.devCount := rfl
@[simp] theorem stall_idle : (s.stall).idle = s.idle := rfl
@[simp] theorem stall_corrected : (s.stall).corrected = s.corrected := rfl
@[simp] theorem stall_uncorrected : (s.stall).uncorrected = s.uncorrected := rfl
@[simp] theorem stall_flips : (s.stall).flips = s.flips := rfl
@[simp] theorem stall_flitFails : (s.stall).flitFails = s.flitFails := rfl
@[simp] theorem stall_rtOp : (s.stall).rtOp = s.rtOp := rfl
@[simp] theorem stall_lastRead : (s.stall).lastRead = s.lastRead := rfl

@[simp] theorem hold_cycle : (s.hold).cycle = s.cycle := rfl
@[simp] theorem hold_turns : (s.hold).turns = s.turns := rfl
@[simp] theorem hold_issued : (s.hold).issued = s.issued := rfl
@[simp] theorem hold_free : (s.hold).free = s.free := rfl
@[simp] theorem hold_replyLater : (s.hold).replyLater = s.replyLater := rfl
@[simp] theorem hold_groups : (s.hold).groups = s.groups := rfl
@[simp] theorem hold_gangs : (s.hold).gangs = s.gangs := rfl
@[simp] theorem hold_nextGang : (s.hold).nextGang = s.nextGang := rfl
@[simp] theorem hold_ctxs : (s.hold).ctxs = s.ctxs := rfl
@[simp] theorem hold_queues : (s.hold).queues = s.queues := rfl
@[simp] theorem hold_quantum : (s.hold).quantum = s.quantum := rfl
@[simp] theorem hold_drainlim : (s.hold).drainlim = s.drainlim := rfl
@[simp] theorem hold_mem : (s.hold).mem = s.mem := rfl
@[simp] theorem hold_pend : (s.hold).pend = s.pend := rfl
@[simp] theorem hold_seqNo : (s.hold).seqNo = s.seqNo := rfl
@[simp] theorem hold_wlog : (s.hold).wlog = s.wlog := rfl
@[simp] theorem hold_clocks : (s.hold).clocks = s.clocks := rfl
@[simp] theorem hold_poison : (s.hold).poison = s.poison := rfl
@[simp] theorem hold_sealed : (s.hold).sealed_ = s.sealed_ := rfl
@[simp] theorem hold_seals : (s.hold).seals = s.seals := rfl
@[simp] theorem hold_tlb : (s.hold).tlb = s.tlb := rfl
@[simp] theorem hold_moves : (s.hold).moves = s.moves := rfl
@[simp] theorem hold_pools : (s.hold).pools = s.pools := rfl
@[simp] theorem hold_regions : (s.hold).regions = s.regions := rfl
@[simp] theorem hold_pinned : (s.hold).pinned = s.pinned := rfl
@[simp] theorem hold_l1 : (s.hold).l1 = s.l1 := rfl
@[simp] theorem hold_l2 : (s.hold).l2 = s.l2 := rfl
@[simp] theorem hold_ro : (s.hold).ro = s.ro := rfl
@[simp] theorem hold_hostCopy : (s.hold).hostCopy = s.hostCopy := rfl
@[simp] theorem hold_fusedClusters : (s.hold).fusedClusters = s.fusedClusters := rfl
@[simp] theorem hold_casts : (s.hold).casts = s.casts := rfl
@[simp] theorem hold_castNo : (s.hold).castNo = s.castNo := rfl
@[simp] theorem hold_replies : (s.hold).replies = s.replies := rfl
@[simp] theorem hold_errs : (s.hold).errs = s.errs := rfl
@[simp] theorem hold_lastStamp : (s.hold).lastStamp = s.lastStamp := rfl
@[simp] theorem hold_heldPush : (s.hold).heldPush = s.heldPush := rfl
@[simp] theorem hold_heldJoin : (s.hold).heldJoin = s.heldJoin := rfl
@[simp] theorem hold_ranges : (s.hold).ranges = s.ranges := rfl
@[simp] theorem hold_blocks : (s.hold).blocks = s.blocks := rfl
@[simp] theorem hold_inflight : (s.hold).inflight = s.inflight := rfl
@[simp] theorem hold_heldFails : (s.hold).heldFails = s.heldFails := rfl
@[simp] theorem hold_rtbase : (s.hold).rtbase = s.rtbase := rfl
@[simp] theorem hold_rtcount : (s.hold).rtcount = s.rtcount := rfl
@[simp] theorem hold_rtstatus : (s.hold).rtstatus = s.rtstatus := rfl
@[simp] theorem hold_rtlast : (s.hold).rtlast = s.rtlast := rfl
@[simp] theorem hold_fillcnt : (s.hold).fillcnt = s.fillcnt := rfl
@[simp] theorem hold_failcnt : (s.hold).failcnt = s.failcnt := rfl
@[simp] theorem hold_meshlets : (s.hold).meshlets = s.meshlets := rfl
@[simp] theorem hold_meshNo : (s.hold).meshNo = s.meshNo := rfl
@[simp] theorem hold_drawNo : (s.hold).drawNo = s.drawNo := rfl
@[simp] theorem hold_badDraws : (s.hold).badDraws = s.badDraws := rfl
@[simp] theorem hold_frags : (s.hold).frags = s.frags := rfl
@[simp] theorem hold_fragNo : (s.hold).fragNo = s.fragNo := rfl
@[simp] theorem hold_hz : (s.hold).hz = s.hz := rfl
@[simp] theorem hold_staged : (s.hold).staged = s.staged := rfl
@[simp] theorem hold_flushes : (s.hold).flushes = s.flushes := rfl
@[simp] theorem hold_port : (s.hold).port = s.port := rfl
@[simp] theorem hold_incs : (s.hold).incs = s.incs := rfl
@[simp] theorem hold_coreStore : (s.hold).coreStore = s.coreStore := rfl
@[simp] theorem hold_atomfs : (s.hold).atomfs = s.atomfs := rfl
@[simp] theorem hold_frames : (s.hold).frames = s.frames := rfl
@[simp] theorem hold_frameNo : (s.hold).frameNo = s.frameNo := rfl
@[simp] theorem hold_windows : (s.hold).windows = s.windows := rfl
@[simp] theorem hold_copies : (s.hold).copies = s.copies := rfl
@[simp] theorem hold_irqDev : (s.hold).irqDev = s.irqDev := rfl
@[simp] theorem hold_irqPriv : (s.hold).irqPriv = s.irqPriv := rfl
@[simp] theorem hold_irqIdle : (s.hold).irqIdle = s.irqIdle := rfl
@[simp] theorem hold_msgs : (s.hold).msgs = s.msgs := rfl
@[simp] theorem hold_msixOpen : (s.hold).msixOpen = s.msixOpen := rfl
@[simp] theorem hold_msixPend : (s.hold).msixPend = s.msixPend := rfl
@[simp] theorem hold_msixTable : (s.hold).msixTable = s.msixTable := rfl
@[simp] theorem hold_links : (s.hold).links = s.links := rfl
@[simp] theorem hold_route : (s.hold).route = s.route := rfl
@[simp] theorem hold_pwbase : (s.hold).pwbase = s.pwbase := rfl
@[simp] theorem hold_pwlimit : (s.hold).pwlimit = s.pwlimit := rfl
@[simp] theorem hold_bootstat : (s.hold).bootstat = s.bootstat := rfl
@[simp] theorem hold_boots : (s.hold).boots = s.boots := rfl
@[simp] theorem hold_inReset : (s.hold).inReset = s.inReset := rfl
@[simp] theorem hold_tripped : (s.hold).tripped = s.tripped := rfl
@[simp] theorem hold_catalogue : (s.hold).catalogue = s.catalogue := rfl
@[simp] theorem hold_devCount : (s.hold).devCount = s.devCount := rfl
@[simp] theorem hold_idle : (s.hold).idle = s.idle := rfl
@[simp] theorem hold_corrected : (s.hold).corrected = s.corrected := rfl
@[simp] theorem hold_uncorrected : (s.hold).uncorrected = s.uncorrected := rfl
@[simp] theorem hold_flips : (s.hold).flips = s.flips := rfl
@[simp] theorem hold_flitFails : (s.hold).flitFails = s.flitFails := rfl
@[simp] theorem hold_rtOp : (s.hold).rtOp = s.rtOp := rfl
@[simp] theorem hold_lastRead : (s.hold).lastRead = s.lastRead := rfl

@[simp] theorem nextFree_cycle : (s.nextFree).cycle = s.cycle := rfl
@[simp] theorem nextFree_turns : (s.nextFree).turns = s.turns := rfl
@[simp] theorem nextFree_issued : (s.nextFree).issued = s.issued := rfl
@[simp] theorem nextFree_cur : (s.nextFree).cur = s.cur := rfl
@[simp] theorem nextFree_replyLater : (s.nextFree).replyLater = s.replyLater := rfl
@[simp] theorem nextFree_groups : (s.nextFree).groups = s.groups := rfl
@[simp] theorem nextFree_gangs : (s.nextFree).gangs = s.gangs := rfl
@[simp] theorem nextFree_nextGang : (s.nextFree).nextGang = s.nextGang := rfl
@[simp] theorem nextFree_ctxs : (s.nextFree).ctxs = s.ctxs := rfl
@[simp] theorem nextFree_queues : (s.nextFree).queues = s.queues := rfl
@[simp] theorem nextFree_quantum : (s.nextFree).quantum = s.quantum := rfl
@[simp] theorem nextFree_drainlim : (s.nextFree).drainlim = s.drainlim := rfl
@[simp] theorem nextFree_mem : (s.nextFree).mem = s.mem := rfl
@[simp] theorem nextFree_pend : (s.nextFree).pend = s.pend := rfl
@[simp] theorem nextFree_seqNo : (s.nextFree).seqNo = s.seqNo := rfl
@[simp] theorem nextFree_wlog : (s.nextFree).wlog = s.wlog := rfl
@[simp] theorem nextFree_clocks : (s.nextFree).clocks = s.clocks := rfl
@[simp] theorem nextFree_poison : (s.nextFree).poison = s.poison := rfl
@[simp] theorem nextFree_sealed : (s.nextFree).sealed_ = s.sealed_ := rfl
@[simp] theorem nextFree_seals : (s.nextFree).seals = s.seals := rfl
@[simp] theorem nextFree_tlb : (s.nextFree).tlb = s.tlb := rfl
@[simp] theorem nextFree_moves : (s.nextFree).moves = s.moves := rfl
@[simp] theorem nextFree_pools : (s.nextFree).pools = s.pools := rfl
@[simp] theorem nextFree_regions : (s.nextFree).regions = s.regions := rfl
@[simp] theorem nextFree_pinned : (s.nextFree).pinned = s.pinned := rfl
@[simp] theorem nextFree_l1 : (s.nextFree).l1 = s.l1 := rfl
@[simp] theorem nextFree_l2 : (s.nextFree).l2 = s.l2 := rfl
@[simp] theorem nextFree_ro : (s.nextFree).ro = s.ro := rfl
@[simp] theorem nextFree_hostCopy : (s.nextFree).hostCopy = s.hostCopy := rfl
@[simp] theorem nextFree_fusedClusters : (s.nextFree).fusedClusters = s.fusedClusters := rfl
@[simp] theorem nextFree_casts : (s.nextFree).casts = s.casts := rfl
@[simp] theorem nextFree_castNo : (s.nextFree).castNo = s.castNo := rfl
@[simp] theorem nextFree_replies : (s.nextFree).replies = s.replies := rfl
@[simp] theorem nextFree_errs : (s.nextFree).errs = s.errs := rfl
@[simp] theorem nextFree_lastStamp : (s.nextFree).lastStamp = s.lastStamp := rfl
@[simp] theorem nextFree_heldPush : (s.nextFree).heldPush = s.heldPush := rfl
@[simp] theorem nextFree_heldJoin : (s.nextFree).heldJoin = s.heldJoin := rfl
@[simp] theorem nextFree_ranges : (s.nextFree).ranges = s.ranges := rfl
@[simp] theorem nextFree_blocks : (s.nextFree).blocks = s.blocks := rfl
@[simp] theorem nextFree_inflight : (s.nextFree).inflight = s.inflight := rfl
@[simp] theorem nextFree_heldFails : (s.nextFree).heldFails = s.heldFails := rfl
@[simp] theorem nextFree_rtbase : (s.nextFree).rtbase = s.rtbase := rfl
@[simp] theorem nextFree_rtcount : (s.nextFree).rtcount = s.rtcount := rfl
@[simp] theorem nextFree_rtstatus : (s.nextFree).rtstatus = s.rtstatus := rfl
@[simp] theorem nextFree_rtlast : (s.nextFree).rtlast = s.rtlast := rfl
@[simp] theorem nextFree_fillcnt : (s.nextFree).fillcnt = s.fillcnt := rfl
@[simp] theorem nextFree_failcnt : (s.nextFree).failcnt = s.failcnt := rfl
@[simp] theorem nextFree_meshlets : (s.nextFree).meshlets = s.meshlets := rfl
@[simp] theorem nextFree_meshNo : (s.nextFree).meshNo = s.meshNo := rfl
@[simp] theorem nextFree_drawNo : (s.nextFree).drawNo = s.drawNo := rfl
@[simp] theorem nextFree_badDraws : (s.nextFree).badDraws = s.badDraws := rfl
@[simp] theorem nextFree_frags : (s.nextFree).frags = s.frags := rfl
@[simp] theorem nextFree_fragNo : (s.nextFree).fragNo = s.fragNo := rfl
@[simp] theorem nextFree_hz : (s.nextFree).hz = s.hz := rfl
@[simp] theorem nextFree_staged : (s.nextFree).staged = s.staged := rfl
@[simp] theorem nextFree_flushes : (s.nextFree).flushes = s.flushes := rfl
@[simp] theorem nextFree_port : (s.nextFree).port = s.port := rfl
@[simp] theorem nextFree_incs : (s.nextFree).incs = s.incs := rfl
@[simp] theorem nextFree_coreStore : (s.nextFree).coreStore = s.coreStore := rfl
@[simp] theorem nextFree_atomfs : (s.nextFree).atomfs = s.atomfs := rfl
@[simp] theorem nextFree_frames : (s.nextFree).frames = s.frames := rfl
@[simp] theorem nextFree_frameNo : (s.nextFree).frameNo = s.frameNo := rfl
@[simp] theorem nextFree_windows : (s.nextFree).windows = s.windows := rfl
@[simp] theorem nextFree_copies : (s.nextFree).copies = s.copies := rfl
@[simp] theorem nextFree_irqDev : (s.nextFree).irqDev = s.irqDev := rfl
@[simp] theorem nextFree_irqPriv : (s.nextFree).irqPriv = s.irqPriv := rfl
@[simp] theorem nextFree_irqIdle : (s.nextFree).irqIdle = s.irqIdle := rfl
@[simp] theorem nextFree_msgs : (s.nextFree).msgs = s.msgs := rfl
@[simp] theorem nextFree_msixOpen : (s.nextFree).msixOpen = s.msixOpen := rfl
@[simp] theorem nextFree_msixPend : (s.nextFree).msixPend = s.msixPend := rfl
@[simp] theorem nextFree_msixTable : (s.nextFree).msixTable = s.msixTable := rfl
@[simp] theorem nextFree_links : (s.nextFree).links = s.links := rfl
@[simp] theorem nextFree_route : (s.nextFree).route = s.route := rfl
@[simp] theorem nextFree_pwbase : (s.nextFree).pwbase = s.pwbase := rfl
@[simp] theorem nextFree_pwlimit : (s.nextFree).pwlimit = s.pwlimit := rfl
@[simp] theorem nextFree_bootstat : (s.nextFree).bootstat = s.bootstat := rfl
@[simp] theorem nextFree_boots : (s.nextFree).boots = s.boots := rfl
@[simp] theorem nextFree_inReset : (s.nextFree).inReset = s.inReset := rfl
@[simp] theorem nextFree_tripped : (s.nextFree).tripped = s.tripped := rfl
@[simp] theorem nextFree_catalogue : (s.nextFree).catalogue = s.catalogue := rfl
@[simp] theorem nextFree_devCount : (s.nextFree).devCount = s.devCount := rfl
@[simp] theorem nextFree_idle : (s.nextFree).idle = s.idle := rfl
@[simp] theorem nextFree_corrected : (s.nextFree).corrected = s.corrected := rfl
@[simp] theorem nextFree_uncorrected : (s.nextFree).uncorrected = s.uncorrected := rfl
@[simp] theorem nextFree_flips : (s.nextFree).flips = s.flips := rfl
@[simp] theorem nextFree_flitFails : (s.nextFree).flitFails = s.flitFails := rfl
@[simp] theorem nextFree_rtOp : (s.nextFree).rtOp = s.rtOp := rfl
@[simp] theorem nextFree_lastRead : (s.nextFree).lastRead = s.lastRead := rfl

@[simp] theorem nextSeq_cycle : (s.nextSeq).cycle = s.cycle := rfl
@[simp] theorem nextSeq_turns : (s.nextSeq).turns = s.turns := rfl
@[simp] theorem nextSeq_issued : (s.nextSeq).issued = s.issued := rfl
@[simp] theorem nextSeq_cur : (s.nextSeq).cur = s.cur := rfl
@[simp] theorem nextSeq_free : (s.nextSeq).free = s.free := rfl
@[simp] theorem nextSeq_replyLater : (s.nextSeq).replyLater = s.replyLater := rfl
@[simp] theorem nextSeq_groups : (s.nextSeq).groups = s.groups := rfl
@[simp] theorem nextSeq_gangs : (s.nextSeq).gangs = s.gangs := rfl
@[simp] theorem nextSeq_nextGang : (s.nextSeq).nextGang = s.nextGang := rfl
@[simp] theorem nextSeq_ctxs : (s.nextSeq).ctxs = s.ctxs := rfl
@[simp] theorem nextSeq_queues : (s.nextSeq).queues = s.queues := rfl
@[simp] theorem nextSeq_quantum : (s.nextSeq).quantum = s.quantum := rfl
@[simp] theorem nextSeq_drainlim : (s.nextSeq).drainlim = s.drainlim := rfl
@[simp] theorem nextSeq_mem : (s.nextSeq).mem = s.mem := rfl
@[simp] theorem nextSeq_pend : (s.nextSeq).pend = s.pend := rfl
@[simp] theorem nextSeq_wlog : (s.nextSeq).wlog = s.wlog := rfl
@[simp] theorem nextSeq_clocks : (s.nextSeq).clocks = s.clocks := rfl
@[simp] theorem nextSeq_poison : (s.nextSeq).poison = s.poison := rfl
@[simp] theorem nextSeq_sealed : (s.nextSeq).sealed_ = s.sealed_ := rfl
@[simp] theorem nextSeq_seals : (s.nextSeq).seals = s.seals := rfl
@[simp] theorem nextSeq_tlb : (s.nextSeq).tlb = s.tlb := rfl
@[simp] theorem nextSeq_moves : (s.nextSeq).moves = s.moves := rfl
@[simp] theorem nextSeq_pools : (s.nextSeq).pools = s.pools := rfl
@[simp] theorem nextSeq_regions : (s.nextSeq).regions = s.regions := rfl
@[simp] theorem nextSeq_pinned : (s.nextSeq).pinned = s.pinned := rfl
@[simp] theorem nextSeq_l1 : (s.nextSeq).l1 = s.l1 := rfl
@[simp] theorem nextSeq_l2 : (s.nextSeq).l2 = s.l2 := rfl
@[simp] theorem nextSeq_ro : (s.nextSeq).ro = s.ro := rfl
@[simp] theorem nextSeq_hostCopy : (s.nextSeq).hostCopy = s.hostCopy := rfl
@[simp] theorem nextSeq_fusedClusters : (s.nextSeq).fusedClusters = s.fusedClusters := rfl
@[simp] theorem nextSeq_casts : (s.nextSeq).casts = s.casts := rfl
@[simp] theorem nextSeq_castNo : (s.nextSeq).castNo = s.castNo := rfl
@[simp] theorem nextSeq_replies : (s.nextSeq).replies = s.replies := rfl
@[simp] theorem nextSeq_errs : (s.nextSeq).errs = s.errs := rfl
@[simp] theorem nextSeq_lastStamp : (s.nextSeq).lastStamp = s.lastStamp := rfl
@[simp] theorem nextSeq_heldPush : (s.nextSeq).heldPush = s.heldPush := rfl
@[simp] theorem nextSeq_heldJoin : (s.nextSeq).heldJoin = s.heldJoin := rfl
@[simp] theorem nextSeq_ranges : (s.nextSeq).ranges = s.ranges := rfl
@[simp] theorem nextSeq_blocks : (s.nextSeq).blocks = s.blocks := rfl
@[simp] theorem nextSeq_inflight : (s.nextSeq).inflight = s.inflight := rfl
@[simp] theorem nextSeq_heldFails : (s.nextSeq).heldFails = s.heldFails := rfl
@[simp] theorem nextSeq_rtbase : (s.nextSeq).rtbase = s.rtbase := rfl
@[simp] theorem nextSeq_rtcount : (s.nextSeq).rtcount = s.rtcount := rfl
@[simp] theorem nextSeq_rtstatus : (s.nextSeq).rtstatus = s.rtstatus := rfl
@[simp] theorem nextSeq_rtlast : (s.nextSeq).rtlast = s.rtlast := rfl
@[simp] theorem nextSeq_fillcnt : (s.nextSeq).fillcnt = s.fillcnt := rfl
@[simp] theorem nextSeq_failcnt : (s.nextSeq).failcnt = s.failcnt := rfl
@[simp] theorem nextSeq_meshlets : (s.nextSeq).meshlets = s.meshlets := rfl
@[simp] theorem nextSeq_meshNo : (s.nextSeq).meshNo = s.meshNo := rfl
@[simp] theorem nextSeq_drawNo : (s.nextSeq).drawNo = s.drawNo := rfl
@[simp] theorem nextSeq_badDraws : (s.nextSeq).badDraws = s.badDraws := rfl
@[simp] theorem nextSeq_frags : (s.nextSeq).frags = s.frags := rfl
@[simp] theorem nextSeq_fragNo : (s.nextSeq).fragNo = s.fragNo := rfl
@[simp] theorem nextSeq_hz : (s.nextSeq).hz = s.hz := rfl
@[simp] theorem nextSeq_staged : (s.nextSeq).staged = s.staged := rfl
@[simp] theorem nextSeq_flushes : (s.nextSeq).flushes = s.flushes := rfl
@[simp] theorem nextSeq_port : (s.nextSeq).port = s.port := rfl
@[simp] theorem nextSeq_incs : (s.nextSeq).incs = s.incs := rfl
@[simp] theorem nextSeq_coreStore : (s.nextSeq).coreStore = s.coreStore := rfl
@[simp] theorem nextSeq_atomfs : (s.nextSeq).atomfs = s.atomfs := rfl
@[simp] theorem nextSeq_frames : (s.nextSeq).frames = s.frames := rfl
@[simp] theorem nextSeq_frameNo : (s.nextSeq).frameNo = s.frameNo := rfl
@[simp] theorem nextSeq_windows : (s.nextSeq).windows = s.windows := rfl
@[simp] theorem nextSeq_copies : (s.nextSeq).copies = s.copies := rfl
@[simp] theorem nextSeq_irqDev : (s.nextSeq).irqDev = s.irqDev := rfl
@[simp] theorem nextSeq_irqPriv : (s.nextSeq).irqPriv = s.irqPriv := rfl
@[simp] theorem nextSeq_irqIdle : (s.nextSeq).irqIdle = s.irqIdle := rfl
@[simp] theorem nextSeq_msgs : (s.nextSeq).msgs = s.msgs := rfl
@[simp] theorem nextSeq_msixOpen : (s.nextSeq).msixOpen = s.msixOpen := rfl
@[simp] theorem nextSeq_msixPend : (s.nextSeq).msixPend = s.msixPend := rfl
@[simp] theorem nextSeq_msixTable : (s.nextSeq).msixTable = s.msixTable := rfl
@[simp] theorem nextSeq_links : (s.nextSeq).links = s.links := rfl
@[simp] theorem nextSeq_route : (s.nextSeq).route = s.route := rfl
@[simp] theorem nextSeq_pwbase : (s.nextSeq).pwbase = s.pwbase := rfl
@[simp] theorem nextSeq_pwlimit : (s.nextSeq).pwlimit = s.pwlimit := rfl
@[simp] theorem nextSeq_bootstat : (s.nextSeq).bootstat = s.bootstat := rfl
@[simp] theorem nextSeq_boots : (s.nextSeq).boots = s.boots := rfl
@[simp] theorem nextSeq_inReset : (s.nextSeq).inReset = s.inReset := rfl
@[simp] theorem nextSeq_tripped : (s.nextSeq).tripped = s.tripped := rfl
@[simp] theorem nextSeq_catalogue : (s.nextSeq).catalogue = s.catalogue := rfl
@[simp] theorem nextSeq_devCount : (s.nextSeq).devCount = s.devCount := rfl
@[simp] theorem nextSeq_idle : (s.nextSeq).idle = s.idle := rfl
@[simp] theorem nextSeq_corrected : (s.nextSeq).corrected = s.corrected := rfl
@[simp] theorem nextSeq_uncorrected : (s.nextSeq).uncorrected = s.uncorrected := rfl
@[simp] theorem nextSeq_flips : (s.nextSeq).flips = s.flips := rfl
@[simp] theorem nextSeq_flitFails : (s.nextSeq).flitFails = s.flitFails := rfl
@[simp] theorem nextSeq_rtOp : (s.nextSeq).rtOp = s.rtOp := rfl
@[simp] theorem nextSeq_lastRead : (s.nextSeq).lastRead = s.lastRead := rfl

-- ## Reading what an update wrote

@[simp] theorem group_setGroup (key n : Nat) (g : Group) :
    (s.setGroup key g).group n = if n = key then g else s.group n := by
  simp [group, setGroup]

@[simp] theorem gang_setGang (n m : Nat) (g : Gang) : (s.setGang n g).gang m = if m = n then g else s.gang m := by
  simp [gang, setGang]

@[simp] theorem ctx_setCtx (n m : Nat) (c : Ctx) : (s.setCtx n c).ctx m = if m = n then c else s.ctx m := by
  simp [ctx, setCtx]

/-- The issuing group after a change of it is the changed group; every other group stays. -/
@[simp] theorem cg_modG (f : Group → Group) : (s.modG f).cg = f s.cg := by
  simp [cg, modG, setCg]

theorem group_modG (f : Group → Group) (n : Nat) : (s.modG f).group n = if n = s.cur.grp then f s.cg else s.group n := by
  simp [modG, setCg]

/-- A change of the issuing group changes nothing outside the groups. -/
theorem modG_rest (f : Group → Group) : { s.modG f with groups := s.groups } = s := rfl

theorem cg_setK (n : KReg) (x : W64) : (s.setK n x).cg = s.cg.putK n x := by simp [setK]
theorem cg_setV (n l : Nat) (x : W32) : (s.setV n l x).cg = s.cg.putV n l x := by simp [setV]

/-- Operands are read as they stood before the bundle: a write of the same bundle does not change them (R52). -/
theorem rg_modG {g : Group} (h : s.cur.view = some g) (f : Group → Group) : (s.modG f).rg = s.rg := by
  simp [rg, modG, setCg, h]

-- ## The registers of a group after a write of one

theorem putK_k (g : Group) (n m : Nat) (x : W64) :
    Sparse.get 0 (g.putK n x).r.k m = if m = n then x else Sparse.get 0 g.r.k m := by
  simp [Group.putK]

theorem putV_v (g : Group) (n l m : Nat) (x : W32) :
    Sparse.get 0 (g.putV n l x).r.v m = if m = 64 * n + l then x else Sparse.get 0 g.r.v m := by
  simp [Group.putV]

/-- Writing lanes of vN is one change of the issuing group, lane after lane. -/
theorem setLanes_modG (n : Nat) (ls : List Nat) (f : Nat → W32) :
    s.setLanes n ls f = if ls = [] then s else s.modG fun g => ls.foldl (fun g l => g.putV n l (f l)) g := by
  induction ls generalizing s with
  | nil => simp [setLanes]
  | cons l r ih =>
    have h : s.setLanes n (l :: r) f = (s.setV n l (f l)).setLanes n r f := rfl
    rw [h, ih]
    simp only [List.foldl_cons, reduceCtorEq, if_false]
    split
    · subst_vars; rfl
    · have : ∀ (g h : Group → Group), (s.modG g).modG h = s.modG fun x => h (g x) := by
        intro g h
        simp only [modG, setCg, setGroup_cur]
        rw [show (s.setGroup s.cur.grp (g s.cg)).cg = g s.cg by simp [cg]]
        simp only [setGroup, Sparse.insert_insert]
      exact this _ _

end Sys2Proof.Machine.State
end

section
/-!
PROOFS. Merge steps (R44), remote writes (R34, R36) and evictions (R190, R201, R260): what a write at its home does to each byte of
memory, what a merge step leaves when it applies its stores in the order of R44, when a die applies a logged write, and where the
bytes of an evicted cache go.
-/
namespace Sys2Proof

-- ## Entries of a sparse map after insertions

theorem Sparse.mem_insert_self {α : Type} (m : Sparse α) (k : Nat) (v : α) : (k, v) ∈ Sparse.insert m k v := by
  induction m with
  | nil => exact List.mem_cons_self
  | cons e r ih =>
    unfold Sparse.insert
    split
    · exact List.mem_cons_self
    · split
      · exact List.mem_cons_self
      · exact List.mem_cons_of_mem _ ih

theorem Sparse.mem_insert_of_ne {α : Type} {m : Sparse α} {k : Nat} {x : Nat × α} (v : α) (hx : x ∈ m) (hk : x.1 ≠ k) :
    x ∈ Sparse.insert m k v := by
  induction m with
  | nil => simp at hx
  | cons e r ih =>
    unfold Sparse.insert
    split
    · exact List.mem_cons_of_mem _ hx
    · split
      case isTrue hke =>
        rcases List.mem_cons.mp hx with rfl | hx
        · exact absurd hke.symm hk
        · exact List.mem_cons_of_mem _ hx
      case isFalse =>
        rcases List.mem_cons.mp hx with rfl | hx
        · exact List.mem_cons_self
        · exact List.mem_cons_of_mem _ (ih hx)

/-- Entries inserted under distinct keys are all listed afterwards. -/
theorem Sparse.mem_foldl_insert {α β : Type} (key : β → Nat) (val : β → α) (l : List β) (m : Sparse α)
    (hl : (l.map key).Nodup) {x : β} (hx : x ∈ l) :
    (key x, val x) ∈ l.foldl (fun m x => Sparse.insert m (key x) (val x)) m := by
  induction l generalizing m with
  | nil => simp at hx
  | cons z r ih =>
    obtain ⟨hz, hr⟩ := List.nodup_cons.mp hl
    rcases List.mem_cons.mp hx with rfl | hx
    · exact foldl_keeps (fun m => (key x, val x) ∈ m) _ r _ (Sparse.mem_insert_self m _ _) fun t y hy ht =>
        Sparse.mem_insert_of_ne _ ht fun heq => hz (List.mem_map.mpr ⟨y, hy, heq.symm⟩)
    · exact ih _ hr hx

end Sys2Proof

namespace Sys2Proof.Machine
open State

-- ## Writes at the home

/-- A run of bytes written into a sparse memory is read back byte by byte, and every other byte stays. -/
theorem get_setAll_run (data : List Byte) (m : Sparse Byte) (pa b : Nat) :
    Sparse.get 0 (Sparse.setAll 0 m ((run pa data.length).zip data)) b =
      if pa ≤ b ∧ b < pa + data.length then data.getD (b - pa) 0 else Sparse.get 0 m b := by
  induction data generalizing m pa with
  | nil =>
    rw [if_neg (by simp)]
    rfl
  | cons x r ih =>
    have hrun : run pa (x :: r).length = pa :: run (pa + 1) r.length := by
      simp [run, upFrom, List.range_succ_eq_map, Function.comp_def, Nat.add_assoc, Nat.add_comm 1]
    have hcons : Sparse.setAll 0 m ((run pa (x :: r).length).zip (x :: r)) =
        Sparse.setAll 0 (Sparse.set 0 m pa x) ((run (pa + 1) r.length).zip r) := by
      rw [hrun]
      rfl
    rw [hcons, ih, Sparse.get_set, List.length_cons]
    rcases Nat.lt_trichotomy b pa with h | rfl | h
    · rw [if_neg (by omega), if_neg (by omega), if_neg (by omega)]
    · rw [if_neg (by omega), if_pos rfl, if_pos (by omega), Nat.sub_self, List.getD_cons_zero]
    · rw [if_neg (by omega : b ≠ pa), show b - pa = b - (pa + 1) + 1 by omega, List.getD_cons_succ]
      exact ite_congr (propext (by omega)) (fun _ => rfl) (fun _ => rfl)

section
variable (s : State) (die pa : Nat) (data : List Byte) (bad : Bool)

@[simp] theorem applyWrite_pend : (s.applyWrite die pa data bad).pend = s.pend := by cases data <;> rfl
@[simp] theorem applyWrite_l1 : (s.applyWrite die pa data bad).l1 = s.l1 := by cases data <;> rfl
@[simp] theorem applyWrite_l2 : (s.applyWrite die pa data bad).l2 = s.l2 := by cases data <;> rfl
@[simp] theorem applyWrite_groups : (s.applyWrite die pa data bad).groups = s.groups := by cases data <;> rfl

/-- A write at its home gives the bytes it covers their new values, and no other byte. -/
theorem memByte_applyWrite (b : Nat) :
    (s.applyWrite die pa data bad).memByte b =
      if pa ≤ b ∧ b < pa + data.length then data.getD (b - pa) 0 else s.memByte b := by
  cases data with
  | nil => exact (if_neg (by simp)).symm
  | cons x r => exact get_setAll_run (x :: r) s.mem pa b

end

/-- Two states differ at most in memory and in what the homes keep of the writes to it: copies of host lines, marks, vector clocks,
the write log and the seals. -/
def SameButMemory (s t : State) : Prop :=
  { t with mem := s.mem, hostCopy := s.hostCopy, poison := s.poison, clocks := s.clocks, wlog := s.wlog, sealed_ := s.sealed_,
           seals := s.seals } = s

theorem sameButMemory_applyWrite (s t : State) (die pa : Nat) (data : List Byte) (bad : Bool) (h : SameButMemory s t) :
    SameButMemory s (t.applyWrite die pa data bad) := by
  cases data with
  | nil => exact h
  | cons x r => exact h

-- ## The order of R44

theorem keyLe_refl (x : PStore) : Rule.keyLe x x := by
  unfold Rule.keyLe
  omega

theorem keyLe_total (x y : PStore) : Rule.keyLe x y ∨ Rule.keyLe y x := by
  unfold Rule.keyLe
  omega

theorem keyLe_trans {x y z : PStore} (hxy : Rule.keyLe x y) (hyz : Rule.keyLe y z) : Rule.keyLe x z := by
  unfold Rule.keyLe at *
  omega

theorem storeBelow_iff (x y : PStore) : storeBelow x y = true ↔ Rule.keyLe x y := by
  simp [storeBelow, Rule.keyLe]

theorem insertStore_perm (x : PStore) (l : List PStore) : (insertStore x l).Perm (x :: l) := by
  induction l with
  | nil => rfl
  | cons y r ih =>
    unfold insertStore
    split
    · exact (ih.cons y).trans (List.Perm.swap x y r)
    · rfl

theorem pairwise_insertStore (x : PStore) (l : List PStore) (h : l.Pairwise Rule.keyLe) :
    (insertStore x l).Pairwise Rule.keyLe := by
  induction l with
  | nil => exact List.pairwise_singleton _ x
  | cons y r ih =>
    obtain ⟨hy, hr⟩ := List.pairwise_cons.mp h
    unfold insertStore
    split
    case isTrue hyx =>
      refine List.pairwise_cons.mpr ⟨fun z hz => ?_, ih hr⟩
      rcases List.mem_cons.mp ((insertStore_perm x r).mem_iff.mp hz) with rfl | hz
      · exact (storeBelow_iff y z).mp hyx
      · exact hy z hz
    case isFalse hyx =>
      have hxy : Rule.keyLe x y := (keyLe_total x y).resolve_right (mt (storeBelow_iff y x).mpr hyx)
      refine List.pairwise_cons.mpr ⟨fun z hz => ?_, h⟩
      rcases List.mem_cons.mp hz with rfl | hz
      · exact hxy
      · exact keyLe_trans hxy (hy z hz)

theorem pairwise_sortStores (l : List PStore) : (sortStores l).Pairwise Rule.keyLe :=
  foldl_keeps (·.Pairwise Rule.keyLe) _ l [] List.Pairwise.nil fun a x _ ha => pairwise_insertStore x a ha

theorem foldl_insertStore_perm (l acc : List PStore) : (l.foldl (fun a x => insertStore x a) acc).Perm (l ++ acc) := by
  induction l generalizing acc with
  | nil => rfl
  | cons x r ih => exact (ih _).trans (((insertStore_perm x acc).append_left r).trans List.perm_middle)

theorem mem_sortStores (l : List PStore) (x : PStore) : x ∈ sortStores l ↔ x ∈ l := by
  simpa [sortStores] using (foldl_insertStore_perm l []).mem_iff (a := x)

-- ## Applying stores one after another

/-- The homes apply stores in the order of a list. -/
def performStores (s : State) (l : List PStore) : State :=
  l.foldl (fun s x => s.applyWrite (dieOf x.src) x.pa x.data x.poison) s

theorem performStores_cons (s : State) (x : PStore) (l : List PStore) :
    performStores s (x :: l) = performStores (s.applyWrite (dieOf x.src) x.pa x.data x.poison) l := rfl

theorem sameButMemory_performStores (s : State) (l : List PStore) : SameButMemory s (performStores s l) :=
  foldl_keeps (SameButMemory s) _ l s rfl fun t _ _ ht => sameButMemory_applyWrite s t _ _ _ _ ht

theorem performStores_pend (s : State) (l : List PStore) : (performStores s l).pend = s.pend :=
  foldl_keeps (·.pend = s.pend) _ l s rfl fun t _ _ ht => (applyWrite_pend t _ _ _ _).trans ht

theorem memByte_performStores_of_not_covers (s : State) (l : List PStore) (b : Nat) (h : ∀ x ∈ l, ¬Rule.covers x b) :
    (performStores s l).memByte b = s.memByte b :=
  foldl_keeps (fun t => t.memByte b = s.memByte b) _ l s rfl fun t x hx ht =>
    (memByte_applyWrite t _ _ _ _ b).trans ((if_neg (h x hx)).trans ht)

/-- Stores applied in ascending order of their keys leave in each byte the value of the greatest one that covers it. -/
theorem memByte_performStores_of_covers (s : State) (l : List PStore) (b : Nat) (hl : l.Pairwise Rule.keyLe)
    (h : ∃ x ∈ l, Rule.covers x b) :
    ∃ x ∈ l, Rule.covers x b ∧ (performStores s l).memByte b = x.data.getD (b - x.pa) 0 ∧
      ∀ y ∈ l, Rule.covers y b → Rule.keyLe y x := by
  induction l generalizing s with
  | nil => simp at h
  | cons z r ih =>
    obtain ⟨hz, hr⟩ := List.pairwise_cons.mp hl
    rw [performStores_cons]
    by_cases hlater : ∃ x ∈ r, Rule.covers x b
    · obtain ⟨x, hx, hc, hval, hmax⟩ := ih (s.applyWrite (dieOf z.src) z.pa z.data z.poison) hr hlater
      exact ⟨x, List.mem_cons_of_mem z hx, hc, hval, List.forall_mem_cons.mpr ⟨fun _ => hz x hx, hmax⟩⟩
    · have hnone : ∀ x ∈ r, ¬Rule.covers x b := fun x hx hc => hlater ⟨x, hx, hc⟩
      have hzc : Rule.covers z b := by simpa [hlater] using h
      refine ⟨z, List.mem_cons_self, hzc, ?_, List.forall_mem_cons.mpr ⟨fun _ => keyLe_refl z, fun y hy hc => absurd hc (hnone y hy)⟩⟩
      rw [memByte_performStores_of_not_covers _ r b hnone, memByte_applyWrite]
      exact if_pos hzc

-- ## The merge step

theorem overlaps_iff_touches (x : PStore) (a n : Nat) : overlaps x.pa x.data.length a n = true ↔ Rule.touches x a n := by
  simp [overlaps, Rule.touches]

/-- The stores that a merge step over [a, a + n) takes, in the order in which it applies them. -/
def mergeOrder (s : State) (a n : Nat) : List PStore := sortStores (s.pend.filter fun x => overlaps x.pa x.data.length a n)

theorem mem_mergeOrder (s : State) (a n : Nat) (x : PStore) : x ∈ mergeOrder s a n ↔ x ∈ s.pend ∧ Rule.touches x a n := by
  rw [mergeOrder, mem_sortStores, List.mem_filter, overlaps_iff_touches]

/-- A merge step takes the stores of its span out of the queue and applies them in the order of R44. -/
theorem mergeLine_eq {s : State} {line a n : Nat} (h : s.mergeSpan (lineOf line) = (a, n)) :
    s.mergeLine line =
      performStores { s with pend := s.pend.filter fun x => !overlaps x.pa x.data.length a n } (mergeOrder s a n) := by
  unfold State.mergeLine
  rw [h]
  rfl

/-- A NODEST waits in the aligned 128 bytes of a line (R222). -/
def NodestWaits (s : State) (line : Nat) : Prop := ∃ x ∈ s.pend, x.data.length = 128 ∧ x.pa = 128 * (line / 128)

/-- The span of a merge step: the aligned 128 bytes where a NODEST waits, else the line (R222). -/
theorem mergeSpan_lineOf {s : State} {line a n : Nat}
    (h : (NodestWaits s line ∧ a = 128 * (line / 128) ∧ n = 128) ∨ (¬NodestWaits s line ∧ a = 64 * (line / 64) ∧ n = 64)) :
    s.mergeSpan (lineOf line) = (a, n) := by
  have hpair : lineOf line / 128 * 128 = 128 * (line / 128) := by
    unfold lineOf
    omega
  have hany : s.pend.any (fun x => x.data.length == 128 && x.pa == lineOf line / 128 * 128) = true ↔ NodestWaits s line := by
    simp [NodestWaits, hpair]
  unfold State.mergeSpan
  rcases h with ⟨h, rfl, rfl⟩ | ⟨h, rfl, rfl⟩
  · rw [if_pos (hany.mpr h), hpair]
  · rw [if_neg (mt hany.mp h), lineOf, Nat.mul_comm]

/-- Where one store of one byte waits, the merge step over its line applies it and leaves no store. -/
theorem mergeLine_of_single {s : State} {x : PStore} (hs : s.pend = [x]) (hx : x.data.length = 1) :
    s.mergeLine (64 * (x.pa / 64)) =
      ({ s with pend := [] } : State).applyWrite (dieOf x.src) x.pa x.data x.poison := by
  have hnarrow : ¬NodestWaits s (64 * (x.pa / 64)) := by simp [NodestWaits, hs, hx]
  have hspan : s.mergeSpan (lineOf (64 * (x.pa / 64))) = (64 * (x.pa / 64), 64) :=
    mergeSpan_lineOf (.inr ⟨hnarrow, by omega, rfl⟩)
  have hover : overlaps x.pa x.data.length (64 * (x.pa / 64)) 64 = true := by
    rw [overlaps_iff_touches, Rule.touches]
    omega
  have horder : mergeOrder s (64 * (x.pa / 64)) 64 = [x] := by simp [mergeOrder, sortStores, insertStore, hs, hover]
  have hrest : s.pend.filter (fun y => !overlaps y.pa y.data.length (64 * (x.pa / 64)) 64) = [] := by simp [hs, hover]
  rw [mergeLine_eq hspan, horder, hrest]
  rfl

-- ## Remote writes

theorem nth?_eq_getElem? {α : Type} (l : List α) (i : Nat) : nth? l i = l[i]? := by
  induction l generalizing i with
  | nil => rfl
  | cons x r ih =>
    cases i with
    | zero => rfl
    | succ i => exact ih i

theorem setNth_eq_set {α : Type} (l : List α) (i : Nat) (x : α) : setNth l i x = l.set i x := by
  induction l generalizing i with
  | nil => rfl
  | cons y r ih =>
    cases i with
    | zero => rfl
    | succ i => exact congrArg (y :: ·) (ih i)

/-- The model's test is the condition of R36 and R34. -/
theorem canApply_iff (s : State) (e idx : Nat) (r : WRec) :
    s.canApply e r (s.wlog.take idx) = true ↔ Rule.mayApply s e idx r := by
  have hclock : ∀ i, (if i = r.die then (s.clock e).getD i 0 + 1 == r.clock.getD i 0
      else decide (r.clock.getD i 0 ≤ (s.clock e).getD i 0)) = true ↔
      if i = r.die then (s.clock e).getD i 0 + 1 = r.clock.getD i 0 else r.clock.getD i 0 ≤ (s.clock e).getD i 0 := by
    intro i
    split <;> simp
  have hapart : ∀ b : WRec, (!(b.waiting.elem e && overlaps b.pa b.new.length r.pa r.new.length)) = true ↔
      (e ∈ b.waiting → b.pa + b.new.length ≤ r.pa ∨ r.pa + r.new.length ≤ b.pa) := by
    intro b
    simp only [overlaps, Bool.not_eq_true', Bool.and_eq_false_iff, decide_eq_false_iff_not, List.elem_eq_mem, Nat.not_lt]
    exact Decidable.imp_iff_not_or.symm.trans (imp_congr_right fun _ => or_comm)
  simp only [State.canApply, Bool.and_eq_true, List.all_eq_true, List.mem_range, hclock, hapart, List.elem_iff,
    Rule.mayApply, and_assoc]

theorem applyRemote_of_mayApply {s : State} {e idx : Nat} {r : WRec} (hr : s.wlog[idx]? = some r) (h : Rule.mayApply s e idx r) :
    s.applyRemote e idx =
      { s with wlog := (s.wlog.set idx { r with waiting := r.waiting.filter (· != e) }).filter fun x => x.waiting != []
               clocks := Sparse.insert s.clocks e ((s.clock e).set r.die (r.clock.getD r.die 0)) } := by
  rw [← nth?_eq_getElem?] at hr
  simp only [State.applyRemote, hr, (canApply_iff s e idx r).mpr h, if_true, State.pruneLog, setNth_eq_set]

theorem applyRemote_of_not_mayApply {s : State} {e idx : Nat} {r : WRec} (hr : s.wlog[idx]? = some r)
    (h : ¬Rule.mayApply s e idx r) : s.applyRemote e idx = s := by
  rw [← nth?_eq_getElem?] at hr
  simp only [State.applyRemote, hr, if_neg (mt (canApply_iff s e idx r).mp h)]

-- ## Bytes that leave a cache

/-- Whether a cache key lies in bytes [a, a + n) of cache `unit`. -/
def keyIn (unit a n k : Nat) : Bool := k / 2 ^ 48 == unit && decide (a ≤ k % 2 ^ 48) && decide (k % 2 ^ 48 < a + n)

theorem keyIn_iff (unit a n k : Nat) : keyIn unit a n k = true ↔ k / 2 ^ 48 = unit ∧ a ≤ k % 2 ^ 48 ∧ k % 2 ^ 48 < a + n := by
  simp [keyIn, and_assoc]

/-- The dirty bytes of a cache in a range. -/
def dirtyIn (m : Sparse CByte) (unit a n : Nat) : List (Nat × CByte) := m.filter fun x => keyIn unit a n x.1 && x.2.dirty

theorem mem_dirtyIn {m : Sparse CByte} {unit a n : Nat} {x : Nat × CByte} :
    x ∈ dirtyIn m unit a n ↔ x ∈ m ∧ Rule.cachedIn unit a n x ∧ x.2.dirty = true := by
  simp [dirtyIn, keyIn_iff, Rule.cachedIn]

/-- What stays of a cache is what does not lie in the range. -/
theorem mem_filter_not_keyIn {α : Type} (m : Sparse α) (unit a n : Nat) (x : Nat × α) :
    x ∈ m.filter (fun x => !keyIn unit a n x.1) ↔
      x ∈ m ∧ ¬(x.1 / 2 ^ 48 = unit ∧ a ≤ x.1 % 2 ^ 48 ∧ x.1 % 2 ^ 48 < a + n) := by
  rw [List.mem_filter, Bool.not_eq_true', ← Bool.not_eq_true, keyIn_iff]

/-- The dirty bytes of one cache have distinct addresses. -/
theorem nodup_address_dirtyIn {m : Sparse CByte} (unit a n : Nat) (hm : Rule.Distinct m) :
    ((dirtyIn m unit a n).map fun x => x.1 % 2 ^ 48).Nodup := by
  refine List.pairwise_map.mpr (((List.pairwise_map.mp hm).filter _).imp_of_mem fun hx hy hne haddr => hne ?_)
  obtain ⟨-, ⟨hxu, -, -⟩, -⟩ := mem_dirtyIn.mp hx
  obtain ⟨-, ⟨hyu, -, -⟩, -⟩ := mem_dirtyIn.mp hy
  omega

-- ## Evictions from an L1

/-- An eviction from an L1 inserts its dirty bytes in the die L2 and drops all its bytes in the range. -/
theorem evict_l1 (s : State) {unit : Nat} (a n : Nat) (hu : unit < 4096) :
    s.evict .l1 unit a n =
      { s with l1 := s.l1.filter fun x => !keyIn unit a n x.1
               l2 := (dirtyIn s.l1 unit a n).foldl (fun m x => Sparse.insert m (cacheKey (dieOf unit) (x.1 % 2 ^ 48)) x.2) s.l2 } := by
  simp only [State.evict, if_pos hu]
  rfl

theorem nodup_cacheKey_dirtyIn {m : Sparse CByte} (die unit a n : Nat) (hm : Rule.Distinct m) :
    ((dirtyIn m unit a n).map fun x => cacheKey die (x.1 % 2 ^ 48)).Nodup :=
  List.pairwise_map.mpr ((List.pairwise_map.mp (nodup_address_dirtyIn unit a n hm)).imp fun hne hkey =>
    hne (Nat.add_left_cancel hkey))

-- ## Evictions from a die L2

/-- The entry that one byte stored by a unit has in its slice's queue (R44). -/
def queuedByte (s : State) (src pa : Nat) (v : Byte) (bad : Bool) : PStore :=
  { time := s.sid, src := src, seq := s.seqNo + 1, lane := 0, pa := pa, data := [v], poison := bad, grp := 2 ^ 40, split := 0 }

/-- Where no store waits, a byte that a unit stores to an address with a home is written there at once. -/
theorem storeNow_byte {s : State} (hs : s.pend = []) (src pa : Nat) (v : Byte) (bad : Bool) (hpa : paHasHome pa = true) :
    s.storeNow src pa [v] bad = s.nextSeq.applyWrite (dieOf src) pa [v] bad := by
  have hlines : linesOf pa 1 = [64 * (pa / 64)] := by simp [linesOf]
  have hqueue : s.nextSeq.queueStore src (2 ^ 40) 0 0 pa [v] bad =
      { s.nextSeq with pend := [queuedByte s src pa v bad] } := by
    rw [State.queueStore, if_neg (by simp [hpa])]
    exact congrArg (fun p => { s.nextSeq with pend := p ++ [queuedByte s src pa v bad] }) hs
  rw [State.storeNow, hqueue, List.length_singleton, State.mergeRange, hlines]
  refine (mergeLine_of_single (x := queuedByte s src pa v bad) rfl rfl).trans ?_
  exact congrArg (fun p => State.applyWrite { s.nextSeq with pend := p } (dieOf src) pa [v] bad) hs.symm

/-- A list of cached bytes is stored to their homes one after another. -/
def storeHome (src : Nat) (s : State) (l : List (Nat × CByte)) : State :=
  l.foldl (fun s x => s.storeNow src (x.1 % 2 ^ 48) [x.2.val] x.2.bad) s

/-- No store waits, and the caches and the registers are those of an earlier state. -/
def Settled (s t : State) : Prop := t.pend = [] ∧ t.l1 = s.l1 ∧ t.l2 = s.l2 ∧ t.groups = s.groups

theorem settled_storeNow {s t : State} (ht : Settled s t) (src pa : Nat) (v : Byte) (bad : Bool) (hpa : paHasHome pa = true) :
    Settled s (t.storeNow src pa [v] bad) := by
  obtain ⟨hp, h1, h2, hg⟩ := ht
  rw [storeNow_byte hp src pa v bad hpa]
  exact ⟨by simpa using hp, by simpa using h1, by simpa using h2, by simpa using hg⟩

theorem memByte_storeNow {s : State} (hs : s.pend = []) (src pa : Nat) (v : Byte) (bad : Bool) (hpa : paHasHome pa = true) (b : Nat) :
    (s.storeNow src pa [v] bad).memByte b = if b = pa then v else s.memByte b := by
  rw [storeNow_byte hs src pa v bad hpa, memByte_applyWrite]
  by_cases h : b = pa
  · simp [h]
  · rw [if_neg h, if_neg (by simp only [List.length_singleton]; omega)]
    rfl

section
variable {s : State} {l : List (Nat × CByte)} (src : Nat) (hs : s.pend = []) (hl : ∀ x ∈ l, paHasHome (x.1 % 2 ^ 48) = true)
include hs hl

theorem settled_storeHome : Settled s (storeHome src s l) :=
  foldl_keeps (Settled s) _ l s ⟨hs, rfl, rfl, rfl⟩ fun _ x hx ht => settled_storeNow ht src _ _ _ (hl x hx)

theorem memByte_storeHome_of_ne (b : Nat) (hb : ∀ x ∈ l, x.1 % 2 ^ 48 ≠ b) : (storeHome src s l).memByte b = s.memByte b := by
  have hkeep : Settled s (storeHome src s l) ∧ (storeHome src s l).memByte b = s.memByte b :=
    foldl_keeps (fun t => Settled s t ∧ t.memByte b = s.memByte b) _ l s ⟨⟨hs, rfl, rfl, rfl⟩, rfl⟩ fun t x hx ⟨ht, hmem⟩ =>
      ⟨settled_storeNow ht src _ _ _ (hl x hx), by rw [memByte_storeNow ht.1 src _ _ _ (hl x hx), if_neg (hb x hx).symm, hmem]⟩
  exact hkeep.2

end

/-- Bytes stored home to distinct addresses are all in memory afterwards. -/
theorem memByte_storeHome_of_mem {s : State} {l : List (Nat × CByte)} (src : Nat) (hs : s.pend = [])
    (hl : ∀ x ∈ l, paHasHome (x.1 % 2 ^ 48) = true) (hd : (l.map fun x => x.1 % 2 ^ 48).Nodup) {x : Nat × CByte} (hx : x ∈ l) :
    (storeHome src s l).memByte (x.1 % 2 ^ 48) = x.2.val := by
  induction l generalizing s with
  | nil => simp at hx
  | cons z r ih =>
    obtain ⟨hz, hr⟩ := List.forall_mem_cons.mp hl
    obtain ⟨hzr, hdr⟩ := List.nodup_cons.mp hd
    have hs' : (s.storeNow src (z.1 % 2 ^ 48) [z.2.val] z.2.bad).pend = [] :=
      (settled_storeNow (s := s) ⟨hs, rfl, rfl, rfl⟩ src _ z.2.val z.2.bad hz).1
    change (storeHome src (s.storeNow src (z.1 % 2 ^ 48) [z.2.val] z.2.bad) r).memByte _ = _
    rcases List.mem_cons.mp hx with rfl | hx
    · rw [memByte_storeHome_of_ne src hs' hr _ fun y hy heq => hzr (List.mem_map.mpr ⟨y, hy, heq⟩),
        memByte_storeNow hs src _ _ _ hz, if_pos rfl]
    · exact ih hs' hr hdr hx

/-- An eviction from a die L2 stores its dirty bytes home and drops all its bytes in the range. -/
theorem evict_l2 (s : State) (unit a n : Nat) :
    s.evict .l2 unit a n =
      { storeHome (srcOf unit 60) s (dirtyIn s.l2 unit a n) with
        l2 := (storeHome (srcOf unit 60) s (dirtyIn s.l2 unit a n)).l2.filter fun x => !keyIn unit a n x.1 } := rfl

-- ## The steps of the package

theorem exec_mergeStep (line : Nat) (s : State) : exec (.mergeStep line) s = .next (s.mergeLine line) := rfl
theorem exec_remoteWriteApply (die idx : Nat) (s : State) : exec (.remoteWriteApply die idx) s = .next (s.applyRemote die idx) := rfl
theorem exec_cacheEviction (what : EvictWhat) (unit a n : Nat) (s : State) :
    exec (.cacheEviction what unit a n) s = .next (s.evict what unit a n) := rfl

/-- A merge step over [a, a + n) takes exactly the stores that touch it, and gives each byte the covering store of greatest key. -/
theorem mergeLine_applies_greatest {s : State} {line a n : Nat} (h : s.mergeSpan (lineOf line) = (a, n)) :
    { s.mergeLine line with mem := s.mem, pend := s.pend, hostCopy := s.hostCopy, poison := s.poison, clocks := s.clocks,
                            wlog := s.wlog, sealed_ := s.sealed_, seals := s.seals } = s ∧
    (∀ x, x ∈ (s.mergeLine line).pend ↔ x ∈ s.pend ∧ ¬Rule.touches x a n) ∧
    ∀ b,
      ((∀ x ∈ s.pend, Rule.touches x a n → ¬Rule.covers x b) → (s.mergeLine line).memByte b = s.memByte b) ∧
      ((∃ x ∈ s.pend, Rule.touches x a n ∧ Rule.covers x b) →
        ∃ x ∈ s.pend, Rule.touches x a n ∧ Rule.covers x b ∧ (s.mergeLine line).memByte b = x.data.getD (b - x.pa) 0 ∧
          ∀ y ∈ s.pend, Rule.touches y a n → Rule.covers y b → Rule.keyLe y x) := by
  rw [mergeLine_eq h]
  refine ⟨?_, fun x => ?_, fun b => ⟨fun hb => ?_, fun ⟨x, hx, ht, hc⟩ => ?_⟩⟩
  · exact congrArg (fun t => { t with pend := s.pend })
      (sameButMemory_performStores { s with pend := s.pend.filter fun x => !overlaps x.pa x.data.length a n } (mergeOrder s a n))
  · rw [performStores_pend, List.mem_filter, Bool.not_eq_true', ← Bool.not_eq_true, overlaps_iff_touches]
  · refine memByte_performStores_of_not_covers _ _ b fun x hx => ?_
    obtain ⟨hp, ht⟩ := (mem_mergeOrder s a n x).mp hx
    exact hb x hp ht
  · obtain ⟨z, hz, hzc, hval, hmax⟩ := memByte_performStores_of_covers
      { s with pend := s.pend.filter fun x => !overlaps x.pa x.data.length a n } (mergeOrder s a n) b (pairwise_sortStores _)
      ⟨x, (mem_mergeOrder s a n x).mpr ⟨hx, ht⟩, hc⟩
    obtain ⟨hzp, hzt⟩ := (mem_mergeOrder s a n z).mp hz
    exact ⟨z, hzp, hzt, hzc, hval, fun y hy hyt => hmax y ((mem_mergeOrder s a n y).mpr ⟨hy, hyt⟩)⟩

/-- A remote write that may be applied gives the die the writer's clock entry and leaves the record's waiting list (R36). -/
theorem applyRemote_takes_entry {s : State} {e idx : Nat} {r : WRec} (hr : s.wlog[idx]? = some r) (h : Rule.mayApply s e idx r) :
    { s.applyRemote e idx with wlog := s.wlog, clocks := s.clocks } = s ∧
    (∀ d, d ≠ e → (s.applyRemote e idx).clock d = s.clock d) ∧
    (s.applyRemote e idx).clock e = (s.clock e).set r.die (r.clock.getD r.die 0) ∧
    (s.applyRemote e idx).wlog =
      (s.wlog.set idx { r with waiting := r.waiting.filter (· != e) }).filter fun x => x.waiting != [] := by
  rw [applyRemote_of_mayApply hr h]
  exact ⟨rfl, fun d hd => Sparse.get_insert_other _ _ _ hd, Sparse.get_insert_same _ _ _ _, rfl⟩

/-- An eviction from an L1 loses no dirty byte: each stands in the die L2 under its address (R190). -/
theorem evict_l1_moves_dirty {s : State} {unit : Nat} (a n : Nat) (h1 : Rule.Distinct s.l1) (hu : unit < 4096) :
    { s.evict .l1 unit a n with l1 := s.l1, l2 := s.l2 } = s ∧
    (∀ x, x ∈ (s.evict .l1 unit a n).l1 ↔ x ∈ s.l1 ∧ ¬Rule.cachedIn unit a n x) ∧
    ∀ x ∈ s.l1, Rule.cachedIn unit a n x → x.2.dirty = true →
      (dieOf unit * 2 ^ 48 + x.1 % 2 ^ 48, x.2) ∈ (s.evict .l1 unit a n).l2 := by
  rw [evict_l1 s a n hu]
  exact ⟨rfl, mem_filter_not_keyIn s.l1 unit a n, fun x hx hin hdirty =>
    Sparse.mem_foldl_insert (fun x => cacheKey (dieOf unit) (x.1 % 2 ^ 48)) Prod.snd _ s.l2
      (nodup_cacheKey_dirtyIn (dieOf unit) unit a n h1) (mem_dirtyIn.mpr ⟨hx, hin, hdirty⟩)⟩

/-- An eviction from a die L2 loses no dirty byte: each is in memory, and memory is otherwise as before (R190). -/
theorem evict_l2_writes_home {s : State} {unit a n : Nat} (h2 : Rule.Distinct s.l2) (hs : s.pend = [])
    (hhome : ∀ i < n, paHasHome (a + i) = true) :
    (∀ x, x ∈ (s.evict .l2 unit a n).l2 ↔ x ∈ s.l2 ∧ ¬Rule.cachedIn unit a n x) ∧
    (s.evict .l2 unit a n).l1 = s.l1 ∧ (s.evict .l2 unit a n).groups = s.groups ∧
    (∀ x ∈ s.l2, Rule.cachedIn unit a n x → x.2.dirty = true → (s.evict .l2 unit a n).memByte (x.1 % 2 ^ 48) = x.2.val) ∧
    ∀ b, (∀ x ∈ s.l2, Rule.cachedIn unit a n x → x.2.dirty = true → x.1 % 2 ^ 48 ≠ b) →
      (s.evict .l2 unit a n).memByte b = s.memByte b := by
  have hl : ∀ x ∈ dirtyIn s.l2 unit a n, paHasHome (x.1 % 2 ^ 48) = true := fun x hx => by
    obtain ⟨-, ⟨-, hlo, hhi⟩, -⟩ := mem_dirtyIn.mp hx
    exact Nat.add_sub_cancel' hlo ▸ hhome (x.1 % 2 ^ 48 - a) (by omega)
  obtain ⟨-, hl1, hl2, hgroups⟩ := settled_storeHome (srcOf unit 60) hs hl
  rw [evict_l2]
  refine ⟨fun x => ?_, hl1, hgroups, fun x hx hin hdirty => ?_, fun b hb => ?_⟩
  · rw [hl2]
    exact mem_filter_not_keyIn s.l2 unit a n x
  · exact memByte_storeHome_of_mem _ hs hl (nodup_address_dirtyIn unit a n h2) (mem_dirtyIn.mpr ⟨hx, hin, hdirty⟩)
  · refine memByte_storeHome_of_ne _ hs hl b fun x hx => ?_
    obtain ⟨hm, hin, hdirty⟩ := mem_dirtyIn.mp hx
    exact hb x hm hin hdirty

/-- An eviction of read-only copies drops those of the range and nothing else (R201). -/
theorem evict_ro_drops (s : State) (unit a n : Nat) :
    { s.evict .ro unit a n with ro := s.ro } = s ∧
    ∀ x, x ∈ (s.evict .ro unit a n).ro ↔ x ∈ s.ro ∧ ¬(x.1 / 2 ^ 48 = unit ∧ a ≤ x.1 % 2 ^ 48 ∧ x.1 % 2 ^ 48 < a + n) :=
  ⟨rfl, mem_filter_not_keyIn s.ro unit a n⟩

/-- An eviction of cached translations drops those of the range and nothing else (R260). -/
theorem evict_tlb_drops (s : State) (unit a n : Nat) :
    { s.evict .tlb unit a n with tlb := s.tlb } = s ∧
    ∀ x, x ∈ (s.evict .tlb unit a n).tlb ↔ x ∈ s.tlb ∧ ¬(x.die = unit ∧ a ≤ x.va ∧ x.va < a + n) := by
  refine ⟨rfl, fun x => ?_⟩
  change x ∈ s.tlb.filter (fun t => !(t.die == unit && decide (a ≤ t.va) && decide (t.va < a + n))) ↔ _
  rw [List.mem_filter, Bool.not_eq_true', ← Bool.not_eq_true]
  simp only [Bool.and_eq_true, beq_iff_eq, decide_eq_true_eq, and_assoc]

-- ## The hypotheses can be met

/-- The record of die 0's first write, which die 1 alone has yet to apply. -/
def firstWrite : WRec :=
  { die := 0, clock := 1 :: List.replicate 19 0, pa := 0, old := [0], new := [7], waiting := [1] }

/-- Die 1 may apply that write, and the log then forgets it. -/
theorem applyRemote_firstWrite : ({ State.reset with wlog := [firstWrite] }.applyRemote 1 0).wlog = [] := by
  have hmay : Rule.mayApply { State.reset with wlog := [firstWrite] } 1 0 firstWrite := (canApply_iff _ 1 0 firstWrite).mp (by decide)
  obtain ⟨-, -, -, hlog⟩ := applyRemote_takes_entry rfl hmay
  exact hlog.trans (by decide)

/-- A cached byte 7 that no home holds yet. -/
def dirtySeven : CByte := { val := 7, dirty := true, bad := false, ctx := 0 }

/-- The first line of die 0's L2 leaves it, and its dirty byte 5 is in memory. -/
theorem evict_l2_dirtySeven : ({ State.reset with l2 := [(5, dirtySeven)] }.evict .l2 0 0 64).memByte 5 = 7 := by
  obtain ⟨-, -, -, hmem, -⟩ := evict_l2_writes_home (s := { State.reset with l2 := [(5, dirtySeven)] }) (unit := 0) (a := 0) (n := 64)
    (List.pairwise_singleton _ 5) rfl (by decide)
  exact hmem (5, dirtySeven) List.mem_cons_self ⟨rfl, by decide, by decide⟩ rfl

/-- Settles O33: the greatest store of a merge step is applied last, the test on a logged write is the condition of R36 and R34, and
an eviction hands every dirty byte on before it drops its range. -/
theorem mergeStepsAndRemoteWrites : Obligations.MergeStepsAndRemoteWrites := by
  refine ⟨?_, ?_, ?_⟩
  · intro s line wide a n h
    exact ⟨_, exec_mergeStep line s, mergeLine_applies_greatest (mergeSpan_lineOf h)⟩
  · refine fun s e idx r hr => ⟨fun h => ⟨_, exec_remoteWriteApply e idx s, applyRemote_takes_entry hr h⟩, fun h => ?_⟩
    rw [exec_remoteWriteApply, applyRemote_of_not_mayApply hr h]
  · exact fun s unit a n h1 h2 =>
      ⟨fun hu => ⟨_, exec_cacheEviction .l1 unit a n s, evict_l1_moves_dirty a n h1 hu⟩,
        fun hs hhome => ⟨_, exec_cacheEviction .l2 unit a n s, evict_l2_writes_home h2 hs hhome⟩,
        ⟨_, exec_cacheEviction .ro unit a n s, evict_ro_drops s unit a n⟩,
        ⟨_, exec_cacheEviction .tlb unit a n s, evict_tlb_drops s unit a n⟩⟩

end Sys2Proof.Machine
end

section
/-!
PROOFS. Rounding into F32, F16 and BF16 (R81, R89, R90). The magnitude codes of a format, taken without a bound on the exponent,
stand for an ascending scale of numbers; rounding takes one of the two codes around a value, as the mode says; the bound then gives
the overflow of R90, and the sign mirrors the rest.
-/
namespace Sys2Proof.Machine

-- ## Powers of two and ascending scales

theorem two_zpow_pos (e : Int) : (0 : Rat) < 2 ^ e := Rat.zpow_pos (by decide)

theorem two_zpow_add_natCast (e : Int) (n : Nat) : (2 : Rat) ^ (e + n) = (2 ^ n : Nat) * 2 ^ e := by
  rw [Rat.zpow_add (by decide), Rat.zpow_natCast, Rat.natCast_pow, Rat.mul_comm]
  rfl

/-- The values of a scale grow with its codes. -/
def Ascending (V : Nat → Rat) : Prop := ∀ i j, i < j → V i < V j

theorem ascending_of_step {V : Nat → Rat} (h : ∀ n, V n < V (n + 1)) : Ascending V := by
  intro i j hij
  induction j with
  | zero => omega
  | succ j ih =>
    rcases Nat.lt_or_eq_of_le (Nat.le_of_lt_succ hij) with hlt | rfl
    · have hj := ih hlt
      have hstep := h j
      grind
    · exact h i

theorem Ascending.le {V : Nat → Rat} (hV : Ascending V) {i j : Nat} (hij : i ≤ j) : V i ≤ V j := by
  rcases Nat.lt_or_eq_of_le hij with hlt | rfl
  · exact Rat.le_of_lt (hV i j hlt)
  · exact Rat.le_refl

theorem Ascending.injective {V : Nat → Rat} (hV : Ascending V) {i j : Nat} (hij : V i = V j) : i = j := by
  rcases Nat.lt_trichotomy i j with hlt | heq | hgt
  · have hlt := hV i j hlt
    grind
  · exact heq
  · have hgt := hV j i hgt
    grind

-- ## The three formats of R81

/-- A format with a sign bit, infinities and NaNs in its highest exponent field, and the overflow of R90. -/
structure Fmt.IsIeee (f : Fmt) : Prop where
  sg : f.sg = true
  nanp : f.nanp = .ieee
  ovf : f.ovf = .std
  two_le_e : 2 ≤ f.e
  one_le_m : 1 ≤ f.m

/-- The mantissa field holds at least one bit. -/
theorem Fmt.IsIeee.two_pow_m {f : Fmt} (hf : f.IsIeee) : 2 ^ f.m = 2 * 2 ^ (f.m - 1) := by
  rw [← Nat.pow_succ', Nat.succ_eq_add_one, Nat.sub_add_cancel hf.one_le_m]

theorem isIeee_of_mem {f : Fmt} (hf : f ∈ [f32, f16, bf16]) : f.IsIeee := by
  simp only [List.mem_cons, List.not_mem_nil, or_false] at hf
  rcases hf with rfl | rfl | rfl <;> exact ⟨rfl, rfl, rfl, by decide, by decide⟩

-- ## Magnitude codes, as though the exponent field had no upper bound

/-- The mantissa of a magnitude code, with its hidden bit. -/
def Fmt.mant (f : Fmt) (c : Nat) : Nat := if c / 2 ^ f.m = 0 then c % 2 ^ f.m else 2 ^ f.m + c % 2 ^ f.m
/-- The exponent of a magnitude code. -/
def Fmt.expo (f : Fmt) (c : Nat) : Int := f.qmin + (c / 2 ^ f.m - 1 : Nat)
/-- The number that a magnitude code stands for. -/
def Fmt.mag (f : Fmt) (c : Nat) : Rat := f.mant c * 2 ^ f.expo c

/-- A code below the first full mantissa is its own mantissa. -/
theorem mag_of_lt (f : Fmt) {n : Nat} (hn : n < 2 ^ f.m) : f.mag n = n * 2 ^ f.qmin := by
  rw [Fmt.mag, Fmt.mant, Fmt.expo, Nat.div_eq_of_lt hn, if_pos rfl, Nat.mod_eq_of_lt hn, Nat.zero_sub, Int.natCast_zero, Int.add_zero]

/-- A code with exponent field k + 1 has the mantissa above its hidden bit. -/
theorem mag_of_field (f : Fmt) (k : Nat) {j : Nat} (hj : j < 2 ^ f.m) :
    f.mag (2 ^ f.m * (k + 1) + j) = (2 ^ f.m + j : Nat) * 2 ^ (f.qmin + k) := by
  have hdiv : (2 ^ f.m * (k + 1) + j) / 2 ^ f.m = k + 1 := by
    rw [Nat.mul_add_div (Nat.two_pow_pos f.m), Nat.div_eq_of_lt hj, Nat.add_zero]
  rw [Fmt.mag, Fmt.mant, Fmt.expo, hdiv, if_neg (Nat.succ_ne_zero k), Nat.mul_add_mod, Nat.mod_eq_of_lt hj, Nat.add_sub_cancel]

/-- The code k · 2^m + n stands for n steps of 2^k quanta, also where n runs over into the next binade. -/
theorem mag_grid (f : Fmt) {k n : Nat} (hn : n ≤ 2 * 2 ^ f.m) (hk : k = 0 ∨ 2 ^ f.m ≤ n) :
    f.mag (2 ^ f.m * k + n) = n * 2 ^ (f.qmin + k) := by
  rcases Nat.lt_or_ge n (2 ^ f.m) with hlt | hge
  · obtain rfl : k = 0 := by omega
    rw [Nat.mul_zero, Nat.zero_add, mag_of_lt f hlt, Int.natCast_zero, Int.add_zero]
  · obtain ⟨j, rfl⟩ := Nat.exists_eq_add_of_le hge
    rcases Nat.lt_or_ge j (2 ^ f.m) with hj | hj
    · rw [← Nat.add_assoc, ← Nat.mul_succ, mag_of_field f k hj]
    · obtain rfl : j = 2 ^ f.m := by omega
      have hcode : 2 ^ f.m * k + (2 ^ f.m + 2 ^ f.m) = 2 ^ f.m * (k + 1 + 1) + 0 := by
        rw [Nat.mul_succ, Nat.mul_succ, Nat.add_zero, Nat.add_assoc]
      rw [hcode, mag_of_field f (k + 1) (Nat.two_pow_pos f.m), Int.natCast_succ, ← Int.add_assoc, Rat.zpow_add_one (by decide),
        Rat.natCast_add, Rat.natCast_add]
      grind

/-- Every magnitude code lies on such a grid, below its end. -/
theorem exists_grid (f : Fmt) (c : Nat) : ∃ k n, c = 2 ^ f.m * k + n ∧ n < 2 * 2 ^ f.m ∧ (k = 0 ∨ 2 ^ f.m ≤ n) := by
  have hdiv := Nat.div_add_mod c (2 ^ f.m)
  have hmod := Nat.mod_lt c (Nat.two_pow_pos f.m)
  cases hq : c / 2 ^ f.m with
  | zero =>
    rw [hq] at hdiv
    exact ⟨0, c % 2 ^ f.m, hdiv.symm, by omega, .inl rfl⟩
  | succ k =>
    rw [hq, Nat.mul_succ, Nat.add_assoc] at hdiv
    exact ⟨k, 2 ^ f.m + c % 2 ^ f.m, hdiv.symm, by omega, .inr (Nat.le_add_right _ _)⟩

theorem mag_ascending (f : Fmt) : Ascending f.mag := by
  refine ascending_of_step fun c => ?_
  obtain ⟨k, n, rfl, hn, hk⟩ := exists_grid f c
  rw [mag_grid f (Nat.le_of_lt hn) hk, Nat.add_assoc, mag_grid f hn (hk.imp_right Nat.le_succ_of_le)]
  exact Rat.mul_lt_mul_of_pos_right (Rat.natCast_lt_natCast.mpr (Nat.lt_succ_self n)) (two_zpow_pos _)

theorem mag_zero (f : Fmt) : f.mag 0 = 0 := by
  rw [mag_of_lt f (Nat.two_pow_pos f.m)]
  exact Rat.zero_mul _

theorem mag_nonneg (f : Fmt) (c : Nat) : 0 ≤ f.mag c := mag_zero f ▸ (mag_ascending f).le (Nat.zero_le c)

-- ## Which of two neighbours a rounding takes

/-- Between the neighbours `lo` and `hi`, whose lower code is `n`, the mode takes `hi` (R89); `neg` is the sign of the value. -/
def GoesUp (r : RM) (neg : Bool) (lo hi x : Rat) (n : Nat) : Prop :=
  match r with
  | .rne => lo + hi < 2 * x ∨ (lo + hi = 2 * x ∧ n % 2 = 1)
  | .rtz => False
  | .rdn => neg = true ∧ lo ≠ x
  | .rup => neg = false ∧ lo ≠ x

/-- The values of the ascending scale `V` around `x` are those of `n` and `n + 1`, and `c` is the one that the mode takes. -/
structure RoundsFrom (V : Nat → Rat) (r : RM) (neg : Bool) (x : Rat) (n c : Nat) : Prop where
  le : V n ≤ x
  lt : x < V (n + 1)
  up : GoesUp r neg (V n) (V (n + 1)) x n → c = n + 1
  down : ¬GoesUp r neg (V n) (V (n + 1)) x n → c = n

theorem goesUp_mul_right {t : Rat} (ht : 0 < t) (r : RM) (neg : Bool) (lo hi x : Rat) (n : Nat) :
    GoesUp r neg (lo * t) (hi * t) (x * t) n ↔ GoesUp r neg lo hi x n := by
  have hne : t ≠ 0 := Rat.ne_of_gt ht
  have heq : ∀ a b : Rat, a * t = b * t ↔ a = b := fun a b => ⟨fun h => by grind, fun h => by rw [h]⟩
  cases r with
  | rne =>
    simp only [GoesUp]
    rw [← Rat.add_mul, ← Rat.mul_assoc, Rat.mul_lt_mul_right ht, heq]
  | rtz => exact Iff.rfl
  | rdn => simp only [GoesUp, ne_eq, heq]
  | rup => simp only [GoesUp, ne_eq, heq]

/-- An exact value is not rounded up. -/
theorem not_goesUp_self {lo hi : Rat} (h : lo < hi) (r : RM) (neg : Bool) (n : Nat) : ¬GoesUp r neg lo hi lo n := by
  cases r with
  | rne =>
    rintro (hlt | ⟨heq, -⟩)
    · grind
    · grind
  | rtz => exact id
  | rdn => exact fun hup => hup.2 rfl
  | rup => exact fun hup => hup.2 rfl

/-- The model's test on the bits that are cut off is the comparison with the two neighbours. -/
theorem roundsUp_iff (r : RM) (neg : Bool) (n rem s : Nat) (hs : 0 < s) :
    roundsUp (.det r) neg n rem s = true ↔
      GoesUp r neg (n * 2 ^ s : Nat) ((n + 1) * 2 ^ s : Nat) (n * 2 ^ s + rem : Nat) n := by
  have hne : (n * 2 ^ s : Nat) ≠ ((n * 2 ^ s + rem : Nat) : Rat) ↔ rem ≠ 0 := by
    rw [ne_eq, Rat.natCast_inj]
    omega
  cases r with
  | rne =>
    have htwo : 2 ^ s = 2 * 2 ^ (s - 1) := by rw [← Nat.pow_succ', Nat.succ_eq_add_one, Nat.sub_add_cancel hs]
    have hdouble : (2 : Rat) * (n * 2 ^ s + rem : Nat) = (2 * (n * 2 ^ s + rem) : Nat) := (Rat.natCast_mul 2 _).symm
    simp only [roundsUp, GoesUp]
    rw [hdouble, ← Rat.natCast_add, Rat.natCast_lt_natCast, Rat.natCast_inj, Nat.succ_mul, Bool.or_eq_true, Bool.and_eq_true,
      decide_eq_true_eq, beq_iff_eq, beq_iff_eq]
    omega
  | rtz => exact ⟨fun h => Bool.noConfusion h, False.elim⟩
  | rdn => simp only [roundsUp, GoesUp, hne, Bool.and_eq_true, bne_iff_ne]
  | rup => simp only [roundsUp, GoesUp, hne, Bool.and_eq_true, bne_iff_ne, Bool.not_eq_true']

/-- The multiples of 2^q. -/
def multiples (q : Int) (n : Nat) : Rat := n * 2 ^ q

theorem multiples_lt_iff {q : Int} {i j : Nat} : multiples q i < multiples q j ↔ i < j :=
  (Rat.mul_lt_mul_right (two_zpow_pos q)).trans Rat.natCast_lt_natCast

theorem multiples_le_iff {q : Int} {i j : Nat} : multiples q i ≤ multiples q j ↔ i ≤ j := by
  rw [← Rat.not_lt, multiples_lt_iff, Nat.not_lt]

/-- A power of two of quanta, by its exponent. -/
theorem multiples_two_pow (q : Int) (i : Nat) : multiples q (2 ^ i) = 2 ^ (q + i) := (two_zpow_add_natCast q i).symm

theorem multiples_add_natCast (q : Int) (d n : Nat) : multiples (q + d) n = multiples q (n * 2 ^ d) := by
  rw [multiples, multiples, two_zpow_add_natCast, Rat.natCast_mul, Rat.mul_assoc]

theorem two_zpow_le {a b : Int} (hab : a ≤ b) : (2 : Rat) ^ a ≤ 2 ^ b := by
  obtain ⟨d, rfl⟩ := Int.le.dest hab
  have hle : multiples a 1 ≤ multiples a (2 ^ d) := multiples_le_iff.mpr (Nat.two_pow_pos d)
  rwa [multiples_two_pow, multiples, show ((1 : Nat) : Rat) = 1 from rfl, Rat.one_mul] at hle

/-- Rounding to a multiple of 2^q takes one of the two multiples around the value. -/
theorem roundAt_roundsFrom (r : RM) (neg : Bool) (m : Nat) (e q : Int) :
    ∃ n, RoundsFrom (multiples q) r neg (multiples e m) n (roundAt (.det r) neg m e q) := by
  by_cases hqe : q ≤ e
  · obtain ⟨d, rfl⟩ := Int.le.dest hqe
    have hcode : roundAt (.det r) neg m (q + d) q = m * 2 ^ d := by
      rw [roundAt, if_pos hqe, Int.add_comm, Int.add_sub_cancel, Int.toNat_natCast]
    have hlt : multiples q (m * 2 ^ d) < multiples q (m * 2 ^ d + 1) := multiples_lt_iff.mpr (Nat.lt_succ_self _)
    rw [hcode, multiples_add_natCast]
    exact ⟨_, Rat.le_refl, hlt, fun h => absurd h (not_goesUp_self hlt r neg _), fun _ => rfl⟩
  · obtain ⟨s, rfl⟩ := Int.le.dest (Int.le_of_lt (Int.not_le.mp hqe))
    have hs : 0 < s := by omega
    have hcode : roundAt (.det r) neg m e (e + s) =
        if roundsUp (.det r) neg (m / 2 ^ s) (m % 2 ^ s) s then m / 2 ^ s + 1 else m / 2 ^ s := by
      rw [roundAt, if_neg hqe, Int.add_comm, Int.add_sub_cancel, Int.toNat_natCast]
    have hm : m / 2 ^ s * 2 ^ s + m % 2 ^ s = m := Nat.div_add_mod' m (2 ^ s)
    have hup := roundsUp_iff r neg (m / 2 ^ s) (m % 2 ^ s) s hs
    rw [hm, ← goesUp_mul_right (two_zpow_pos e)] at hup
    simp only [hcode]
    refine ⟨m / 2 ^ s, ?_, ?_, fun h => ?_, fun h => ?_⟩
    · rw [multiples_add_natCast]
      exact multiples_le_iff.mpr (Nat.div_mul_le_self m _)
    · rw [multiples_add_natCast]
      exact multiples_lt_iff.mpr (Nat.lt_mul_of_div_lt (Nat.lt_succ_self _) (Nat.two_pow_pos s))
    · rw [multiples_add_natCast, multiples_add_natCast] at h
      exact if_pos (hup.mpr h)
    · rw [multiples_add_natCast, multiples_add_natCast] at h
      exact if_neg (mt hup.mp h)

/-- The quantum of a magnitude, whose binade is that of its highest bit, leaves a mantissa of m + 1 bits. -/
theorem multiple_bounds {f : Fmt} {m n : Nat} {e q : Int} (hm : m ≠ 0) (hq : q = max ((Nat.log2 m : Int) + e - f.m) f.qmin)
    (hle : multiples q n ≤ multiples e m) (hlt : multiples e m < multiples q (n + 1)) :
    n < 2 * 2 ^ f.m ∧ (q = f.qmin ∨ 2 ^ f.m ≤ n) := by
  have hlow : 2 ^ Nat.log2 m ≤ m := Nat.log2_self_le hm
  have hhigh : m < 2 ^ (Nat.log2 m + 1) := Nat.lt_log2_self
  constructor
  · have hx : multiples q n < multiples q (2 ^ (f.m + 1)) := by
      have hm := multiples_lt_iff (q := e).mpr hhigh
      have hexp : (2 : Rat) ^ (e + (Nat.log2 m + 1 : Nat)) ≤ 2 ^ (q + (f.m + 1 : Nat)) := two_zpow_le (by omega)
      rw [multiples_two_pow] at hm ⊢
      grind
    have hn := multiples_lt_iff.mp hx
    rwa [Nat.pow_succ'] at hn
  · refine (Int.lt_or_eq_of_le (by omega : f.qmin ≤ q)).symm.imp Eq.symm fun hlt => ?_
    have hx : multiples q (2 ^ f.m) < multiples q (n + 1) := by
      have hm := multiples_le_iff (q := e).mpr hlow
      have hexp : (2 : Rat) ^ (q + f.m) ≤ 2 ^ (e + Nat.log2 m) := two_zpow_le (by omega)
      rw [multiples_two_pow] at hm ⊢
      grind
    exact Nat.le_of_lt_succ (multiples_lt_iff.mp hx)

/-- A choice between two multiples of a quantum is the same choice between the magnitude codes that stand for them. -/
theorem RoundsFrom.mag_of_multiples {f : Fmt} (hf : f.IsIeee) {r : RM} {neg : Bool} {x : Rat} {k n c : Nat}
    (h : RoundsFrom (multiples (f.qmin + k)) r neg x n c) (hn : n < 2 * 2 ^ f.m) (hk : k = 0 ∨ 2 ^ f.m ≤ n) :
    RoundsFrom f.mag r neg x (2 ^ f.m * k + n) (2 ^ f.m * k + c) := by
  have hlow : f.mag (2 ^ f.m * k + n) = multiples (f.qmin + k) n := mag_grid f (Nat.le_of_lt hn) hk
  have hhigh : f.mag (2 ^ f.m * k + n + 1) = multiples (f.qmin + k) (n + 1) := mag_grid f hn (hk.imp_right Nat.le_succ_of_le)
  have hpar : (2 ^ f.m * k + n) % 2 = n % 2 := by
    rw [hf.two_pow_m, Nat.mul_assoc, Nat.mul_add_mod]
  have hgo : GoesUp r neg (f.mag (2 ^ f.m * k + n)) (f.mag (2 ^ f.m * k + n + 1)) x (2 ^ f.m * k + n) ↔
      GoesUp r neg (multiples (f.qmin + k) n) (multiples (f.qmin + k) (n + 1)) x n := by
    rw [hlow, hhigh]
    cases r with
    | rne => rw [GoesUp, GoesUp, hpar]
    | rtz | rdn | rup => exact Iff.rfl
  refine ⟨hlow ▸ h.le, hhigh ▸ h.lt, fun hup => ?_, fun hdown => ?_⟩
  · rw [h.up (hgo.mp hup), Nat.add_assoc]
  · rw [h.down (mt hgo.mpr hdown)]

/-- Rounding a finite value without a bound on the exponent takes one of the two magnitude codes around it. -/
theorem roundMag_roundsFrom {f : Fmt} (hf : f.IsIeee) (r : RM) (neg : Bool) (m : Nat) (e : Int) :
    ∃ n, RoundsFrom f.mag r neg (m * 2 ^ e) n (roundMag f (.det r) neg m e) := by
  by_cases hm : m = 0
  · subst hm
    have h0 : f.mag 0 < f.mag (0 + 1) := mag_ascending f 0 1 Nat.one_pos
    have hx : ((0 : Nat) : Rat) * 2 ^ e = f.mag 0 := (Rat.zero_mul _).trans (mag_zero f).symm
    rw [hx]
    exact ⟨0, Rat.le_refl, h0, fun h => absurd h (not_goesUp_self h0 r neg 0), fun _ => rfl⟩
  · obtain ⟨q, hq⟩ : ∃ q, q = max ((Nat.log2 m : Int) + e - f.m) f.qmin := ⟨_, rfl⟩
    obtain ⟨n, hround⟩ := roundAt_roundsFrom r neg m e q
    obtain ⟨hn, hnk⟩ := multiple_bounds hm hq hround.le hround.lt
    obtain ⟨k, rfl⟩ := Int.le.dest (by omega : f.qmin ≤ q)
    have hcode : roundMag f (.det r) neg m e = 2 ^ f.m * k + roundAt (.det r) neg m e (f.qmin + k) := by
      have hk : (f.qmin + k - f.qmin).toNat = k := by omega
      rw [roundMag, if_neg hm, ← hq]
      change (f.qmin + k - f.qmin).toNat * 2 ^ f.m + _ = _
      rw [hk, Nat.mul_comm]
    exact ⟨_, hcode ▸ hround.mag_of_multiples hf hn (hnk.imp_left fun h => by omega)⟩

-- ## Absolute values

theorem absR_of_nonneg {x : Rat} (h : 0 ≤ x) : Rule.absR x = x := if_neg (Rat.not_lt.mpr h)

theorem absR_of_neg {x : Rat} (h : x < 0) : Rule.absR x = -x := if_pos h

theorem absR_neg (x : Rat) : Rule.absR (-x) = Rule.absR x := by
  unfold Rule.absR
  split <;> split <;> grind

-- ## The code taken, among all codes of an ascending scale

section
variable {V : Nat → Rat} (hV : Ascending V) {r : RM} {neg : Bool} {x : Rat} {n c : Nat}
include hV

/-- A mode that rounds toward zero takes the greatest value not above. -/
theorem RoundsFrom.greatest_le (h : RoundsFrom V r neg x n c) (hr : ovfToInf (.det r) neg = false) :
    V c ≤ x ∧ ∀ j, c < j → x < V j := by
  have hgo : ¬GoesUp r neg (V n) (V (n + 1)) x n := by
    cases r with
    | rne => cases hr
    | rtz => exact id
    | rdn => exact fun hup => Bool.noConfusion (hr.symm.trans hup.1)
    | rup => exact fun hup => Bool.noConfusion (hup.1.symm.trans ((Bool.not_eq_false' neg).mp hr))
  rw [h.down hgo]
  refine ⟨h.le, fun j hj => ?_⟩
  have hstep := hV.le hj
  have hlt := h.lt
  grind

/-- A mode that rounds away from zero takes the least value not below. -/
theorem RoundsFrom.least_ge (h : RoundsFrom V r neg x n c) (hr : ovfToInf (.det r) neg = true) (hne : r ≠ .rne) :
    x ≤ V c ∧ ∀ j < c, V j < x := by
  have hgo : GoesUp r neg (V n) (V (n + 1)) x n ↔ V n ≠ x := by
    cases r with
    | rne => exact absurd rfl hne
    | rtz => cases hr
    | rdn => exact and_iff_right hr
    | rup => exact and_iff_right ((Bool.not_eq_true' neg).mp hr)
  by_cases hx : V n = x
  · rw [h.down (mt hgo.mp (not_not_intro hx)), ← hx]
    exact ⟨Rat.le_refl, fun j hj => hV j n hj⟩
  · rw [h.up (hgo.mpr hx)]
    refine ⟨Rat.le_of_lt h.lt, fun j hj => ?_⟩
    have hstep := hV.le (Nat.le_of_lt_succ hj)
    have hle := Rat.lt_of_le_of_ne h.le hx
    grind

/-- Rounding to nearest takes a value at least distance, and an even code on a tie. -/
theorem RoundsFrom.nearest (h : RoundsFrom V .rne neg x n c) (j : Nat) :
    Rule.absR (x - V c) ≤ Rule.absR (x - V j) ∧
      (j ≠ c → Rule.absR (x - V c) = Rule.absR (x - V j) → c % 2 = 0) := by
  obtain ⟨hle, hlt, hup, hdown⟩ := h
  have hbelow : ∀ i, i ≤ n → V i ≤ V n ∧ Rule.absR (x - V i) = x - V i := fun i hi => by
    have hVi := hV.le hi
    exact ⟨hVi, absR_of_nonneg (by grind)⟩
  have habove : ∀ i, n < i → V (n + 1) ≤ V i ∧ Rule.absR (x - V i) = V i - x := fun i hi => by
    have hVi := hV.le hi
    exact ⟨hVi, (absR_of_neg (by grind)).trans (by grind)⟩
  obtain ⟨-, hlow⟩ := hbelow n (Nat.le_refl n)
  obtain ⟨-, hhigh⟩ := habove (n + 1) (Nat.lt_succ_self n)
  by_cases hgo : GoesUp .rne neg (V n) (V (n + 1)) x n
  · rw [hup hgo, hhigh]
    have hmid : V n + V (n + 1) ≤ 2 * x := hgo.elim Rat.le_of_lt fun htie => htie.1 ▸ Rat.le_refl
    rcases Nat.lt_or_ge n j with hj | hj
    · obtain ⟨hVj, habs⟩ := habove j hj
      rw [habs]
      refine ⟨by grind, fun hne htie => absurd (hV.injective ?_) hne⟩
      grind
    · obtain ⟨hVj, habs⟩ := hbelow j hj
      rw [habs]
      refine ⟨by grind, fun _ htie => ?_⟩
      have hodd : n % 2 = 1 := (hgo.resolve_left (by grind)).2
      omega
  · rw [hdown hgo, hlow]
    obtain ⟨hmid, hodd⟩ := not_or.mp hgo
    rw [Rat.not_lt] at hmid
    rcases Nat.lt_or_ge n j with hj | hj
    · obtain ⟨hVj, habs⟩ := habove j hj
      rw [habs]
      refine ⟨by grind, fun _ htie => ?_⟩
      have heven : ¬n % 2 = 1 := fun h1 => hodd ⟨by grind, h1⟩
      omega
    · obtain ⟨hVj, habs⟩ := hbelow j hj
      rw [habs]
      refine ⟨by grind, fun hne htie => absurd (hV.injective ?_) hne⟩
      grind

end

-- ## The codes of the three formats

section
variable {f : Fmt} (hf : f.IsIeee)
include hf

theorem maxCode_of_isIeee : f.maxCode = (2 ^ f.e - 1) * 2 ^ f.m - 1 := by
  rw [Fmt.maxCode, hf.nanp]

theorem four_le_two_pow_e : 4 ≤ 2 ^ f.e := Nat.pow_le_pow_right Nat.two_pos hf.two_le_e

/-- The magnitude codes up to the largest finite one are those below the infinity. -/
theorem le_maxCode_iff (c : Nat) : c ≤ f.maxCode ↔ c < (2 ^ f.e - 1) * 2 ^ f.m := by
  have hfield : 0 < 2 ^ f.e - 1 := by
    have he := four_le_two_pow_e hf
    omega
  rw [maxCode_of_isIeee hf]
  exact Nat.le_sub_one_iff_lt (Nat.mul_pos hfield (Nat.two_pow_pos f.m))

/-- The value of a code is that of its magnitude code under its sign (R81). -/
theorem decode_of_isIeee (c : Nat) :
    f.decode c =
      let j := c % 2 ^ (f.e + f.m)
      let neg := bitOf c (f.e + f.m)
      if j / 2 ^ f.m = 2 ^ f.e - 1 then (if j % 2 ^ f.m = 0 then .inf neg else .nan) else .fin neg (f.mant j) (f.expo j) := by
  simp only [Fmt.decode, hf.nanp, hf.sg, true_and, reduceCtorEq, false_and, if_false, Bool.true_and, Fmt.mant, Fmt.expo]
  split
  · rfl
  · split
    case isTrue hsub => rw [hsub, Nat.zero_sub, Int.natCast_zero, Int.add_zero]
    case isFalse => rfl

/-- A sign and a magnitude code that the format holds make a code. -/
theorem signBit_add (neg : Bool) {j : Nat} (hj : j < 2 ^ (f.e + f.m)) :
    f.signBit neg + j < 2 ^ f.width ∧ (f.signBit neg + j) % 2 ^ (f.e + f.m) = j ∧
      bitOf (f.signBit neg + j) (f.e + f.m) = neg := by
  have hpos : 0 < 2 ^ (f.e + f.m) := Nat.two_pow_pos _
  have hwidth : f.width = f.e + f.m + 1 := by
    rw [Fmt.width, hf.sg, Nat.add_assoc, Nat.add_comm]
    rfl
  have hsign : f.signBit neg = 2 ^ (f.e + f.m) * bit neg := by
    rw [Fmt.signBit, hf.sg]
    cases neg
    · rfl
    · exact (Nat.mul_one _).symm
  rw [hwidth, hsign, Nat.mul_add_mod, Nat.mod_eq_of_lt hj, bitOf, Nat.mul_add_div hpos, Nat.div_eq_of_lt hj, Nat.pow_succ]
  cases neg with
  | false => exact ⟨by change 2 ^ (f.e + f.m) * 0 + j < _; omega, rfl, rfl⟩
  | true => exact ⟨by change 2 ^ (f.e + f.m) * 1 + j < _; omega, rfl, rfl⟩

theorem lt_of_le_maxCode {j : Nat} (hj : j ≤ f.maxCode) : j < 2 ^ (f.e + f.m) ∧ j / 2 ^ f.m < 2 ^ f.e - 1 := by
  rw [le_maxCode_iff hf] at hj
  refine ⟨Nat.lt_of_lt_of_le hj ?_, (Nat.div_lt_iff_lt_mul (Nat.two_pow_pos _)).mpr hj⟩
  rw [Nat.pow_add]
  exact Nat.mul_le_mul_right _ (Nat.sub_le _ _)

/-- The codes of the finite values. -/
theorem decode_finite (neg : Bool) {j : Nat} (hj : j ≤ f.maxCode) :
    f.decode (f.signBit neg + j) = .fin neg (f.mant j) (f.expo j) := by
  obtain ⟨hlt, hfield⟩ := lt_of_le_maxCode hf hj
  obtain ⟨-, hmag, hneg⟩ := signBit_add hf neg hlt
  simp only [decode_of_isIeee hf, hmag, hneg, if_neg (Nat.ne_of_lt hfield)]

omit hf in
theorem infinity_lt : (2 ^ f.e - 1) * 2 ^ f.m < 2 ^ (f.e + f.m) := by
  rw [Nat.pow_add]
  exact Nat.mul_lt_mul_of_pos_right (Nat.sub_lt (Nat.two_pow_pos _) Nat.one_pos) (Nat.two_pow_pos _)

/-- The codes of the infinities. -/
theorem decode_infCode (neg : Bool) : f.decode (f.infCode neg) = .inf neg := by
  obtain ⟨-, hmag, hneg⟩ := signBit_add hf neg infinity_lt
  rw [Fmt.infCode]
  simp only [decode_of_isIeee hf, hmag, hneg, Nat.mul_div_cancel _ (Nat.two_pow_pos f.m), Nat.mul_mod_left, if_true]

end

-- ## Signs

/-- The factor of a sign. -/
def signFactor (neg : Bool) : Rat := if neg then -1 else 1

theorem signFactor_false_mul (x : Rat) : signFactor false * x = x := Rat.one_mul x
theorem signFactor_true_mul (x : Rat) : signFactor true * x = -x := by
  change -1 * x = -x
  grind

theorem signFactor_mul_self_mul (neg : Bool) (x : Rat) : signFactor neg * (signFactor neg * x) = x := by
  cases neg
  · rw [signFactor_false_mul, signFactor_false_mul]
  · rw [signFactor_true_mul, signFactor_true_mul, Rat.neg_neg]

theorem absR_signFactor_mul (neg : Bool) (x : Rat) : Rule.absR (signFactor neg * x) = Rule.absR x := by
  cases neg
  · rw [signFactor_false_mul]
  · rw [signFactor_true_mul, absR_neg]

-- ## The finite numbers of a format

section
variable {f : Fmt} (hf : f.IsIeee)
include hf

theorem num_decode_finite (neg : Bool) {j : Nat} (hj : j ≤ f.maxCode) :
    Rule.num (f.decode (f.signBit neg + j)) = some (signFactor neg * f.mag j) := by
  rw [decode_finite hf neg hj, Rule.num, Rat.mul_assoc]
  rfl

theorem num_decode_magnitude {j : Nat} (hj : j ≤ f.maxCode) : Rule.num (f.decode j) = some (f.mag j) := by
  have hnum := num_decode_finite hf false hj
  rwa [signFactor_false_mul, show f.signBit false = 0 from rfl, Nat.zero_add] at hnum

theorem largest_of_isIeee : Rule.largest f = f.mag f.maxCode := by
  rw [Rule.largest, num_decode_magnitude hf (Nat.le_refl _)]
  rfl

/-- The finite numbers of the format are those of its magnitude codes up to the largest finite one, under either sign. -/
theorem exists_of_finite (neg : Bool) {z : Rat} (hz : ∃ c, Rule.num (f.decode c) = some z) :
    ∃ i, i ≤ f.maxCode ∧ (signFactor neg * z = f.mag i ∨ signFactor neg * z = -f.mag i) := by
  obtain ⟨c, hc⟩ := hz
  simp only [decode_of_isIeee hf] at hc
  split at hc
  · split at hc <;> cases hc
  · rename_i hfield
    have hlt : c % 2 ^ (f.e + f.m) < 2 ^ f.m * 2 ^ f.e := by
      rw [Nat.mul_comm, ← Nat.pow_add]
      exact Nat.mod_lt c (Nat.two_pow_pos _)
    have hfield' := Nat.div_lt_of_lt_mul hlt
    refine ⟨c % 2 ^ (f.e + f.m), (le_maxCode_iff hf _).mpr ((Nat.div_lt_iff_lt_mul (Nat.two_pow_pos _)).mp (by omega)), ?_⟩
    rw [Rule.num, Option.some_inj, Rat.mul_assoc] at hc
    rw [← hc]
    change signFactor neg * (signFactor _ * f.mag _) = _ ∨ signFactor neg * (signFactor _ * f.mag _) = _
    cases neg <;> cases bitOf c (f.e + f.m) <;> simp only [signFactor_false_mul, signFactor_true_mul, Rat.neg_neg, true_or, or_true]

/-- The largest finite code is odd, and the step above it is as wide as the step below. -/
theorem top_of_isIeee :
    f.maxCode % 2 = 1 ∧ f.mag (f.maxCode + 1) = 2 * f.mag f.maxCode - f.mag (f.maxCode - 1) := by
  obtain ⟨k, hk⟩ : ∃ k, 2 ^ f.e = k + 3 := ⟨2 ^ f.e - 3, by have he := four_le_two_pow_e hf; omega⟩
  obtain ⟨p, hp⟩ : ∃ p, 2 ^ f.m = 2 * (p + 1) :=
    ⟨2 ^ (f.m - 1) - 1, by rw [hf.two_pow_m, Nat.sub_add_cancel (Nat.two_pow_pos _)]⟩
  have hgrid : ∀ n, 2 ^ f.m ≤ n → n ≤ 2 * 2 ^ f.m → f.mag (2 ^ f.m * k + n) = n * 2 ^ (f.qmin + k) :=
    fun n hlo hhi => mag_grid f hhi (.inr hlo)
  have htop : f.maxCode = 2 ^ f.m * k + (4 * p + 3) := by
    rw [maxCode_of_isIeee hf, hk, show k + 3 - 1 = k + 2 from rfl, Nat.mul_comm, Nat.mul_add, hp]
    omega
  have hodd : (2 ^ f.m * k + (4 * p + 3)) % 2 = 1 := by
    rw [hp, Nat.mul_assoc]
    omega
  have hbelow := hgrid (4 * p + 2) (by omega) (by omega)
  have hat := hgrid (4 * p + 3) (by omega) (by omega)
  have habove := hgrid (4 * p + 4) (by omega) (by omega)
  rw [htop, Nat.add_sub_assoc (by omega), Nat.add_assoc]
  refine ⟨hodd, ?_⟩
  rw [show 4 * p + 3 + 1 = 4 * p + 4 from rfl, show 4 * p + 3 - 1 = 4 * p + 2 from rfl, hbelow, hat, habove, Rat.natCast_add,
    Rat.natCast_add, Rat.natCast_add]
  grind

end

-- ## From magnitudes to signed numbers

section
variable {f : Fmt} (hf : f.IsIeee) {r : RM} {neg : Bool} {x : Rat} (hx : 0 ≤ x) {j : Nat}
include hf

/-- Half a step beyond the largest finite number is half way to the code above it (R90). -/
theorem threshold_of_isIeee :
    2 * Rule.largest f + (Rule.largest f - f.mag (f.maxCode - 1)) = f.mag f.maxCode + f.mag (f.maxCode + 1) := by
  rw [largest_of_isIeee hf, (top_of_isIeee hf).2]
  grind

omit hf in
theorem decode_value (neg : Bool) (j : Nat) :
    (if neg then -1 else 1) * (f.mant j : Rat) * 2 ^ f.expo j = signFactor neg * f.mag j := Rat.mul_assoc _ _ _

/-- A magnitude at or above the threshold is not nearest to a finite code, as the largest one is odd. -/
theorem lt_threshold_of_nearest (hj : j ≤ f.maxCode)
    (hnear : ∀ i, Rule.absR (x - f.mag j) ≤ Rule.absR (x - f.mag i) ∧
      (i ≠ j → Rule.absR (x - f.mag j) = Rule.absR (x - f.mag i) → j % 2 = 0)) :
    2 * x < f.mag f.maxCode + f.mag (f.maxCode + 1) := by
  have hV := mag_ascending f
  have hstep : f.mag f.maxCode < f.mag (f.maxCode + 1) := hV _ _ (Nat.lt_succ_self _)
  have hjtop : f.mag j ≤ f.mag f.maxCode := hV.le hj
  refine Rat.not_le.mp fun hge => ?_
  obtain ⟨hle, htie⟩ := hnear (f.maxCode + 1)
  rw [absR_of_nonneg (by grind : 0 ≤ x - f.mag j)] at hle htie
  rcases Rat.le_total (a := f.mag (f.maxCode + 1)) (b := x) with hxtop | hxtop
  · rw [absR_of_nonneg (by grind : 0 ≤ x - f.mag (f.maxCode + 1))] at hle
    grind
  · rw [← absR_neg, absR_of_nonneg (by grind : 0 ≤ -(x - f.mag (f.maxCode + 1)))] at hle htie
    have htop : j = f.maxCode := hV.injective (by grind)
    have heven : j % 2 = 0 := htie (by omega) (by grind)
    have hodd := (top_of_isIeee hf).1
    omega

omit hf in
/-- A magnitude below the threshold is nearer to the largest finite code than to any above it. -/
theorem threshold_le_of_nearest (hj : f.maxCode < j) (hnear : Rule.absR (x - f.mag j) ≤ Rule.absR (x - f.mag f.maxCode)) :
    f.mag f.maxCode + f.mag (f.maxCode + 1) ≤ 2 * x := by
  have hV := mag_ascending f
  have hstep : f.mag f.maxCode < f.mag (f.maxCode + 1) := hV _ _ (Nat.lt_succ_self _)
  have hjtop : f.mag (f.maxCode + 1) ≤ f.mag j := hV.le hj
  refine Rat.not_lt.mp fun hlt => ?_
  rw [absR_of_neg (by grind : x - f.mag j < 0)] at hnear
  rcases Rat.le_total (a := f.mag f.maxCode) (b := x) with hxtop | hxtop
  · rw [absR_of_nonneg (by grind : 0 ≤ x - f.mag f.maxCode)] at hnear
    grind
  · rw [← absR_neg (x - f.mag f.maxCode), absR_of_nonneg (by grind : 0 ≤ -(x - f.mag f.maxCode))] at hnear
    grind

include hx

/-- The greatest magnitude not above is what a mode gives that rounds toward zero. -/
theorem rounds_of_greatest_le (hr : ovfToInf (.det r) neg = false) (hj : j ≤ f.maxCode) (hle : f.mag j ≤ x)
    (hmax : ∀ i, i ≤ f.maxCode → f.mag i ≤ x → f.mag i ≤ f.mag j) :
    Rule.Rounds f r neg (signFactor neg * x) (f.signBit neg + j) := by
  have h0 := mag_nonneg f
  have hsigned : ∀ s z, (∃ c, Rule.num (f.decode c) = some z) → signFactor s * z ≤ x → signFactor s * z ≤ f.mag j := by
    intro s z hz hzx
    obtain ⟨i, hi, hzi | hzi⟩ := exists_of_finite hf s hz
    · exact hzi ▸ hmax i hi (hzi ▸ hzx)
    · have hi0 := h0 i
      have hj0 := h0 j
      grind
  have hpos : ∀ z, (∃ c, Rule.num (f.decode c) = some z) → z ≤ x → z ≤ f.mag j := fun z hz => by
    have hz := hsigned false z hz
    rwa [signFactor_false_mul] at hz
  have hneg : ∀ z, (∃ c, Rule.num (f.decode c) = some z) → -z ≤ x → -z ≤ f.mag j := fun z hz => by
    have hz := hsigned true z hz
    rwa [signFactor_true_mul] at hz
  simp only [Rule.Rounds, decode_finite hf neg hj, decode_value]
  refine ⟨fun _ => trivial, ?_⟩
  cases r with
  | rne => cases hr
  | rtz =>
    simp only [absR_signFactor_mul, absR_of_nonneg hx, absR_of_nonneg (h0 j)]
    refine ⟨hle, ?_, fun z hz _ hzx => ?_⟩
    · have hprod := Rat.mul_nonneg hx (h0 j)
      cases neg <;> simp only [signFactor_false_mul, signFactor_true_mul] <;> grind
    · by_cases hz0 : z < 0
      · rw [absR_of_neg hz0] at hzx ⊢
        exact hneg z hz hzx
      · rw [absR_of_nonneg (Rat.not_lt.mp hz0)] at hzx ⊢
        exact hpos z hz hzx
  | rdn =>
    obtain rfl : neg = false := hr
    simp only [signFactor_false_mul]
    exact ⟨hle, hpos⟩
  | rup =>
    obtain rfl : neg = true := (Bool.not_eq_false' neg).mp hr
    simp only [signFactor_true_mul]
    refine ⟨by grind, fun z hz hzx => ?_⟩
    have hzj := hneg z hz (by grind)
    grind

/-- The least magnitude not below is what a mode gives that rounds away from zero. -/
theorem rounds_of_least_ge (hr : ovfToInf (.det r) neg = true) (hne : r ≠ .rne) (hj : j ≤ f.maxCode) (hle : x ≤ f.mag j)
    (hmin : ∀ i, x ≤ f.mag i → f.mag j ≤ f.mag i) :
    Rule.Rounds f r neg (signFactor neg * x) (f.signBit neg + j) := by
  have h0 := mag_nonneg f
  have hsigned : ∀ s z, (∃ c, Rule.num (f.decode c) = some z) → x ≤ signFactor s * z → f.mag j ≤ signFactor s * z := by
    intro s z hz hzx
    obtain ⟨i, hi, hzi | hzi⟩ := exists_of_finite hf s hz
    · exact hzi ▸ hmin i (hzi ▸ hzx)
    · have hi0 := h0 i
      have hij := hmin i (by grind)
      grind
  simp only [Rule.Rounds, decode_finite hf neg hj, decode_value]
  refine ⟨fun _ => trivial, ?_⟩
  cases r with
  | rne => exact absurd rfl hne
  | rtz => cases hr
  | rdn =>
    obtain rfl : neg = true := hr
    simp only [signFactor_true_mul] at hsigned ⊢
    refine ⟨by grind, fun z hz hzx => ?_⟩
    have hzj := hsigned true z hz
    rw [signFactor_true_mul] at hzj
    grind
  | rup =>
    obtain rfl : neg = false := (Bool.not_eq_true' neg).mp hr
    simp only [signFactor_false_mul]
    refine ⟨hle, fun z hz hzx => ?_⟩
    have hzj := hsigned false z hz
    rw [signFactor_false_mul] at hzj
    exact hzj hzx

/-- A magnitude at least distance, its code even on a tie, is what round to nearest gives. -/
theorem rounds_of_nearest (hj : j ≤ f.maxCode)
    (hnear : ∀ i, Rule.absR (x - f.mag j) ≤ Rule.absR (x - f.mag i) ∧
      (i ≠ j → Rule.absR (x - f.mag j) = Rule.absR (x - f.mag i) → j % 2 = 0)) :
    Rule.Rounds f .rne neg (signFactor neg * x) (f.signBit neg + j) := by
  have hdist : ∀ z, Rule.absR (signFactor neg * x - z) = Rule.absR (x - signFactor neg * z) := fun z => by
    rw [← absR_signFactor_mul neg, Rat.sub_eq_add_neg, Rat.mul_add, signFactor_mul_self_mul, Rat.mul_neg, ← Rat.sub_eq_add_neg]
  have hzero : Rule.absR (x - f.mag j) ≤ x := by
    have h0 := (hnear 0).1
    rwa [mag_zero, show x - 0 = x by grind, absR_of_nonneg hx] at h0
  have hopposite : ∀ i, Rule.absR (x - -f.mag i) = x + f.mag i := fun i => by
    have hi0 := mag_nonneg f i
    exact (absR_of_nonneg (by grind)).trans (by grind)
  have heven : (f.signBit neg + j) % 2 = j % 2 := by
    have hpow : 2 ^ (f.e + f.m) = 2 * 2 ^ (f.e + f.m - 1) := by
      rw [← Nat.pow_succ', Nat.succ_eq_add_one, Nat.sub_add_cancel (Nat.le_trans hf.one_le_m (Nat.le_add_left _ _))]
    rw [Fmt.signBit, hpow]
    split
    · exact Nat.mul_add_mod _ _ _
    · rw [Nat.zero_add]
  simp only [Rule.Rounds, decode_finite hf neg hj, decode_value, hdist, signFactor_mul_self_mul, heven, absR_signFactor_mul,
    absR_of_nonneg hx]
  refine ⟨fun _ => trivial, fun z hz => ?_, fun z hz hzy htie => ?_, fun h hh => ?_⟩
  · obtain ⟨i, -, hzi | hzi⟩ := exists_of_finite hf neg hz
    · exact hzi ▸ (hnear i).1
    · have hi0 := mag_nonneg f i
      rw [hzi, hopposite]
      grind
  · obtain ⟨i, hzi⟩ : ∃ i, signFactor neg * z = f.mag i := by
      obtain ⟨i, -, hzi | hzi⟩ := exists_of_finite hf neg hz
      · exact ⟨i, hzi⟩
      · have hi0 := mag_nonneg f i
        rw [hzi, hopposite] at htie
        exact ⟨0, by rw [hzi, mag_zero]; grind⟩
    rw [hzi] at htie
    refine (hnear i).2 (fun hij => hzy ?_) htie
    rw [← signFactor_mul_self_mul neg z, hzi, hij]
  · rw [num_decode_magnitude hf (Nat.sub_le _ _), Option.some_inj] at hh
    rw [← hh, threshold_of_isIeee hf]
    exact lt_threshold_of_nearest hf hj hnear

end

-- ## Overflow

section
variable {f : Fmt} (hf : f.IsIeee) {r : RM} {neg : Bool} {x : Rat}
include hf

/-- The infinity of its sign is what a mode gives that rounds away from zero, beyond the largest finite number. -/
theorem rounds_infCode_of_lt (hr : ovfToInf (.det r) neg = true) (hne : r ≠ .rne) (hx : Rule.largest f < x) :
    Rule.Rounds f r neg (signFactor neg * x) (f.infCode neg) := by
  simp only [Rule.Rounds, decode_infCode hf]
  cases r with
  | rne => exact absurd rfl hne
  | rtz => cases hr
  | rdn =>
    obtain rfl : neg = true := hr
    rw [signFactor_true_mul]
    exact ⟨rfl, by grind⟩
  | rup =>
    obtain rfl : neg = false := (Bool.not_eq_true' neg).mp hr
    rw [signFactor_false_mul]
    exact ⟨rfl, hx⟩

/-- The infinity of its sign is what round to nearest gives at or above the threshold of R90. -/
theorem rounds_infCode_of_threshold_le (hx : f.mag f.maxCode + f.mag (f.maxCode + 1) ≤ 2 * x) :
    Rule.Rounds f .rne neg (signFactor neg * x) (f.infCode neg) := by
  have hpos : 0 < x := by
    have htop := mag_nonneg f f.maxCode
    have hstep := mag_ascending f f.maxCode _ (Nat.lt_succ_self _)
    grind
  simp only [Rule.Rounds, decode_infCode hf, absR_signFactor_mul, absR_of_nonneg (Rat.le_of_lt hpos)]
  refine ⟨?_, _, num_decode_magnitude hf (Nat.sub_le _ _), (threshold_of_isIeee hf).symm ▸ hx⟩
  cases neg
  · rw [signFactor_false_mul]
    exact (decide_eq_false (Rat.not_lt.mpr (Rat.le_of_lt hpos))).symm
  · rw [signFactor_true_mul]
    exact (decide_eq_true (by grind)).symm

-- ## Rounding into the format

/-- Rounding a finite value answers its magnitude code under its sign, or what R90 gives above the largest finite one. -/
theorem encode_of_isIeee (r : RM) (neg : Bool) (m : Nat) (e : Int) :
    encode f (.det r) (.fin neg m e) =
      if f.maxCode < roundMag f (.det r) neg m e then
        if ovfToInf (.det r) neg then f.infCode neg else f.signBit neg + f.maxCode
      else f.signBit neg + roundMag f (.det r) neg m e := by
  simp only [encode, overflow, hf.sg, hf.ovf, Fmt.maxOf, Bool.not_true, Bool.and_false, Bool.false_eq_true, if_false]

theorem encode_lt (r : RM) (neg : Bool) (m : Nat) (e : Int) : encode f (.det r) (.fin neg m e) < 2 ^ f.width := by
  rw [encode_of_isIeee hf]
  split
  · split
    · exact (signBit_add hf neg infinity_lt).1
    · exact (signBit_add hf neg (lt_of_le_maxCode hf (Nat.le_refl _)).1).1
  · rename_i hover
    exact (signBit_add hf neg (lt_of_le_maxCode hf (Nat.not_lt.mp hover)).1).1

theorem encode_rounds (r : RM) (neg : Bool) (m : Nat) (e : Int) :
    Rule.Rounds f r neg (signFactor neg * (m * 2 ^ e)) (encode f (.det r) (.fin neg m e)) := by
  have hV := mag_ascending f
  have hx : (0 : Rat) ≤ m * 2 ^ e := Rat.mul_nonneg Rat.natCast_nonneg (Rat.le_of_lt (two_zpow_pos e))
  obtain ⟨n, hn⟩ := roundMag_roundsFrom hf r neg m e
  rw [encode_of_isIeee hf]
  generalize roundMag f (.det r) neg m e = c at hn ⊢
  by_cases hover : f.maxCode < c
  · rw [if_pos hover]
    cases hdir : ovfToInf (.det r) neg with
    | false =>
      obtain ⟨hle, -⟩ := hn.greatest_le hV hdir
      rw [if_neg Bool.false_ne_true]
      exact rounds_of_greatest_le hf hx hdir (Nat.le_refl _) (Rat.le_trans (hV.le (Nat.le_of_lt hover)) hle) fun i hi _ => hV.le hi
    | true =>
      rw [if_pos rfl]
      by_cases hne : r = .rne
      · subst hne
        exact rounds_infCode_of_threshold_le hf (threshold_le_of_nearest hover (hn.nearest hV _).1)
      · obtain ⟨-, hlt⟩ := hn.least_ge hV hdir hne
        exact rounds_infCode_of_lt hf hdir hne (largest_of_isIeee hf ▸ hlt _ hover)
  · rw [if_neg hover]
    have hc := Nat.not_lt.mp hover
    cases hdir : ovfToInf (.det r) neg with
    | false =>
      obtain ⟨hle, hgt⟩ := hn.greatest_le hV hdir
      exact rounds_of_greatest_le hf hx hdir hc hle fun i _ hi =>
        hV.le (Nat.not_lt.mp fun hci => Rat.not_le.mpr (hgt i hci) hi)
    | true =>
      by_cases hne : r = .rne
      · subst hne
        exact rounds_of_nearest hf hx hc (hn.nearest hV)
      · obtain ⟨hge, hlt⟩ := hn.least_ge hV hdir hne
        exact rounds_of_least_ge hf hx hdir hne hc hge fun i hi =>
          hV.le (Nat.not_lt.mp fun hic => Rat.not_le.mpr (hlt i hic) hi)

end

/-- Settles O15: the magnitude code taken without a bound on the exponent is one of the two around the value, and the modes choose
between these as R89 says; above the largest finite code R90 stands. -/
theorem roundingIsCorrect : Obligations.RoundingIsCorrect := by
  intro f r neg m e hmem
  have hf := isIeee_of_mem hmem
  refine ⟨encode_lt hf r neg m e, fun x hx => ?_⟩
  rw [Rule.num, Option.some_inj, Rat.mul_assoc] at hx
  exact hx ▸ encode_rounds hf r neg m e

end Sys2Proof.Machine
end

section
/-!
PROOFS. What a write of lanes of a v register leaves in the issuing group and in the state (R25, R226), and which lanes are active
(R56, R227).
-/
namespace Sys2Proof.Machine
open State

-- ## Lanes of a v register

/-- A group after lanes `ls` of vN took `f`, one after another. -/
def putLanes (g : Group) (n : Nat) (ls : List Nat) (f : Nat → W32) : Group := ls.foldl (fun g l => g.putV n l (f l)) g

theorem putLanes_v (g : Group) (n : Nat) (ls : List Nat) (f : Nat → W32) (m : Nat) :
    Sparse.get 0 (putLanes g n ls f).r.v m =
      if 64 * n ≤ m ∧ m - 64 * n ∈ ls then f (m - 64 * n) else Sparse.get 0 g.r.v m := by
  induction ls generalizing g with
  | nil => simp [putLanes]
  | cons l r ih =>
    rw [putLanes, List.foldl_cons, ← putLanes, ih, putV_v]
    by_cases hm : m = 64 * n + l
    · simp [hm]
    · have hl : 64 * n ≤ m → m - 64 * n ≠ l := by omega
      exact ite_congr (propext (and_congr_right fun h => by simp [hl h])) (fun _ => rfl) fun _ => if_neg hm

/-- A clean write clears the marks of the lanes it covers and no other (R25). -/
theorem mem_putLanes_poison (g : Group) (n : Nat) (ls : List Nat) (f : Nat → W32) (w : RegWord) :
    w ∈ (putLanes g n ls f).poison ↔ w ∈ g.poison ∧ ∀ l ∈ ls, w ≠ .v n l := by
  induction ls generalizing g with
  | nil => simp [putLanes]
  | cons l r ih =>
    rw [putLanes, List.foldl_cons, ← putLanes, ih]
    simp [Group.putV, and_assoc]

theorem putLanes_rest (g : Group) (n : Nat) (ls : List Nat) (f : Nat → W32) :
    { putLanes g n ls f with r := { (putLanes g n ls f).r with v := g.r.v }, poison := g.poison } = g :=
  foldl_keeps (fun g' : Group => { g' with r := { g'.r with v := g.r.v }, poison := g.poison } = g) _ ls g rfl fun _ _ _ h => h

section
variable (s : State) (n : Nat) (ls : List Nat) (f : Nat → W32)

theorem cg_setLanes : (s.setLanes n ls f).cg = putLanes s.cg n ls f := by
  rw [setLanes_modG]
  split
  · subst_vars; rfl
  · exact cg_modG s _

theorem group_setLanes {key : Nat} (h : key ≠ s.cur.grp) : (s.setLanes n ls f).group key = s.group key := by
  rw [setLanes_modG]
  split
  · rfl
  · rw [group_modG, if_neg h]

theorem setLanes_rest : { s.setLanes n ls f with groups := s.groups } = s := by
  rw [setLanes_modG]
  split
  · rfl
  · exact modG_rest s _

end

/-- A write of listed lanes of vD changes these lanes and their marks, and nothing else. -/
theorem writesV_setLanes (s : State) (d : Nat) {ls : List Nat} {w : Nat → Bool} (hls : ∀ l, w l = true ↔ l ∈ ls)
    (hlane : ∀ l ∈ ls, l < 64) (f : Nat → W32) : Rule.WritesV s (s.setLanes d ls f) d w f := by
  have hv : ∀ n l, Rule.vNow (s.setLanes d ls f) n l =
      if 64 * d ≤ 64 * n + l ∧ 64 * n + l - 64 * d ∈ ls then f (64 * n + l - 64 * d) else Rule.vNow s n l := fun n l => by
    rw [Rule.vNow, cg_setLanes, putLanes_v]
    rfl
  refine ⟨fun l _ => ?_, fun n hn l hl => ?_, fun m => ?_, fun _ hkey => group_setLanes s d ls f hkey, ?_, setLanes_rest s d ls f⟩
  · rw [hv]
    simp [hls]
  · rw [hv, if_neg]
    rintro ⟨hle, hmem⟩
    have := hlane _ hmem
    omega
  · rw [cg_setLanes, mem_putLanes_poison]
    exact and_congr_right fun _ => ⟨fun h l _ hl => h l ((hls l).mp hl), fun h l hl => h l (hlane l hl) ((hls l).mpr hl)⟩
  · rw [cg_setLanes]
    exact putLanes_rest _ _ _ _

-- ## Active lanes

theorem bitOf_eq_testBit (w i : Nat) : bitOf w i = w.testBit i := by
  rw [Nat.testBit_eq_decide_div_mod_eq]
  rfl

theorem vl_le (s : State) : s.vl ≤ 64 := by
  unfold State.vl
  cases s.kind <;> decide

theorem bitOf_p (s : State) (p : LPred) {l : Nat} (hl : l < s.vl) : bitOf (s.p p.val) l = Rule.pRead s p l := by
  rw [bitOf_eq_testBit, State.p, Rule.pRead]
  split
  · simp [State.allOnes, hl]
  · rfl

theorem bitOf_active (s : State) (p : LPred) {l : Nat} (hl : l < s.vl) : bitOf (s.active p) l = Rule.isActive s p l := by
  rw [Rule.isActive, ← bitOf_p s p hl, bitOf_eq_testBit, bitOf_eq_testBit, bitOf_eq_testBit, State.active, Nat.testBit_and]
  simp [hl]

theorem isActive_iff_mem_lanes (s : State) (p : LPred) (l : Nat) : Rule.isActive s p l = true ↔ l ∈ s.lanes p := by
  rw [State.lanes, bitsOf, List.mem_filter, List.mem_range]
  by_cases hl : l < s.vl
  · simp [hl, bitOf_active]
  · simp [hl, Rule.isActive]

/-- An instruction that writes the active lanes of vD and nothing else is known by the values it writes. -/
theorem vecOp_of_vset {i : Instr} {s : State} {p : LPred} {d : VReg} {P : Nat → W32 → Prop} (g : Nat → W32)
    (hexec : exec i s = .next (s.vset p d g)) (hP : ∀ l, Rule.isActive s p l = true → P l (g l)) : Rule.VecOp i s p d P :=
  ⟨s.vset p d g, g, hexec, writesV_setLanes s d (isActive_iff_mem_lanes s p)
    (fun _ hl => Nat.lt_of_lt_of_le (List.mem_range.mp (List.mem_filter.mp hl).1) (vl_le s)) g, hP⟩

end Sys2Proof.Machine
end

section
/-!
PROOFS. VRED and VSCAN (R102, R253): the pairing of neighbours and the scan steps on the list of lanes are the butterfly tree and
the scan on lane numbers, and one application of an operation is the rule's.
-/
namespace Sys2Proof.Machine
open State

-- ## Pairings of lanes

section
variable (op : W32 → W32 → W32)

theorem pairUp_map_range (y : Nat → W32) (n : Nat) :
    pairUp op ((List.range (2 * n)).map y) = (List.range n).map fun i => op (y (2 * i)) (y (2 * i + 1)) := by
  induction n generalizing y with
  | zero => rfl
  | succ n ih =>
    have h := ih fun i => y (i + 2)
    rw [show 2 * (n + 1) = 2 * n + 1 + 1 from rfl, List.range_succ_eq_map, List.range_succ_eq_map, List.range_succ_eq_map]
    simpa [pairUp, Function.comp_def, Nat.mul_add] using h

theorem reduce_singleton (k : Nat) (a : W32) : reduce op k [a] = [a] := by
  induction k with
  | zero => rfl
  | succ k ih => exact ih

/-- k steps of pairing take the 2^k blocks of level j to the one block of level j + k; further steps leave it. -/
theorem reduce_tree (x : Nat → W32) (extra k j : Nat) :
    reduce op (k + extra) ((List.range (2 ^ k)).map (Rule.tree op x j)) = [Rule.tree op x (j + k) 0] := by
  induction k generalizing j with
  | zero => simpa using reduce_singleton op extra (Rule.tree op x j 0)
  | succ k ih =>
    rw [Nat.succ_add, reduce, Nat.pow_succ', pairUp_map_range]
    exact (ih (j + 1)).trans (by rw [Nat.succ_add_eq_add_succ])

theorem scanStep_map_range (y : Nat → W32) (d n : Nat) :
    scanStep op d ((List.range n).map y) = (List.range n).map fun l => if d ≤ l then op (y (l - d)) (y l) else y l := by
  refine List.ext_getElem (by simp [scanStep]) fun i h1 h2 => ?_
  have hi : i - d < n := by simp at h2; omega
  simp [scanStep, hi]

/-- The steps at the distances 1 to 2^(k − 1) lead to level k of the scan. -/
theorem foldl_scanStep (x : Nat → W32) (n k : Nat) :
    ((List.range k).map (2 ^ ·)).foldl (fun l d => scanStep op d l) ((List.range n).map x) =
      (List.range n).map (Rule.scanAt op x k) := by
  induction k with
  | zero => rfl
  | succ k ih =>
    rw [List.range_succ, List.map_append, List.foldl_append, ih]
    exact scanStep_map_range op _ _ n

end

/-- The levels of a reduction over the lanes of a core (R102). -/
def redLevels (s : State) : Nat := if s.kind = .tensor then 6 else 5

theorem redLevels_le (s : State) : redLevels s ≤ 6 := by
  unfold redLevels
  split <;> omega

theorem vl_eq_two_pow (s : State) : s.vl = 2 ^ redLevels s := by
  unfold State.vl redLevels
  cases s.kind <;> rfl

theorem reduce_lanes (op : W32 → W32 → W32) (x : Nat → W32) (s : State) :
    (reduce op 6 ((List.range s.vl).map x)).headD 0 = Rule.tree op x (redLevels s) 0 := by
  obtain ⟨extra, hextra⟩ := Nat.exists_eq_add_of_le (redLevels_le s)
  have h := reduce_tree op x extra (redLevels s) 0
  rw [← hextra, ← vl_eq_two_pow, Nat.zero_add] at h
  exact congrArg (·.headD 0) h

theorem scan_lanes (op : W32 → W32 → W32) (x : Nat → W32) (s : State) {l : Nat} (hl : l < s.vl) :
    (scan op s.vl ((List.range s.vl).map x)).getD l 0 = Rule.scanAt op x (redLevels s) l := by
  have hdist : [1, 2, 4, 8, 16, 32].filter (· < s.vl) = (List.range (redLevels s)).map (2 ^ ·) := by
    unfold State.vl redLevels
    cases s.kind <;> rfl
  rw [scan, hdist, foldl_scanStep]
  simp [hl]

-- ## One application of an operation

/-- On lanes that are one element the element-wise operation is the operation. -/
theorem zipElems_32 (g : Nat → Nat → Nat) (a b : W32) : zipElems 32 g a b = BitVec.ofNat 32 (g a.toNat b.toNat) := by
  have helem : ∀ x : W32, elem 32 0 x = x.toNat := fun x => by
    rw [elem, fld, Nat.mul_zero, Nat.pow_zero, Nat.div_one, x.toNat_mod_cancel]
  apply BitVec.eq_of_toNat_eq
  simp [zipElems, packLane, helem]

theorem fltOp2_f32 (m : RM) (g : Val → Val → Val) (a b : W32) :
    fltOp2 false .f32 m g a b = BitVec.ofNat 32 (encode f32 (.det m) (g (f32.decode a.toNat) (f32.decode b.toNat))) :=
  zipElems_32 (fun x y => encode f32 (.det m) (g (f32.decode x) (f32.decode y))) a b

theorem fltPick_f32 (g : Fmt → Nat → Nat → Nat) (a b : W32) :
    fltPick false .f32 g a b = BitVec.ofNat 32 (g f32 a.toNat b.toNat) := zipElems_32 (g f32) a b

/-- The lesser of two codes: the canonical NaN of two NaNs, the number beside one, else by their order (R241). -/
theorem minCode_eq (f : Fmt) (a b : Nat) :
    Val.minCode f a b =
      if f.decode a = .nan then (if f.decode b = .nan then f.nanCode else b)
      else if f.decode b = .nan then a else if (f.decode b).lt true (f.decode a) then b else a := by
  unfold Val.minCode
  cases f.decode a <;> cases f.decode b <;> rfl

/-- The greater of two codes. -/
theorem maxCode_eq (f : Fmt) (a b : Nat) :
    Val.maxCode f a b =
      if f.decode a = .nan then (if f.decode b = .nan then f.nanCode else b)
      else if f.decode b = .nan then a else if (f.decode a).lt true (f.decode b) then b else a := by
  unfold Val.maxCode
  cases f.decode a <;> cases f.decode b <;> rfl

theorem redOp_f32_add (m : RM) : redOp .f32 m .add = Rule.redStep .f32 m .add := by
  funext a b
  refine (fltOp2_f32 m _ a b).trans ?_
  rw [isRdn, Bool.beq_eq_decide_eq]
  rfl

theorem redOp_f32_min (m : RM) : redOp .f32 m .min = Rule.redStep .f32 m .min := by
  funext a b
  refine (fltPick_f32 Val.minCode a b).trans ?_
  rw [minCode_eq]
  simp only [apply_ite (BitVec.ofNat 32), BitVec.ofNat_toNat, BitVec.setWidth_eq]
  rfl

theorem redOp_f32_max (m : RM) : redOp .f32 m .max = Rule.redStep .f32 m .max := by
  funext a b
  refine (fltPick_f32 Val.maxCode a b).trans ?_
  rw [maxCode_eq]
  simp only [apply_ite (BitVec.ofNat 32), BitVec.ofNat_toNat, BitVec.setWidth_eq]
  rfl

/-- A choice by `<` and one by `≤` differ on a tie alone, and then both operands are the same. -/
theorem ite_lt_eq_ite_le {P Q : Prop} [Decidable P] [Decidable Q] {x y : W32} (hPQ : P → Q) (htie : Q → ¬P → x = y) :
    (if P then x else y) = if Q then x else y := by
  by_cases hP : P
  · rw [if_pos hP, if_pos (hPQ hP)]
  · by_cases hQ : Q
    · rw [if_neg hP, if_pos hQ, htie hQ hP]
    · rw [if_neg hP, if_neg hQ]

/-- The operations on integers: sums wrap, and a choice between equal lanes is the same either way. -/
theorem redOp_int {t : RedType} (ht : t ≠ .f32) (m : RM) (o : RedOp) : redOp t m o = Rule.redStep t m o := by
  funext a b
  have hint : a.toInt ≤ b.toInt → ¬a.toInt < b.toInt → a = b := fun h1 h2 => BitVec.eq_of_toInt_eq (by omega)
  have hnat : a.toNat ≤ b.toNat → ¬a.toNat < b.toNat → a = b := fun h1 h2 => BitVec.eq_of_toNat_eq (by omega)
  cases t with
  | f32 => exact absurd rfl ht
  | i32 =>
    cases o with
    | add => rfl
    | min =>
      simp only [redOp, Rule.redStep, decide_eq_true_eq]
      exact ite_lt_eq_ite_le Int.le_of_lt hint
    | max =>
      simp only [redOp, Rule.redStep, decide_eq_true_eq]
      exact ite_lt_eq_ite_le Int.le_of_lt fun h1 h2 => (hint h1 h2).symm
    | and => rfl
    | or => rfl
    | xor => rfl
  | u32 =>
    cases o with
    | add => rfl
    | min =>
      simp only [redOp, Rule.redStep, decide_eq_true_eq]
      exact ite_lt_eq_ite_le Nat.le_of_lt hnat
    | max =>
      simp only [redOp, Rule.redStep, decide_eq_true_eq]
      exact ite_lt_eq_ite_le Nat.le_of_lt fun h1 h2 => (hnat h1 h2).symm
    | and => rfl
    | or => rfl
    | xor => rfl

section
variable {t : RedType} {o : RedOp} (ht : t = .f32 → o = .add ∨ o = .min ∨ o = .max)
include ht

/-- One application of an operation is that of the rule. -/
theorem redOp_eq_redStep (m : RM) : redOp t m o = Rule.redStep t m o := by
  by_cases hint : t = .f32
  · subst hint
    rcases ht rfl with rfl | rfl | rfl
    · exact redOp_f32_add m
    · exact redOp_f32_min m
    · exact redOp_f32_max m
  · exact redOp_int hint m o

theorem redIdentity_eq_redId : redIdentity t o = Rule.redId t o := by
  cases t with
  | f32 => rcases ht rfl with rfl | rfl | rfl <;> rfl
  | i32 => cases o <;> rfl
  | u32 => cases o <;> rfl

/-- The lanes of a reduction are the active ones of vA and the identity elsewhere. -/
theorem redLanes_eq (s : State) (p : LPred) (a : VReg) :
    redLanes s t o p a = (List.range s.vl).map fun l => if Rule.isActive s p l then s.v a l else Rule.redId t o :=
  List.map_congr_left fun l hl => by rw [bitOf_active s p (List.mem_range.mp hl), redIdentity_eq_redId ht]

end

/-- Settles O22: on the list of lanes, the inactive ones at the identity, the model's pairing and scan steps are the tree and the scan
of R102. -/
theorem vectorReductions : Obligations.VectorReductions := by
  intro s t m o p d a ht
  have hop := redOp_eq_redStep ht m
  have hlanes := redLanes_eq ht s p a
  refine ⟨vecOp_of_vset _ rfl fun l _ => ?_, vecOp_of_vset _ rfl fun l hl => ?_⟩
  · rw [hop, hlanes]
    exact reduce_lanes _ _ s
  · have hvl : l < s.vl := List.mem_range.mp (List.mem_filter.mp ((isActive_iff_mem_lanes s p l).mp hl)).1
    rw [hop, hlanes]
    exact scan_lanes _ _ s hvl

end Sys2Proof.Machine
end

section
/-!
PROOFS. The values that the scalar engine writes (R178, R179, R182): a register of which the low W bits are those of an integer gives
Res of this integer, and sums, differences, products and shifts keep such an agreement.
-/
namespace Sys2Proof.Machine
open State

/-- An instruction that writes kD with `x` writes it with whatever `x` equals. -/
theorem exec_setK_of_eq {i : Instr} {s : State} {d : KReg} {x y : W64} (h : x = y) (hi : exec i s = .next (s.setK d x)) :
    exec i s = .next (s.setK d y) := h ▸ hi

/-- The lowest field of a number. -/
theorem fld_zero (x n : Nat) : fld x 0 n = x % 2 ^ n := by rw [fld, Nat.pow_zero, Nat.div_one]

-- ## Res of R178

theorem bits_le (f : KWidth) : f.bits ≤ 64 := by cases f <;> decide

theorem bits_pos (f : KWidth) : 0 < f.bits := by cases f <;> decide

/-- The signed value of a word of W bits, as R178 gives it. -/
theorem toInt_of_bits {f : KWidth} (y : BitVec f.bits) :
    y.toInt = if (y.toNat : Int) < 2 ^ (f.bits - 1) then (y.toNat : Int) else y.toNat - 2 ^ f.bits := by
  have hhalf : 2 ^ f.bits = 2 * 2 ^ (f.bits - 1) := by cases f <;> rfl
  rw [BitVec.toInt_eq_toNat_cond]
  push_cast
  exact ite_congr (propext (by norm_cast; omega)) (fun _ => rfl) fun _ => rfl

/-- Res of an integer is the sign extension of the word of W bits that holds it. -/
theorem signExtend_eq_res {f : KWidth} {y : BitVec f.bits} {z : Int} (h : (y.toNat : Int) % 2 ^ f.bits = z % 2 ^ f.bits) :
    y.signExtend 64 = Rule.res f z := by
  have hz : z % 2 ^ f.bits = y.toNat := h.symm.trans (Int.emod_eq_of_lt (by omega) (by exact_mod_cast y.isLt))
  rw [BitVec.signExtend, toInt_of_bits, Rule.res, hz]

theorem kres_eq_signExtend (f : KWidth) (x : W64) : kres f x = (x.truncate f.bits).signExtend 64 := by
  cases f with
  | d => simp [kres, KWidth.bits]
  | w => rfl

theorem krotVal_eq_signExtend (f : KWidth) (x : W64) (n : Nat) :
    krotVal f x n = ((x.truncate f.bits).rotateLeft n).signExtend 64 := by
  cases f with
  | d => simp [krotVal, KWidth.bits]
  | w => rfl

theorem toNat_truncate_bits (f : KWidth) (x : W64) : ((x.truncate f.bits).toNat : Int) = Rule.un f x := by
  rw [Rule.un, BitVec.truncate_eq_setWidth, BitVec.toNat_setWidth]

theorem toNat_karg (f : KWidth) (x : W64) : ((karg f x).toNat : Int) = Rule.un f x := by
  cases f with
  | d => rw [karg, Rule.un, KWidth.bits, Nat.mod_eq_of_lt x.isLt]
  | w => rw [karg, Rule.un, BitVec.toNat_and]; exact congrArg _ (Nat.and_two_pow_sub_one_eq_mod x.toNat 32)

theorem toInt_kres (f : KWidth) (x : W64) : (kres f x).toInt = Rule.sg f x := by
  rw [kres_eq_signExtend, BitVec.toInt_signExtend_of_le (bits_le f), toInt_of_bits, Rule.sg, toNat_truncate_bits]

theorem un_eq (f : KWidth) (x : W64) : Rule.un f x = (x.toNat : Int) % 2 ^ f.bits := by
  rw [Rule.un]
  norm_cast

-- ## Agreement at W bits

/-- The low W bits of a register are those of an integer. -/
def Agrees (f : KWidth) (x : W64) (z : Int) : Prop := (x.toNat : Int) % 2 ^ f.bits = z % 2 ^ f.bits

theorem Agrees.kres_eq {f : KWidth} {x : W64} {z : Int} (h : Agrees f x z) : kres f x = Rule.res f z := by
  rw [kres_eq_signExtend]
  refine signExtend_eq_res ?_
  rw [toNat_truncate_bits, un_eq, Int.emod_emod]
  exact h

theorem two_pow_bits_dvd (f : KWidth) : (2 : Int) ^ f.bits ∣ 2 ^ 64 := by cases f <;> decide

/-- What holds modulo 2^64 holds modulo 2^W. -/
theorem agrees_of_emod {x : W64} {z : Int} (f : KWidth) (h : (x.toNat : Int) = z % 2 ^ 64) : Agrees f x z := by
  rw [Agrees, h, Int.emod_emod_of_dvd z (two_pow_bits_dvd f)]

section
variable {f : KWidth} {x y : W64} {a b : Int}

theorem agrees_un : Agrees f x (Rule.un f x) := by
  rw [Agrees, un_eq, Int.emod_emod]

theorem agrees_ofInt (z : Int) : Agrees f (BitVec.ofInt 64 z) z :=
  agrees_of_emod f (by rw [BitVec.toNat_ofInt]; omega)

theorem agrees_toInt : Agrees f x x.toInt := by
  have h := agrees_ofInt (f := f) x.toInt
  rwa [BitVec.ofInt_toInt] at h

theorem agrees_sg : Agrees f x (Rule.sg f x) := by
  have h := agrees_un (f := f) (x := x)
  rw [Rule.sg]
  split
  · exact h
  · rw [Agrees, Int.sub_emod_right]
    exact h

theorem agrees_us (u : Bool) : Agrees f x (Rule.us f u x) := by
  cases u with
  | true => exact agrees_un
  | false => exact agrees_sg

variable (hx : Agrees f x a) (hy : Agrees f y b)
include hx

theorem Agrees.shiftLeft (n : Nat) : Agrees f (x <<< n) (a * 2 ^ n) := by
  have h : Agrees f (x <<< n) (x.toNat * 2 ^ n) :=
    agrees_of_emod f (by rw [BitVec.toNat_shiftLeft, Nat.shiftLeft_eq]; norm_cast)
  rw [Agrees, h, Int.mul_emod, hx, ← Int.mul_emod]

include hy

theorem Agrees.add : Agrees f (x + y) (a + b) := by
  have h : Agrees f (x + y) (x.toNat + y.toNat) := agrees_of_emod f (by rw [BitVec.toNat_add]; norm_cast)
  rw [Agrees, h, Int.add_emod, hx, hy, ← Int.add_emod]

theorem Agrees.sub : Agrees f (x - y) (a - b) := by
  have h : Agrees f (x - y) (x.toNat - y.toNat) := agrees_of_emod f (by rw [BitVec.toNat_sub]; omega)
  rw [Agrees, h, Int.sub_emod, hx, hy, ← Int.sub_emod]

theorem Agrees.mul : Agrees f (x * y) (a * b) := by
  have h : Agrees f (x * y) (x.toNat * y.toNat) := agrees_of_emod f (by rw [BitVec.toNat_mul]; norm_cast)
  rw [Agrees, h, Int.mul_emod, hx, hy, ← Int.mul_emod]

end

-- ## Constants, products and shifts

/-- KHI's value is its immediate times 2^20 (R182). -/
theorem signExtend_shiftLeft_20 (i : BitVec 20) : i.signExtend 64 <<< 20 = BitVec.ofInt 64 (i.toInt * 2 ^ 20) :=
  calc i.signExtend 64 <<< 20 = Rule.res .d (i.toInt * 2 ^ 20) := ((agrees_ofInt i.toInt).shiftLeft 20).kres_eq (f := .d)
    _ = BitVec.ofInt 64 (i.toInt * 2 ^ 20) := ((agrees_ofInt _).kres_eq (f := .d)).symm

theorem un_d (x : W64) : Rule.un .d x = x.toNat := (toNat_karg .d x).symm

theorem sg_d (x : W64) : Rule.sg .d x = x.toInt := (toInt_kres .d x).symm

/-- KMULH's value is bits 127 to 64 of the exact product (R178). -/
theorem kmulhVal_eq (u : Bool) (a b : W64) :
    kmulhVal u a b = BitVec.ofInt 64 (Rule.us .d u a * Rule.us .d u b / 2 ^ 64) := by
  cases u with
  | true =>
    simp only [kmulhVal, Rule.us, un_d, if_true]
    exact_mod_cast (BitVec.ofInt_natCast 64 _).symm
  | false => simp [kmulhVal, Rule.us, sg_d]

theorem kshlVal_eq (f : KWidth) (a : W64) (n : Nat) : kshlVal f a n = Rule.res f (Rule.un f a * 2 ^ n) := by
  rw [kshlVal, ← toNat_karg]
  exact (Agrees.shiftLeft rfl n).kres_eq

theorem kshrVal_eq (f : KWidth) (a : W64) (n : Nat) : kshrVal f a n = Rule.res f (Rule.un f a / 2 ^ n) := by
  rw [kshrVal, ← toNat_karg]
  refine Agrees.kres_eq ?_
  rw [Agrees, BitVec.toNat_ushiftRight, Nat.shiftRight_eq_div_pow]
  push_cast
  rfl

theorem ksarVal_eq (f : KWidth) (a : W64) (n : Nat) : ksarVal f a n = Rule.res f (Rule.sg f a / 2 ^ n) := by
  have h : ((kres f a).sshiftRight n).toInt = Rule.sg f a / 2 ^ n := by
    rw [BitVec.toInt_sshiftRight, toInt_kres, Int.shiftRight_eq_div_pow]
    push_cast
    rfl
  rw [ksarVal, ← h]
  exact agrees_toInt.kres_eq

/-- A rotation to the left by less than the width: the bits that leave at the top come in at the bottom. -/
theorem toNat_rotateLeft_of_lt {w n : Nat} (x : BitVec w) (hn : n < w) :
    (x.rotateLeft n).toNat = x.toNat * 2 ^ n % 2 ^ w + x.toNat / 2 ^ (w - n) := by
  have hw : 2 ^ w = 2 ^ (w - n) * 2 ^ n := by rw [← Nat.pow_add, Nat.sub_add_cancel (Nat.le_of_lt hn)]
  have hlow : x.toNat >>> (w - n) < 2 ^ n := by
    rw [Nat.shiftRight_eq_div_pow]
    exact Nat.div_lt_of_lt_mul (hw ▸ x.isLt)
  rw [BitVec.toNat_rotateLeft, Nat.mod_eq_of_lt hn, Nat.shiftLeft_eq, ← Nat.shiftRight_eq_div_pow, hw, Nat.mul_mod_mul_right,
    ← Nat.shiftLeft_eq, Nat.shiftLeft_add_eq_or_of_lt hlow]

theorem krotVal_eq {f : KWidth} {n : Nat} (a : W64) (hn : n < f.bits) :
    krotVal f a n = Rule.res f (Rule.un f a * 2 ^ n + Rule.un f a / 2 ^ (f.bits - n)) := by
  rw [krotVal_eq_signExtend, ← toNat_truncate_bits]
  refine signExtend_eq_res ?_
  rw [toNat_rotateLeft_of_lt _ hn]
  norm_cast
  exact Nat.mod_add_mod _ _ _

theorem kcount_eq (f : KWidth) (x : Nat) : kcount f x = x % f.bits := by cases f <;> rfl

/-- Settles O1: each sum, difference and product of registers agrees at W bits with that of their values. -/
theorem scalarAddSubMulAndMoves : Obligations.ScalarAddSubMulAndMoves := by
  intro s f u d a b i j
  exact ⟨rfl, rfl, exec_setK_of_eq (signExtend_shiftLeft_20 i) rfl,
    exec_setK_of_eq (agrees_un.add agrees_un).kres_eq rfl,
    exec_setK_of_eq ((agrees_un.add (agrees_ofInt j.toInt)).kres_eq (f := .d)) rfl,
    exec_setK_of_eq (agrees_un.sub agrees_un).kres_eq rfl,
    exec_setK_of_eq (agrees_un.mul agrees_un).kres_eq rfl,
    exec_setK_of_eq (kmulhVal_eq u _ _) rfl,
    exec_setK_of_eq ((agrees_un.mul agrees_un).add agrees_un).kres_eq rfl⟩

/-- Bit i of a sign-extended immediate is its bit i, and above its top bit the top bit. -/
theorem getLsbD_signExtend_14 (j : BitVec 14) {i : Nat} (hi : i < 64) : (j.signExtend 64).getLsbD i = j.getLsbD (min i 13) := by
  rw [BitVec.getLsbD_signExtend, decide_eq_true hi, Bool.true_and]
  split
  · rw [Nat.min_eq_left (by omega)]
  · rw [Nat.min_eq_right (by omega), BitVec.msb_eq_getLsbD_last]

/-- Settles O2: logic acts bit by bit, a shift is a product with or a quotient by a power of two, and a rotation adds both. -/
theorem scalarLogicAndShifts : Obligations.ScalarLogicAndShifts := by
  intro s f d a b j c
  refine ⟨⟨_, _, _, _, rfl, rfl, rfl, rfl, fun i hi => ?_⟩, ⟨_, _, _, rfl, rfl, rfl, fun i hi => ?_⟩, ?_, fun hc => ?_⟩
  · simp [hi]
  · simp [getLsbD_signExtend_14 j hi]
  · have hn := Nat.mod_lt (s.k b).toNat (bits_pos f)
    rw [← kcount_eq] at hn ⊢
    exact ⟨exec_setK_of_eq (kshlVal_eq f _ _) rfl, exec_setK_of_eq (kshrVal_eq f _ _) rfl,
      exec_setK_of_eq (ksarVal_eq f _ _) rfl, exec_setK_of_eq (krotVal_eq _ hn) rfl⟩
  · exact ⟨exec_setK_of_eq (kshlVal_eq f _ _) rfl, exec_setK_of_eq (kshrVal_eq f _ _) rfl,
      exec_setK_of_eq (ksarVal_eq f _ _) rfl, exec_setK_of_eq (krotVal_eq _ hc) rfl⟩

-- ## Constants of forty bits (R182)

/-- The word of 20 bits that KHI shifts up under the low word of a constant. -/
def highWord (c : Int) : BitVec 20 := BitVec.ofInt 20 ((c - (BitVec.ofInt 20 c).toInt) / 2 ^ 20)

/-- What is left of a constant above its signed low word is the high word, in the range that 20 bits hold. -/
theorem highWord_toInt {c : Int} (hlo : -(2 ^ 39) ≤ c) (hhi : c ≤ 2 ^ 39 - 2 ^ 19 - 1) :
    (highWord c).toInt * 2 ^ 20 = c - (BitVec.ofInt 20 c).toInt := by
  rw [highWord, BitVec.toInt_ofInt, BitVec.toInt_ofInt, Int.bmod_def, Int.bmod_def]
  split <;> split <;> omega

/-- Settles O6: the two words shifted to their places have the constant as their sum. -/
theorem constantsOfFortyBits : Obligations.ConstantsOfFortyBits := by
  refine ⟨fun s d i => ⟨rfl, rfl⟩, fun c hlo hhi => ⟨highWord c, highWord_toInt hlo hhi, fun s d a b ha hb => ?_⟩⟩
  refine exec_setK_of_eq (y := BitVec.ofInt 64 c) ?_ rfl
  calc s.k a + s.k b = BitVec.ofInt 64 ((highWord c).toInt * 2 ^ 20) + BitVec.ofInt 64 (BitVec.ofInt 20 c).toInt := by
        rw [ha, hb, signExtend_shiftLeft_20]
        rfl
    _ = BitVec.ofInt 64 c := by rw [← BitVec.ofInt_add, highWord_toInt hlo hhi, Int.sub_add_cancel]

end Sys2Proof.Machine
end

section
/-!
PROOFS. KDIVS (R179): what one step of restoring division keeps, and what 32 of them leave.
-/
namespace Sys2Proof.Machine
open State

/-- One step of the division by `dv` on the dividend as a number (R179). -/
def divStep (dv z : Nat) : Nat :=
  let r := z / 2 ^ 31
  let q := z % 2 ^ 31 * 2
  if dv ≤ r then (r - dv) % 2 ^ 32 * 2 ^ 32 + (q + 1) else r % 2 ^ 32 * 2 ^ 32 + q

theorem toNat_kdivsVal (x y : W64) : (kdivsVal x y).toNat = divStep (y.toNat % 2 ^ 32) x.toNat := by
  have hr : fld x.toNat 31 33 = x.toNat / 2 ^ 31 := Nat.mod_eq_of_lt (by omega)
  rw [kdivsVal, divStep, hr, fld_zero, fld_zero]
  split <;> rw [BitVec.toNat_ofNat] <;> omega

theorem iter_succ {α : Type} (f : α → α) (n : Nat) (x : α) : Rule.iter f (n + 1) x = f (Rule.iter f n x) := by
  induction n generalizing x with
  | zero => rfl
  | succ n ih => exact ih (f x)

theorem toNat_iter_kdivsVal (x y : W64) (n : Nat) :
    (Rule.iter (fun x => kdivsVal x y) n x).toNat = Rule.iter (divStep (y.toNat % 2 ^ 32)) n x.toNat := by
  induction n with
  | zero => rfl
  | succ n ih => rw [iter_succ, iter_succ, toNat_kdivsVal, ih]

/-- In the division of `x` by `dv`, `z` holds the remainder of the part divided so far, above the `m` bits of the dividend that are
left and the `n` bits of its quotient. -/
def Dividing (x dv n m z : Nat) : Prop :=
  ∃ hi rest quot, z = hi * 2 ^ 32 + (rest * 2 ^ n + quot) ∧ hi < dv ∧ rest < 2 ^ m ∧ quot < 2 ^ n ∧
    x = (quot * dv + hi) * 2 ^ m + rest

theorem dividing_start {x dv : Nat} (h : x / 2 ^ 32 < dv) : Dividing x dv 0 32 x :=
  ⟨x / 2 ^ 32, x % 2 ^ 32, 0, by omega, h, by omega, by omega, by omega⟩

/-- A step takes over the highest bit that is left and finds one bit of the quotient. -/
theorem dividing_step {x dv n m z : Nat} (hdv : dv < 2 ^ 32) (hnm : m + n = 31) (h : Dividing x dv n (m + 1) z) :
    Dividing x dv (n + 1) m (divStep dv z) := by
  obtain ⟨hi, rest, quot, hz, hhi, hrest, hquot, hx⟩ := h
  obtain ⟨b, rest', hb, hrest', rfl⟩ : ∃ b rest', b < 2 ∧ rest' < 2 ^ m ∧ rest = b * 2 ^ m + rest' :=
    ⟨rest / 2 ^ m, rest % 2 ^ m, Nat.div_lt_of_lt_mul (by rwa [← Nat.pow_succ]), Nat.mod_lt _ (Nat.two_pow_pos m),
      (Nat.div_add_mod' rest (2 ^ m)).symm⟩
  have hpow : 2 ^ m * 2 ^ n = 2 ^ 31 := by rw [← Nat.pow_add, hnm]
  have hlow : rest' * 2 ^ n + quot < 2 ^ 31 :=
    calc rest' * 2 ^ n + quot < (rest' + 1) * 2 ^ n := by rw [Nat.succ_mul]; omega
      _ ≤ 2 ^ 31 := hpow ▸ Nat.mul_le_mul_right _ hrest'
  have hplace : (b * 2 ^ m + rest') * 2 ^ n = b * 2 ^ 31 + rest' * 2 ^ n := by rw [Nat.add_mul, Nat.mul_assoc, hpow]
  have hr : z / 2 ^ 31 = 2 * hi + b := by omega
  have hq : z % 2 ^ 31 * 2 = 2 * (rest' * 2 ^ n + quot) := by omega
  have hx' : x = (2 * (quot * dv + hi) + b) * 2 ^ m + rest' := by
    rw [hx, Nat.pow_succ', ← Nat.mul_assoc, Nat.mul_comm _ 2, Nat.add_mul (2 * _), Nat.add_assoc]
  have hshift : rest' * 2 ^ (n + 1) = 2 * (rest' * 2 ^ n) := by rw [Nat.pow_succ', Nat.mul_left_comm]
  have hgrow : 2 ^ (n + 1) = 2 * 2 ^ n := Nat.pow_succ'
  rw [divStep, hr, hq]
  split
  next hle =>
    have hquot' : (2 * quot + 1) * dv = 2 * (quot * dv) + dv := by rw [Nat.succ_mul, Nat.mul_assoc]
    exact ⟨2 * hi + b - dv, rest', 2 * quot + 1, by omega, by omega, hrest', by omega,
      hx'.trans (congrArg (· * 2 ^ m + rest') (by omega))⟩
  next hlt =>
    have hquot' : 2 * quot * dv = 2 * (quot * dv) := Nat.mul_assoc 2 quot dv
    exact ⟨2 * hi + b, rest', 2 * quot, by omega, by omega, hrest', by omega,
      hx'.trans (congrArg (· * 2 ^ m + rest') (by omega))⟩

theorem dividing_iter {x dv n m : Nat} (hdv : dv < 2 ^ 32) (hx : x / 2 ^ 32 < dv) (hnm : m + n = 32) :
    Dividing x dv n m (Rule.iter (divStep dv) n x) := by
  induction n generalizing m with
  | zero =>
    obtain rfl : m = 32 := hnm
    exact dividing_start hx
  | succ n ih =>
    rw [iter_succ]
    exact dividing_step hdv (by omega) (ih (by omega))

/-- With no bit of the dividend left, the halves are quotient and remainder. -/
theorem Dividing.halves {x dv z : Nat} (h : Dividing x dv 32 0 z) : z % 2 ^ 32 = x / dv ∧ z / 2 ^ 32 = x % dv := by
  obtain ⟨hi, rest, quot, hz, hhi, hrest, hquot, hx⟩ := h
  obtain ⟨hdiv, hmod⟩ := (Nat.div_mod_unique (a := x) (d := quot) (c := hi) (by omega)).mpr ⟨by rw [hx, Nat.mul_comm]; omega, hhi⟩
  rw [hdiv, hmod]
  omega

/-- With a divisor of 0 every step finds a 1. -/
theorem pow_dvd_iter_divStep_zero (x : Nat) {n : Nat} (hn : n ≤ 32) : 2 ^ n ∣ Rule.iter (divStep 0) n x + 1 := by
  induction n with
  | zero => exact Nat.one_dvd _
  | succ n ih =>
    rw [iter_succ]
    generalize Rule.iter (divStep 0) n x = z at ih ⊢
    have hlow : 2 ^ n ∣ z % 2 ^ 31 + 1 := by
      have hsum := ih (by omega)
      rw [← Nat.div_add_mod z (2 ^ 31), Nat.add_assoc] at hsum
      exact (Nat.dvd_add_right (Nat.dvd_mul_right_of_dvd (Nat.pow_dvd_pow 2 (by omega)) _)).mp hsum
    have hstep : divStep 0 z + 1 = z / 2 ^ 31 % 2 ^ 32 * 2 ^ 32 + (z % 2 ^ 31 + 1) * 2 := by
      rw [divStep, if_pos (Nat.zero_le _), Nat.sub_zero]
      omega
    rw [hstep]
    exact Nat.dvd_add (Nat.dvd_mul_left_of_dvd (Nat.pow_dvd_pow 2 hn) _) (Nat.pow_succ 2 n ▸ Nat.mul_dvd_mul_right hlow 2)

/-- Settles O4: every step keeps `Dividing`, which after 32 steps leaves quotient and remainder. -/
theorem scalarDivideStep : Obligations.ScalarDivideStep := by
  refine ⟨fun y x => kdivsVal x y, fun s d a b => rfl, fun x y => toNat_kdivsVal x y, fun x y => ?_⟩
  dsimp only
  rw [toNat_iter_kdivsVal]
  refine ⟨fun hx => (dividing_iter (Nat.mod_lt _ (by decide)) hx rfl).halves, fun hdv => ?_⟩
  have h := pow_dvd_iter_divStep_zero x.toNat (Nat.le_refl 32)
  rw [hdv]
  omega

end Sys2Proof.Machine
end

section
/-!
PROOFS. Comparisons, counts and bit fields of the scalar engine (R178, R180, R181), and the words of form KA (R177).
-/
namespace Sys2Proof.Machine
open State

-- ## Comparisons

theorem kless_eq (f : KWidth) (u : Bool) (a b : W64) : kless f u a b = decide (Rule.us f u a < Rule.us f u b) := by
  cases u with
  | true => simp [kless, Rule.us, ← toNat_karg]
  | false => simp [kless, Rule.us, toInt_kres]

theorem kminVal_eq (f : KWidth) (u : Bool) (a b : W64) :
    kminVal f u a b = Rule.res f (min (Rule.us f u a) (Rule.us f u b)) := by
  rw [kminVal, kless_eq]
  by_cases h : Rule.us f u b < Rule.us f u a
  · rw [decide_eq_true h, if_pos rfl, Int.min_eq_right (Int.le_of_lt h)]
    exact (agrees_us u).kres_eq
  · rw [decide_eq_false h, if_neg (by decide), Int.min_eq_left (Int.not_lt.mp h)]
    exact (agrees_us u).kres_eq

theorem kmaxVal_eq (f : KWidth) (u : Bool) (a b : W64) :
    kmaxVal f u a b = Rule.res f (max (Rule.us f u a) (Rule.us f u b)) := by
  rw [kmaxVal, kless_eq]
  by_cases h : Rule.us f u a < Rule.us f u b
  · rw [decide_eq_true h, if_pos rfl, Int.max_eq_right (Int.le_of_lt h)]
    exact (agrees_us u).kres_eq
  · rw [decide_eq_false h, if_neg (by decide), Int.max_eq_left (Int.not_lt.mp h)]
    exact (agrees_us u).kres_eq

theorem signedOf_bits (f : KWidth) (x : W64) : signedOf f.bits (x.toNat % 2 ^ f.bits) = Rule.sg f x := by
  rw [signedOf, Nat.mod_mod, Rule.sg, Rule.un]
  norm_cast

-- ## Counts

theorem bitOf_toNat {w : Nat} (x : BitVec w) (i : Nat) : bitOf x.toNat i = x.getLsbD i := bitOf_eq_testBit x.toNat i

theorem length_filter_eq_sum {α : Type} (p : α → Bool) (l : List α) : (l.filter p).length = (l.map fun x => bit (p x)).sum := by
  induction l with
  | nil => rfl
  | cons x r ih => cases h : p x <;> simp [h, bit, ih, Nat.add_comm]

/-- The number of 1 bits, one after another. -/
theorem popCount_toNat (n : Nat) (x : W64) : popCount n x.toNat = ((List.range n).map fun i => bit (x.getLsbD i)).sum := by
  rw [popCount, bitsOf, length_filter_eq_sum]
  simp only [bitOf_toNat]

/-- The leading zeros end at the highest 1 bit of the low n bits. -/
theorem leadZeros_spec (n x : Nat) :
    leadZeros n x ≤ n ∧ (∀ i, n - leadZeros n x ≤ i → i < n → x.testBit i = false) ∧
      (leadZeros n x < n → x.testBit (n - 1 - leadZeros n x) = true) := by
  have hlow : ∀ i < n, (x % 2 ^ n).testBit i = x.testBit i := fun i hi => by simp [hi]
  rw [leadZeros]
  split
  next hzero =>
    refine ⟨Nat.le_refl n, fun i _ hi => ?_, fun h => absurd h (Nat.lt_irrefl n)⟩
    rw [← hlow i hi, hzero, Nat.zero_testBit]
  next hne =>
    have htop : Nat.log2 (x % 2 ^ n) < n := (Nat.log2_lt hne).mpr (Nat.mod_lt x (Nat.two_pow_pos n))
    refine ⟨by omega, fun i hi hin => ?_, fun _ => ?_⟩
    · rw [← hlow i hin]
      exact Nat.testBit_lt_two_pow (Nat.lt_of_lt_of_le Nat.lt_log2_self (Nat.pow_le_pow_right Nat.two_pos (by omega)))
    · rw [show n - 1 - (n - 1 - Nat.log2 (x % 2 ^ n)) = Nat.log2 (x % 2 ^ n) by omega, ← hlow _ htop]
      exact Nat.testBit_log2 hne

/-- The first position of a 1 bit is the lowest. -/
theorem head?_bitsOf_eq_some {n m l : Nat} :
    (bitsOf n m).head? = some l ↔ bitOf m l = true ∧ l < n ∧ ∀ j < l, bitOf m j = false := by
  simp [bitsOf, List.head?_filter, List.find?_range_eq_some]

theorem head?_bitsOf_eq_none {n m : Nat} : (bitsOf n m).head? = none ↔ ∀ i < n, bitOf m i = false := by
  simp [bitsOf, List.head?_filter]

theorem trailZeros_eq (n x : Nat) : trailZeros n x = (bitsOf n x).head?.getD n := by
  rw [trailZeros]
  cases bitsOf n x <;> rfl

/-- The trailing zeros end at the lowest 1 bit of the low n bits. -/
theorem trailZeros_spec (n x : Nat) :
    trailZeros n x ≤ n ∧ (∀ i < trailZeros n x, bitOf x i = false) ∧ (trailZeros n x < n → bitOf x (trailZeros n x) = true) := by
  rw [trailZeros_eq]
  cases h : (bitsOf n x).head? with
  | none => exact ⟨Nat.le_refl n, head?_bitsOf_eq_none.mp h, fun hn => absurd hn (Nat.lt_irrefl n)⟩
  | some l =>
    obtain ⟨hbit, hl, hbelow⟩ := head?_bitsOf_eq_some.mp h
    exact ⟨Nat.le_of_lt hl, hbelow, fun _ => hbit⟩

/-- Settles O3: comparisons are those of the operands as integers, and the counts stop at the highest and the lowest 1 bit. -/
theorem scalarMinMaxCompareSelectCount : Obligations.ScalarMinMaxCompareSelectCount := by
  intro s f u d a b x c
  refine ⟨exec_setK_of_eq (kminVal_eq f u _ _) rfl, exec_setK_of_eq (kmaxVal_eq f u _ _) rfl, ⟨_, rfl, ?_, ?_⟩,
    exec_setK_of_eq (ite_not _ _ _) rfl, exec_setK_of_eq (congrArg _ (popCount_toNat _ _)) rfl, ?_, ?_⟩
  · split
    · exact .inr rfl
    · exact .inl rfl
  · rw [show ∀ p : Bool, ((if p then 1 else 0 : W64) = 1 ↔ p = true) by decide]
    cases c with
    | eq | ne => simp only [kcond, Rule.un, beq_iff_eq, bne_iff_ne, ne_eq, Int.natCast_inj]
    | lt | ge | le | gt => simp only [kcond, signedOf_bits, decide_eq_true_eq]
    | ltu | geu | leu | gtu => simp only [kcond, Rule.un, decide_eq_true_eq, Int.ofNat_lt, Int.ofNat_le]
  · obtain ⟨hle, hzeros, hone⟩ := leadZeros_spec f.bits (s.k a).toNat
    exact ⟨_, hle, rfl, hzeros, hone⟩
  · obtain ⟨hle, hzeros, hone⟩ := trailZeros_spec f.bits (s.k a).toNat
    simp only [bitOf_toNat] at hzeros hone
    exact ⟨_, hle, rfl, hzeros, hone⟩

-- ## Bit fields

theorem ofNat_wrapTo (z : Int) : BitVec.ofNat 64 (wrapTo 64 z) = BitVec.ofInt 64 z := by
  apply BitVec.eq_of_toNat_eq
  rw [BitVec.toNat_ofNat, BitVec.toNat_ofInt, wrapTo]
  exact Nat.mod_eq_of_lt (by omega)

/-- KBFE's value: a field whose top bit is 1 stands for a negative number when it is sign-extended (R180). -/
theorem kbfeVal_eq (e : Bool) (a : W64) (pos len : Nat) :
    kbfeVal e a pos len = BitVec.ofInt 64 (if e ∧ 2 ^ (len - 1) ≤ ((a.toNat / 2 ^ pos % 2 ^ len : Nat) : Int)
      then ((a.toNat / 2 ^ pos % 2 ^ len : Nat) : Int) - 2 ^ len else ((a.toNat / 2 ^ pos % 2 ^ len : Nat) : Int)) := by
  rw [kbfeVal, fld]
  cases e with
  | false => exact (BitVec.ofInt_natCast 64 _).symm
  | true =>
    have hneg : (2 : Int) ^ (len - 1) ≤ ((a.toNat / 2 ^ pos % 2 ^ len : Nat) : Int) ↔
        ¬a.toNat / 2 ^ pos % 2 ^ len < 2 ^ (len - 1) := by
      rw [Nat.not_lt]
      norm_cast
    simp only [hneg, true_and, ite_not, if_true, sext, ofNat_wrapTo, signedOf, Nat.mod_mod]

theorem getLsbD_ones (len : Nat) {i : Nat} (hi : i < 64) : (BitVec.ofNat 64 (2 ^ len - 1)).getLsbD i = decide (i < len) := by
  rw [BitVec.getLsbD_ofNat, decide_eq_true hi, Bool.true_and, Nat.testBit_two_pow_sub_one]

/-- KBFI's value bit by bit (R180). -/
theorem getLsbD_kbfiVal (d a : W64) (pos len : Nat) {i : Nat} (hi : i < 64) :
    (kbfiVal d a pos len).getLsbD i = if pos ≤ i ∧ i < pos + len then a.getLsbD (i - pos) else d.getLsbD i := by
  have hmask : ((BitVec.ofNat 64 (2 ^ len - 1)) <<< pos).getLsbD i = decide (pos ≤ i ∧ i < pos + len) := by
    rw [BitVec.getLsbD_shiftLeft, getLsbD_ones len (by omega), decide_eq_true hi, Bool.true_and, ← decide_not, ← Bool.decide_and]
    exact decide_eq_decide.mpr (by omega)
  rw [kbfiVal, BitVec.getLsbD_or, BitVec.getLsbD_and, BitVec.getLsbD_not, BitVec.getLsbD_and, hmask, BitVec.getLsbD_shiftLeft]
  by_cases hin : pos ≤ i ∧ i < pos + len
  · simp [hin, hi, Nat.not_lt.mpr hin.1]
  · simp [hin, hi]

-- ## Words of form KA

/-- A word of form KA with an opcode above those of the other forms is read by its fields (R177). -/
theorem decodeSlot_ka (kd : CoreKind) {w op f d a b x : Nat} (hlo : 0x19 < op) (hop : op < 64) (hf : f < 4) (hd : d < 64) (ha : a < 64)
    (hb : b < 64) (hx : x < 64) (hw : w = op * 2 ^ 26 + f * 2 ^ 24 + d * 2 ^ 18 + a * 2 ^ 12 + b * 2 ^ 6 + x) :
    decodeSlot kd 1 w = decodeKA op x b a d f := by
  have hread : w / 2 ^ 26 % 64 = op := by omega
  have hfields : unpack wKA w = [x, b, a, d, f, op] := by
    simp only [unpack, wKA, List.cons.injEq, and_true]
    omega
  show decodeScl w = _
  rw [decodeScl, hread, if_neg (by omega), if_neg (by omega), if_neg (by omega), hfields]

theorem k6_val (n : KReg) : k6 n.val = n := Fin.ofNat_val_eq_self n

/-- Settles O5: the values are known as a number and bit by bit, and the words are read by their fields. -/
theorem scalarBitFields : Obligations.ScalarBitFields := by
  intro s e d a pos x
  refine ⟨exec_setK_of_eq (kbfeVal_eq e _ _ _) rfl, ⟨_, rfl, fun i hi => getLsbD_kbfiVal _ _ _ _ hi⟩, fun kd => ⟨?_, ?_⟩⟩
  · have hf : bit e < 4 := by cases e <;> decide
    rw [decodeSlot_ka kd (by decide) (by decide) hf d.isLt a.isLt pos.isLt x.isLt rfl]
    have hread : decodeKA 0x21 x pos a d (bit e) = .ok (.kbfe e (k6 d) (k6 a) (Fin.ofNat 64 pos) (Fin.ofNat 64 x)) := by
      cases e <;> rfl
    rw [hread, k6_val, k6_val, Fin.ofNat_val_eq_self, Fin.ofNat_val_eq_self]
  · rw [decodeSlot_ka kd (op := 0x22) (f := 0) (by decide) (by decide) (by decide) d.isLt a.isLt pos.isLt x.isLt (by omega)]
    have hread : decodeKA 0x22 x pos a d 0 = .ok (.kbfi (k6 d) (k6 a) (Fin.ofNat 64 pos) (Fin.ofNat 64 x)) := rfl
    rw [hread, k6_val, k6_val, Fin.ofNat_val_eq_self, Fin.ofNat_val_eq_self]

end Sys2Proof.Machine
end

section
/-!
PROOFS. Lane reads, predicates and special registers of the scalar engine (R183 to R186), and what a write of a k register leaves
unchanged.
-/
namespace Sys2Proof.Machine
open State

-- ## Lane reads (R183)

/-- The lane that KRFL and %lane name is the lowest one of a mask that has a lane. -/
theorem lowLane_eq {s : State} {l : Nat} (hl : l < s.vl) (hbit : bitOf s.mask l = true) (hbelow : ∀ j < l, bitOf s.mask j = false) :
    s.lowLane = l := by
  have h := head?_bitsOf_eq_some.mpr ⟨hbit, hl, hbelow⟩
  rw [State.lowLane, State.maskLanes]
  revert h
  cases bitsOf s.vl s.mask <;> simp

theorem laneExt_eq (u : Bool) (x : W32) : laneExt u x = if u then BitVec.ofNat 64 x.toNat else BitVec.ofInt 64 x.toInt := by
  cases u with
  | true => exact (BitVec.ofNat_toNat 64 x).symm
  | false => rfl

/-- Settles O7: the lane read is the lowest of the mask, or the one that kB names. -/
theorem laneReads : Obligations.LaneReads := by
  intro s u d b v
  refine ⟨fun l hl hbit hbelow => exec_setK_of_eq ?_ rfl, exec_setK_of_eq (laneExt_eq u _) rfl⟩
  rw [lowLane_eq hl hbit hbelow, laneExt_eq]

-- ## Predicates (R186)

theorem testBit_allOnes {s : State} {l : Nat} (hl : l < s.vl) : s.allOnes.testBit l = true := by
  rw [State.allOnes, Nat.testBit_two_pow_sub_one, decide_eq_true hl]

theorem testBit_p {s : State} (n : PReg) {l : Nat} (hl : l < s.vl) : (s.p n).testBit l = Rule.pRead s n l := by
  rw [State.p, Rule.pRead]
  split
  · exact testBit_allOnes hl
  · rfl

theorem testBit_pv {s : State} (n : PReg) (inv : Bool) {l : Nat} (hl : l < s.vl) :
    (s.pv n inv).testBit l = (Rule.pRead s n l != inv) := by
  cases inv with
  | false => simp [State.pv, testBit_p n hl]
  | true => simp [State.pv, testBit_p n hl, testBit_allOnes hl]

/-- A write of the lanes of the mask changes these lanes of pD below VL, and nothing else of the machine. -/
theorem writesP_setP {s : State} (d : PReg) {x : Nat} {f : Nat → Bool} (hf : ∀ l < s.vl, x.testBit l = f l) :
    Rule.WritesP s (s.setP d s.mask x) d (bitOf s.mask) f := by
  rw [State.setP]
  split
  next hd => exact ⟨fun l _ => by simp [hd], fun _ _ _ => rfl, fun _ => rfl, fun _ _ => rfl, rfl, rfl⟩
  next hd =>
    refine ⟨fun l hl => ?_, fun n hn l => ?_, fun h => absurd h hd, fun key hkey => ?_, ?_, modG_rest s _⟩
    · have hl64 := Nat.lt_of_lt_of_le hl (vl_le s)
      simp only [Rule.pNow, State.modR, cg_modG, Sparse.get_set, if_true, ne_eq, hd, not_false_eq_true, true_and]
      rw [BitVec.getLsbD_or, BitVec.getLsbD_and, BitVec.getLsbD_and, BitVec.getLsbD_not, BitVec.getLsbD_ofNat, BitVec.getLsbD_ofNat,
        Nat.testBit_and, testBit_allOnes hl, hf l hl, bitOf_eq_testBit]
      cases s.mask.testBit l <;> simp [hl64]
    · simp only [Rule.pNow, State.modR, cg_modG, Sparse.get_set, if_neg hn]
    · rw [State.modR, group_modG, if_neg hkey]
    · rw [State.modR, cg_modG]

/-- KMOVP's value bit by bit. -/
theorem getLsbD_kmovp (s : State) (a : PReg) {l : Nat} (hl : l < 64) :
    (BitVec.ofNat 64 (s.p a &&& s.mask &&& s.allOnes)).getLsbD l = (decide (l < s.vl) && bitOf s.mask l && Rule.pRead s a l) := by
  rw [BitVec.getLsbD_ofNat, decide_eq_true hl, Bool.true_and, Nat.testBit_and, Nat.testBit_and, bitOf_eq_testBit]
  by_cases hvl : l < s.vl
  · rw [testBit_p a hvl, testBit_allOnes hvl, decide_eq_true hvl, Bool.and_true, Bool.true_and, Bool.and_comm]
  · simp [State.allOnes, hvl]

/-- A decoding that reads a predicate field is refused for bits [5:4] of the field, or with the reason of what follows. -/
theorem p6_bind_error {α : Type} {n : Nat} {f : PReg → Dec α} (h : 16 ≤ n ∨ ∀ p, f p = .error 0x2007) :
    (p6 n >>= f) = .error 0x2007 := by
  by_cases hn : n < 16
  · rw [p6, if_pos hn]
    exact h.resolve_left (Nat.not_le.mpr hn) _
  · rw [p6, if_neg hn]
    rfl

theorem p6_two_error {α : Type} {d a : Nat} (g : PReg → PReg → α) (h : 16 ≤ d ∨ 16 ≤ a) :
    (do return g (← p6 d) (← p6 a) : Dec α) = .error 0x2007 :=
  p6_bind_error (h.imp_right fun h _ => p6_bind_error (.inl h))

theorem p6_three_error {α : Type} {d a b : Nat} (g : PReg → PReg → PReg → α) (h : 16 ≤ d ∨ 16 ≤ a ∨ 16 ≤ b) :
    (do return g (← p6 d) (← p6 a) (← p6 b) : Dec α) = .error 0x2007 :=
  p6_bind_error (h.imp_right fun h _ => p6_two_error _ h)

/-- A word of form KA with the operands d and a alone. -/
theorem decodeSlot_da (kd : CoreKind) {op d a : Nat} (hlo : 0x19 < op) (hop : op < 64) (hd : d < 64) (ha : a < 64) :
    decodeSlot kd 1 (op * 2 ^ 26 + d * 2 ^ 18 + a * 2 ^ 12) = decodeKA op 0 0 a d 0 :=
  decodeSlot_ka kd hlo hop (by decide) hd ha (by decide) (by decide) (by omega)

/-- Settles O8: a write of pD is known by the bits written in the lanes below VL, and a refused field refuses the word. -/
theorem predicateInstructions : Obligations.PredicateInstructions := by
  refine ⟨fun s d a b kd ka na nb => ⟨⟨_, rfl, writesP_setP d fun l hl => ?_⟩, ⟨_, rfl, writesP_setP d fun l hl => ?_⟩,
    ⟨_, rfl, writesP_setP d fun l hl => ?_⟩, ⟨_, rfl, writesP_setP d fun l hl => ?_⟩, ⟨_, rfl, writesP_setP d fun _ _ => rfl⟩,
    ⟨_, rfl, fun l hl => getLsbD_kmovp s a hl⟩, rfl, rfl, rfl, rfl, rfl, rfl⟩, fun kd op d a b x hd ha hb hx => ⟨?_, ?_, ?_, ?_⟩⟩
  · rw [Nat.testBit_and, testBit_pv a na hl, testBit_pv b nb hl]
  · rw [Nat.testBit_or, testBit_pv a na hl, testBit_pv b nb hl]
  · rw [Nat.testBit_xor, testBit_pv a na hl, testBit_pv b nb hl]
  · rw [testBit_pv a true hl, Bool.bne_true]
  · intro hop h
    rw [decodeSlot_ka kd (op := op) (f := 0) (b := b) (x := x) (by omega) (by omega) (by decide) hd ha hb (by omega) (by omega)]
    have hz : zero [x / 4, 0] = .ok () := by rw [Nat.div_eq_of_lt hx]; rfl
    rcases hop with rfl | rfl | rfl <;> rw [decodeKA, hz] <;> exact p6_three_error _ h
  · rintro rfl h
    rw [decodeSlot_da kd (by decide) (by decide) hd ha]
    exact p6_two_error _ h
  · rintro rfl h
    rw [decodeSlot_da kd (by decide) (by decide) hd ha]
    exact p6_bind_error (.inl h)
  · rintro rfl h
    rw [decodeSlot_da kd (by decide) (by decide) hd ha]
    exact p6_bind_error (.inl h)

-- ## Special registers (R184, R185)

theorem exec_krds (s : State) (d : KReg) (n : Fin 64) : exec (.krds d n) s = .next (s.setK d (s.special n)) := rfl

/-- Settles O9: the model lists the registers as the statement does, but for the lowest lane and the registers of one core kind. -/
theorem specialRegistersRead : Obligations.SpecialRegistersRead := by
  intro s d
  have hword (x : W64) : x = BitVec.ofNat 64 x.toNat := ((BitVec.ofNat_toNat 64 x).trans (BitVec.setWidth_eq x)).symm
  refine ⟨fun l hl hbit hbelow => exec_setK_of_eq (congrArg _ (lowLane_eq hl hbit hbelow)) (exec_krds s d 0x00), rfl, rfl, rfl, rfl,
    fun htile => ?_, fun hshading => ?_, rfl, rfl, rfl, rfl, rfl, exec_setK_of_eq (hword _) rfl, rfl, rfl, rfl, rfl, rfl, rfl,
    exec_setK_of_eq (hword _) rfl, exec_setK_of_eq (hword _) rfl, exec_setK_of_eq (hword _) rfl⟩
  · have hkind : (s.kind == .tensor) = true := beq_iff_eq.mpr htile
    exact ⟨exec_setK_of_eq (congrArg _ (if_pos hkind)) (exec_krds s d 0x05),
      exec_setK_of_eq (congrArg _ (if_pos hkind)) (exec_krds s d 0x06),
      exec_setK_of_eq (congrArg (fun k : CoreKind => BitVec.ofNat 64 k.vl) htile) (exec_krds s d 0x07),
      exec_setK_of_eq (congrArg _ (if_pos hkind)) (exec_krds s d 0x0C)⟩
  · have hkind : ¬(s.kind == .tensor) = true := fun h => hshading (beq_iff_eq.mp h)
    have hvl : s.kind = .shading := by
      cases hk : s.kind with
      | shading => rfl
      | tensor => exact absurd hk hshading
    exact ⟨exec_setK_of_eq (congrArg _ (if_neg hkind)) (exec_krds s d 0x05),
      exec_setK_of_eq (congrArg _ (if_neg hkind)) (exec_krds s d 0x06),
      exec_setK_of_eq (congrArg (fun k : CoreKind => BitVec.ofNat 64 k.vl) hvl) (exec_krds s d 0x07),
      exec_setK_of_eq (congrArg _ (if_neg hkind)) (exec_krds s d 0x0C)⟩

theorem iter_lfsrStep (n : Nat) (x : W32) : Rule.iter lfsrStep n x = lfsrSteps n x := by
  induction n generalizing x with
  | zero => rfl
  | succ n ih => exact ih (lfsrStep x)

/-- A lane's seed is 32 steps from the mix of seed base, gang index, group index and lane, with 1 in place of 0 (R92). -/
theorem seedLane_eq {b l : Nat} (G g : Nat) (hb : b < 2 ^ 64) (hl : l < 2 ^ 32) :
    let h := (b % 2 ^ 32) ^^^ (b / 2 ^ 32) ^^^ (G * 0x9E3779B9 % 2 ^ 32) ^^^ (g * 2 ^ 16 % 2 ^ 32) ^^^ l
    seedLane b G g l = Rule.iter lfsrStep 32 (if h = 0 then 1 else BitVec.ofNat 32 h) := by
  intro h
  have hhigh : fld b 32 32 = b / 2 ^ 32 := Nat.mod_eq_of_lt (by omega)
  have hlt : h < 2 ^ 32 := Nat.xor_lt_two_pow (Nat.xor_lt_two_pow (Nat.xor_lt_two_pow (Nat.xor_lt_two_pow (by omega) (by omega))
    (by omega)) (by omega)) hl
  have hzero : BitVec.ofNat 32 h = 0 ↔ h = 0 := by
    rw [← BitVec.toNat_inj, BitVec.toNat_ofNat, Nat.mod_eq_of_lt hlt]
    rfl
  rw [seedLane, fld_zero, hhigh, iter_lfsrStep]
  exact congrArg (lfsrSteps 32) (ite_congr (propext hzero) (fun _ => rfl) fun _ => rfl)

/-- A map that lists keys with the values of a function reads as the function. -/
theorem get_map_of_mem {α : Type} (z : α) (f : Nat → α) {ls : List Nat} {l : Nat} (hl : l ∈ ls) :
    Sparse.get z (ls.map fun l => (l, f l)) l = f l := by
  induction ls with
  | nil => exact absurd hl List.not_mem_nil
  | cons j r ih =>
    rw [List.map_cons, Sparse.get]
    split
    next hj => rw [hj]
    next hj => exact ih (List.mem_of_ne_of_mem (Ne.symm hj) hl)

theorem toNat_and_not_31 (x : W64) : (x &&& ~~~31#64).toNat = x.toNat / 32 * 32 := by
  rw [show ~~~31#64 = BitVec.allOnes 64 <<< 5 by decide, ← BitVec.shiftLeft_ushiftRight, BitVec.toNat_shiftLeft,
    BitVec.toNat_ushiftRight, Nat.shiftLeft_eq, Nat.shiftRight_eq_div_pow]
  omega

theorem exec_kwrs (s : State) (n : Fin 64) (b : KReg) : exec (.kwrs n b) s = .next (s.writeSpecial n (s.k b)) := rfl

theorem mem_of_specialWritable : ∀ n : Fin 64, specialWritable n = true →
    n ∈ ([0x0D, 0x0E, 0x10, 0x11, 0x21, 0x22, 0x23] : List (Fin 64)) := by decide

/-- Settles O10: what is left beside the model's list is the seed of each lane and the cleared bits [4:0]. -/
theorem specialRegistersWritten : Obligations.SpecialRegistersWritten := by
  refine ⟨fun s b => ⟨rfl, ⟨_, rfl, fun l hl => ?_⟩, ?_, ?_, rfl, rfl, rfl⟩,
    fun x => ⟨fun h => if_pos h, fun h => if_neg (Bool.eq_false_iff.mp h)⟩,
    fun kd m n b h => mem_of_specialWritable n (Bool.and_eq_true_iff.mp h).2⟩
  · have hl64 := Nat.lt_of_lt_of_le hl (vl_le s)
    rw [get_map_of_mem _ _ (List.mem_range.mpr hl)]
    exact seedLane_eq _ _ (s.k b).isLt (by omega)
  · rw [exec_kwrs, toNat_and_not_31]
    rfl
  · rw [exec_kwrs, toNat_and_not_31]
    rfl

-- ## One register (R25, R174)

/-- Each row of the table with a destination kD is one write of kD. -/
theorem exec_of_kDest {i : Instr} {d : KReg} (h : Rule.kDest i = some d) (s : State) :
    ∃ x, exec i s = .next (s.setK d x) := by
  unfold Rule.kDest at h
  split at h <;> cases h <;> exact ⟨_, rfl⟩

/-- Settles O11: every one of these instructions is one `setK`, which touches kD and its mark alone. -/
theorem scalarWritesOneRegister : Obligations.ScalarWritesOneRegister := by
  intro i d s t hd ht
  obtain ⟨x, hx⟩ := exec_of_kDest hd s
  obtain rfl : s.setK d x = t := by simpa [hx] using ht
  refine ⟨⟨x, rfl, ?_⟩, fun n hn => ?_, fun w => ?_, ?_, fun key hkey => ?_, fun pa => rfl, modG_rest s _⟩
  · rw [Rule.kNow, cg_setK, putK_k, if_pos rfl]
  · rw [Rule.kNow, cg_setK, putK_k, if_neg hn]
    rfl
  · simp [cg_setK, Group.putK]
  · rw [cg_setK]
    rfl
  · rw [State.setK, group_modG, if_neg hkey]

end Sys2Proof.Machine
end

section
/-!
PROOFS. Exact sums and products of values (R82, R240): a finite value is its signed mantissa times its quantum, at any quantum below
its exponent, so that sums and products of mantissas are those of the numbers.
-/
namespace Sys2Proof.Machine

theorem num_fin (neg : Bool) (m : Nat) (e : Int) : Rule.num (.fin neg m e) = some (signFactor neg * (m * 2 ^ e)) :=
  congrArg some (Rat.mul_assoc _ _ _)

/-- The number of a finite value is the signed mantissa at a lower exponent, times the power of two there. -/
theorem mantAt_mul_two_zpow (s : Bool) (m : Nat) {e q : Int} (hq : q ≤ e) :
    (Val.mantAt s m e q : Rat) * 2 ^ q = signFactor s * (m * 2 ^ e) := by
  obtain ⟨d, rfl⟩ := Int.le.dest hq
  have hd : (q + d - q).toNat = d := by omega
  have habs : ((m * 2 ^ d : Nat) : Rat) * 2 ^ q = m * 2 ^ (q + d) := by
    rw [two_zpow_add_natCast, Rat.natCast_mul, Rat.mul_assoc]
  rw [Val.mantAt, hd, ← habs]
  cases s with
  | false => rw [signFactor_false_mul]; rfl
  | true => rw [signFactor_true_mul, if_pos rfl, Rat.intCast_neg, Rat.neg_mul]; rfl

/-- An integer at a quantum, written as sign and magnitude, stands for its product with the quantum. -/
theorem num_of_int (x q : Int) : Rule.num (.fin (decide (x < 0)) x.natAbs q) = some ((x : Rat) * 2 ^ q) := by
  rw [num_fin]
  by_cases hx : x < 0
  · rw [decide_eq_true hx, signFactor_true_mul, ← Rat.neg_mul, ← Rat.intCast_natCast, ← Rat.intCast_neg,
      Int.ofNat_natAbs_of_nonpos (by omega), Int.neg_neg]
  · rw [decide_eq_false hx, signFactor_false_mul, ← Rat.intCast_natCast, Int.natAbs_of_nonneg (by omega)]

section
variable (rdn sa sb : Bool) (ma mb : Nat) (ea eb : Int)

/-- The integer that a sum of finite values has at the lower of their exponents. -/
def sumMant : Int := Val.mantAt sa ma ea (min ea eb) + Val.mantAt sb mb eb (min ea eb)

theorem add_fin : Val.add rdn (.fin sa ma ea) (.fin sb mb eb) =
    if sumMant sa sb ma mb ea eb = 0 then .fin (if ma = 0 ∧ mb = 0 ∧ sa = sb then sa else rdn) 0 (min ea eb)
    else .fin (decide (sumMant sa sb ma mb ea eb < 0)) (sumMant sa sb ma mb ea eb).natAbs (min ea eb) := rfl

theorem sumMant_mul_two_zpow : (sumMant sa sb ma mb ea eb : Rat) * 2 ^ min ea eb =
    signFactor sa * (ma * 2 ^ ea) + signFactor sb * (mb * 2 ^ eb) := by
  rw [sumMant, Rat.intCast_add, Rat.add_mul, mantAt_mul_two_zpow sa ma (Int.min_le_left ea eb),
    mantAt_mul_two_zpow sb mb (Int.min_le_right ea eb)]

theorem num_add : Rule.num (Val.add rdn (.fin sa ma ea) (.fin sb mb eb)) =
    some (signFactor sa * (ma * 2 ^ ea) + signFactor sb * (mb * 2 ^ eb)) := by
  rw [add_fin, ← sumMant_mul_two_zpow]
  split
  next hzero => rw [num_fin, hzero, Rat.intCast_zero, show ((0 : Nat) : Rat) = 0 from rfl, Rat.zero_mul, Rat.mul_zero]
  next => exact num_of_int _ _

theorem signFactor_bne_mul (x y : Rat) : signFactor (sa != sb) * (x * y) = signFactor sa * x * (signFactor sb * y) := by
  cases sa <;> cases sb <;>
    simp only [bne_self_eq_false, Bool.bne_false, Bool.bne_true, Bool.not_false, signFactor_false_mul, signFactor_true_mul] <;>
    grind

theorem num_mul : Rule.num (Val.mul (.fin sa ma ea) (.fin sb mb eb)) =
    some (signFactor sa * (ma * 2 ^ ea) * (signFactor sb * (mb * 2 ^ eb))) := by
  have hmag : ((ma * mb : Nat) : Rat) * 2 ^ (ea + eb) = ma * 2 ^ ea * (mb * 2 ^ eb) := by
    rw [Rat.natCast_mul, Rat.zpow_add (by decide)]
    grind
  rw [Val.mul, num_fin, hmag, signFactor_bne_mul]

/-- A sum is zero only when its integer is: it then is +0, −0 under RDN, and the common sign of two zeros (R82). -/
theorem add_eq_zero (h : signFactor sa * (ma * 2 ^ ea) + signFactor sb * (mb * 2 ^ eb) = (0 : Rat)) :
    Val.add rdn (.fin sa ma ea) (.fin sb mb eb) = .fin (if ma = 0 ∧ mb = 0 ∧ sa = sb then sa else rdn) 0 (min ea eb) := by
  rw [← sumMant_mul_two_zpow, Rat.mul_eq_zero, Rat.intCast_eq_zero_iff] at h
  rw [add_fin, if_pos (h.resolve_right (Rat.ne_of_gt (two_zpow_pos _)))]

end

/-- Settles O16: sums are taken on mantissas at one exponent, products on mantissas and exponents apart; the rest is the model's table
of infinities and NaNs. -/
theorem exactSumsAndProducts : Obligations.ExactSumsAndProducts := by
  intro rdn sa sb ma mb ea eb v a b
  refine ⟨fun x y hx hy => ?_, rfl, rfl, rfl, rfl, ?_, rfl, rfl, rfl, rfl, ?_⟩
  · obtain rfl : signFactor sa * (ma * 2 ^ ea) = x := Option.some_inj.mp ((num_fin sa ma ea).symm.trans hx)
    obtain rfl : signFactor sb * (mb * 2 ^ eb) = y := Option.some_inj.mp ((num_fin sb mb eb).symm.trans hy)
    exact ⟨num_add rdn sa sb ma mb ea eb, num_mul sa sb ma mb ea eb, fun h => ⟨_, add_eq_zero rdn sa sb ma mb ea eb h⟩, _, _, rfl⟩
  · cases v <;> rfl
  · cases v <;> rfl

end Sys2Proof.Machine
end

section
/-!
PROOFS. Integer elements of a lane (R79, R231, R235): what each element of a packed lane is, and the integer instructions on them.
-/
namespace Sys2Proof.Machine
open State

-- ## Elements of a packed lane

/-- Element j of a list packed with w bits for each. -/
theorem foldr_pack_div_mod (w : Nat) (l : List Nat) (j : Nat) :
    l.foldr (fun e a => e % 2 ^ w + 2 ^ w * a) 0 / 2 ^ (w * j) % 2 ^ w = l.getD j 0 % 2 ^ w := by
  have hpos := Nat.two_pow_pos w
  induction l generalizing j with
  | nil => simp
  | cons e r ih =>
    cases j with
    | zero => simp
    | succ j =>
      rw [List.foldr_cons, List.getD_cons_succ, ← ih, Nat.mul_succ, Nat.add_comm (w * j), Nat.pow_add, ← Nat.div_div_eq_div_mul,
        Nat.add_mul_div_left _ _ hpos, Nat.div_eq_of_lt (Nat.mod_lt e hpos), Nat.zero_add]

/-- An element inside a lane is not changed by cutting the number to 32 bits. -/
theorem mod_two_pow_div_mod {w j : Nat} (x : Nat) (hj : j < 32 / w) :
    x % 2 ^ 32 / 2 ^ (w * j) % 2 ^ w = x / 2 ^ (w * j) % 2 ^ w := by
  have hend : w * j + w ≤ 32 := by
    rw [← Nat.mul_succ, Nat.mul_comm]
    exact Nat.mul_le_of_le_div _ _ _ hj
  apply Nat.eq_of_testBit_eq
  intro i
  rw [Nat.testBit_mod_two_pow, Nat.testBit_mod_two_pow, Nat.testBit_div_two_pow, Nat.testBit_div_two_pow, Nat.testBit_mod_two_pow]
  by_cases hi : i < w
  · rw [decide_eq_true (by omega : i + w * j < 32), Bool.true_and]
  · rw [decide_eq_false hi, Bool.false_and, Bool.false_and]

/-- Element j of a lane packed from a function of the element's number. -/
theorem el_packLane {w j : Nat} (g : Nat → Nat) (hj : j < 32 / w) :
    Rule.el w (packLane w ((List.range (32 / w)).map g)) j = g j % 2 ^ w := by
  rw [Rule.el, packLane, BitVec.toNat_ofNat, mod_two_pow_div_mod _ hj, foldr_pack_div_mod]
  simp [hj]

section
variable {w j : Nat} (hj : j < 32 / w)
include hj

theorem el_mapElems (g : Nat → Nat) (a : W32) : Rule.el w (mapElems w g a) j = g (Rule.el w a j) % 2 ^ w := el_packLane _ hj

theorem el_zipElems (g : Nat → Nat → Nat) (a b : W32) :
    Rule.el w (zipElems w g a b) j = g (Rule.el w a j) (Rule.el w b j) % 2 ^ w := el_packLane _ hj

theorem el_zip3Elems (g : Nat → Nat → Nat → Nat) (a b c : W32) :
    Rule.el w (zip3Elems w g a b c) j = g (Rule.el w a j) (Rule.el w b j) (Rule.el w c j) % 2 ^ w := el_packLane _ hj

end

-- ## Elements as integers

theorem el_lt (w : Nat) (x : W32) (j : Nat) : Rule.el w x j < 2 ^ w := Nat.mod_lt _ (Nat.two_pow_pos w)

theorem elemInt_el (sg : Bool) (w : Nat) (x : W32) (j : Nat) : elemInt sg w (Rule.el w x j) = Rule.ei w sg x j := by
  cases sg with
  | false => rfl
  | true =>
    rw [elemInt, if_pos rfl, signedOf, Nat.mod_eq_of_lt (el_lt w x j), Rule.ei]
    simp only [true_and, ← Nat.not_lt, ite_not]

theorem signedOf_el (w : Nat) (x : W32) (j : Nat) : signedOf w (Rule.el w x j) = Rule.ei w true x j := elemInt_el true w x j

theorem natCast_wrapTo (w : Nat) (z : Int) : ((wrapTo w z : Nat) : Int) = z % 2 ^ w :=
  Int.toNat_of_nonneg (Int.emod_nonneg z (Int.ne_of_gt (Int.pow_pos (by decide))))

theorem wrapTo_mod (w : Nat) (z : Int) : wrapTo w z % 2 ^ w = wrapTo w z := by
  apply Int.natCast_inj.mp
  rw [Int.natCast_emod, natCast_wrapTo]
  push_cast
  exact Int.emod_emod _ _

theorem natCast_satOr (sat sg : Bool) (w : Nat) (z : Int) :
    ((satOr sat sg w z % 2 ^ w : Nat) : Int) = (if sat then Rule.clamp w sg z else z) % 2 ^ w := by
  rw [satOr, wrapTo_mod, natCast_wrapTo]
  rfl

theorem signed_eq (t : IntType) (u : Bool) : t.signed u = (decide (t ≠ .u32) && !u) := by cases t <;> rfl

-- ## The instructions, element by element

section
variable {t : IntType} {j : Nat} (hj : j < 32 / t.bits) (sat u : Bool) (a b d : W32)
include hj

theorem el_intOp2 (f : Int → Int → Int) :
    (Rule.el t.bits (intOp2 t sat u f a b) j : Int) =
      (if sat then Rule.clamp t.bits (t.signed u) (f (Rule.ei t.bits (t.signed u) a j) (Rule.ei t.bits (t.signed u) b j))
        else f (Rule.ei t.bits (t.signed u) a j) (Rule.ei t.bits (t.signed u) b j)) % 2 ^ t.bits := by
  rw [intOp2, el_zipElems hj, natCast_satOr, elemInt_el, elemInt_el]

theorem el_intMad :
    (Rule.el t.bits (intMad t sat u a b d) j : Int) =
      (if sat then Rule.clamp t.bits (t.signed u) (Rule.ei t.bits (t.signed u) a j * Rule.ei t.bits (t.signed u) b j +
          Rule.ei t.bits (t.signed u) d j)
        else Rule.ei t.bits (t.signed u) a j * Rule.ei t.bits (t.signed u) b j + Rule.ei t.bits (t.signed u) d j) % 2 ^ t.bits := by
  rw [intMad, el_zip3Elems hj, natCast_satOr, elemInt_el, elemInt_el, elemInt_el]

theorem el_intMulh :
    (Rule.el t.bits (intMulh t u a b) j : Int) =
      Rule.ei t.bits (t.signed u) a j * Rule.ei t.bits (t.signed u) b j / 2 ^ t.bits % 2 ^ t.bits := by
  rw [intMulh, el_zipElems hj, wrapTo_mod, natCast_wrapTo, elemInt_el, elemInt_el]

theorem el_shlLane : Rule.el t.bits (shlLane t a b) j = Rule.el t.bits a j * 2 ^ (Rule.el t.bits b j % t.bits) % 2 ^ t.bits := by
  rw [shlLane, el_zipElems hj, Nat.mod_mod]

theorem el_shrLane : Rule.el t.bits (shrLane t a b) j = Rule.el t.bits a j / 2 ^ (Rule.el t.bits b j % t.bits) := by
  rw [shrLane, el_zipElems hj, Nat.mod_eq_of_lt (Nat.lt_of_le_of_lt (Nat.div_le_self _ _) (el_lt _ _ _))]

theorem el_sarLane :
    (Rule.el t.bits (sarLane t a b) j : Int) = Rule.ei t.bits true a j / 2 ^ (Rule.el t.bits b j % t.bits) % 2 ^ t.bits := by
  rw [sarLane, el_zipElems hj, wrapTo_mod, natCast_wrapTo, signedOf_el]

end

theorem el_intOp1 {t : SIntType} {j : Nat} (hj : j < 32 / t.bits) (sat : Bool) (f : Int → Int) (a : W32) :
    (Rule.el t.bits (intOp1 t sat f a) j : Int) =
      (if sat then Rule.clamp t.bits true (f (Rule.ei t.bits true a j)) else f (Rule.ei t.bits true a j)) % 2 ^ t.bits := by
  rw [intOp1, el_mapElems hj, natCast_satOr, signedOf_el]

-- ## Words of form VA

/-- A word of form VA is read by its fields (R231). -/
theorem decodeSlot_encVA (kd : CoreKind) {op t m p d a b : Nat} (hop : op < 64) (hform : op ≠ 0 ∧ op ≠ 0x19 ∧ op ≠ 0x30)
    (ht : t < 8) (hm : m < 4) (hp : p < 4) (hd : d < 64) (ha : a < 64) (hb : b < 128) :
    decodeSlot kd 2 (encVA op t m p d a b) = decodeVA kd 2 op b a d p m t := by
  have hword : encVA op t m p d a b =
      b + 2 ^ 7 * (a + 2 ^ 6 * (d + 2 ^ 6 * (p + 2 ^ 2 * (m + 2 ^ 2 * (t + 2 ^ 3 * op))))) := by simp [encVA, pack]
  generalize encVA op t m p d a b = w at hword
  have hread : w / 2 ^ 26 % 64 = op := by omega
  have hfields : unpack wVA w = [b, a, d, p, m, t, op] := by
    simp only [unpack, wVA, List.cons.injEq, and_true]
    omega
  obtain ⟨h0, h19, h30⟩ := hform
  have hmap : decodeSlot kd 2 w = decodeVec kd 2 w := by cases kd <;> rfl
  rw [hmap, decodeVec, hread, if_neg h0, if_neg (not_or.mpr ⟨h19, h30⟩), hfields]

theorem ofCode_code (b : VK) : VK.ofCode b.code = b := by
  cases b with
  | v n => simp [VK.ofCode, VK.code, v6]
  | k n =>
    rw [VK.code, VK.ofCode, if_neg (by omega), k6]
    exact congrArg VK.k (Fin.ext (by simp))

theorem code_lt (b : VK) : b.code < 128 := by
  cases b with
  | v n => exact Nat.lt_trans n.isLt (by decide)
  | k n => simp only [VK.code]; omega

/-- A word with U = 1 and U32 gives back the instruction that its opcode names. -/
theorem decodeSlot_encInt_u32 (kd : CoreKind) {op : Nat} (sat : Bool) (p : LPred) (d a : VReg) (b : VK)
    (i : LPred → VReg → VReg → VK → Instr) (hop : op < 64) (hform : op ≠ 0 ∧ op ≠ 0x19 ∧ op ≠ 0x30)
    (hread : decodeVA kd 2 op b.code a d p (bit sat + 2 * bit true) 1 = .ok (i (p2 p) (v6 d) (v6 a) (.ofCode b.code))) :
    decodeSlot kd 2 (encInt op .u32 sat true p d a b) = .ok (i p d a b) := by
  have hm : bit sat + 2 * bit true < 4 := by cases sat <;> decide
  rw [encInt, decodeSlot_encVA kd hop hform (by decide) hm p.isLt d.isLt a.isLt (code_lt b)]
  refine hread.trans ?_
  rw [p2, v6, v6, Fin.ofNat_val_eq_self, Fin.ofNat_val_eq_self, Fin.ofNat_val_eq_self, ofCode_code]

/-- Settles O12: each instruction writes the active lanes, and each element of a lane is the wrapped or clamped integer. -/
theorem vectorIntegerElements : Obligations.VectorIntegerElements := by
  intro s t t' sat u p d a b
  rw [← signed_eq t u]
  refine ⟨vecOp_of_vset _ rfl fun l _ j hj => el_intOp2 hj sat u _ _ _, vecOp_of_vset _ rfl fun l _ j hj => el_intOp2 hj sat u _ _ _,
    vecOp_of_vset _ rfl fun l _ j hj => el_intOp2 hj sat u _ _ _, vecOp_of_vset _ rfl fun l _ j hj => el_intMad hj sat u _ _ _,
    vecOp_of_vset _ rfl fun l _ j hj => el_intOp1 hj sat _ _, vecOp_of_vset _ rfl fun l _ j hj => el_intOp1 hj sat _ _,
    vecOp_of_vset _ rfl fun l _ j hj => el_intMulh hj u _ _, vecOp_of_vset _ rfl fun l _ j hj => el_intOp2 hj false u _ _ _,
    vecOp_of_vset _ rfl fun l _ j hj => el_intOp2 hj false u _ _ _,
    vecOp_of_vset _ rfl fun l _ j hj => Int.natCast_inj.mpr (el_shlLane hj _ _),
    vecOp_of_vset _ rfl fun l _ j hj => Int.natCast_inj.mpr (el_shrLane hj _ _),
    vecOp_of_vset _ rfl fun l _ j hj => el_sarLane hj _ _, fun kd i hi => ?_⟩
  simp only [List.mem_cons, List.not_mem_nil, or_false] at hi
  rcases hi with rfl | rfl | rfl | rfl | rfl | rfl | rfl
  · exact ⟨_, rfl, decodeSlot_encInt_u32 kd sat p d a b (.vadd .u32 sat true) (by decide) (by decide) (by cases sat <;> rfl)⟩
  · exact ⟨_, rfl, decodeSlot_encInt_u32 kd sat p d a b (.vsub .u32 sat true) (by decide) (by decide) (by cases sat <;> rfl)⟩
  · exact ⟨_, rfl, decodeSlot_encInt_u32 kd sat p d a b (.vmul .u32 sat true) (by decide) (by decide) (by cases sat <;> rfl)⟩
  · exact ⟨_, rfl, decodeSlot_encInt_u32 kd sat p d a b (.vmad .u32 sat true) (by decide) (by decide) (by cases sat <;> rfl)⟩
  · exact ⟨_, rfl, decodeSlot_encInt_u32 kd false p d a b (.vmulh .u32 true) (by decide) (by decide) rfl⟩
  · exact ⟨_, rfl, decodeSlot_encInt_u32 kd false p d a b (.vmin .u32 true) (by decide) (by decide) rfl⟩
  · exact ⟨_, rfl, decodeSlot_encInt_u32 kd false p d a b (.vmax .u32 true) (by decide) (by decide) rfl⟩

end Sys2Proof.Machine
end

section
/-!
PROOFS. Logic, bit fields and counts of the vector engine (R236), bit by bit.
-/
namespace Sys2Proof.Machine
open State

-- ## Bits of an element and of a field

theorem testBit_fld (x lo n i : Nat) : (fld x lo n).testBit i = (decide (i < n) && x.testBit (lo + i)) := by
  rw [fld, Nat.testBit_mod_two_pow, Nat.testBit_div_two_pow, Nat.add_comm]

theorem testBit_el {w i : Nat} (hi : i < w) (x : W32) (j : Nat) : (Rule.el w x j).testBit i = x.getLsbD (w * j + i) := by
  refine (testBit_fld x.toNat (w * j) w i).trans ?_
  rw [decide_eq_true hi, Bool.true_and]
  rfl

/-- The signed value of the low n bits is that of the word of n bits. -/
theorem signedOf_eq_toInt (n x : Nat) : signedOf n x = (BitVec.ofNat n x).toInt := by
  have hhalf : 2 * (x % 2 ^ n) < 2 ^ n ↔ x % 2 ^ n < 2 ^ (n - 1) := by
    cases n with
    | zero => simp [Nat.mod_one]
    | succ n => rw [Nat.add_sub_cancel, Nat.pow_succ']; omega
  rw [BitVec.toInt_eq_toNat_cond, BitVec.toNat_ofNat, signedOf]
  simp only [hhalf]
  push_cast
  rfl

/-- Sign extension of R4 is that of words. -/
theorem ofNat_sext (n m x : Nat) : BitVec.ofNat m (sext n m x) = (BitVec.ofNat n x).signExtend m := by
  apply BitVec.eq_of_toNat_eq
  rw [BitVec.toNat_ofNat, sext, wrapTo_mod, signedOf_eq_toInt, BitVec.signExtend, BitVec.toNat_ofInt]
  push_cast
  rfl

-- ## Bit fields

theorem bfPos_eq (b : W32) : bfPos b = b.toNat % 32 := fld_zero b.toNat 5

theorem bfLen_eq (b : W32) : bfLen b = min (b.toNat / 2 ^ 8 % 64) (32 - b.toNat % 32) := by rw [bfLen, bfPos_eq]; rfl

/-- VBFE's value: the field at its place 0, and above it zeros or the field's top bit. -/
theorem getLsbD_vbfeLane (e : Bool) (a b : W32) {i : Nat} (hi : i < 32) :
    (vbfeLane e a b).getLsbD i =
      if i < bfLen b then a.getLsbD (bfPos b + i) else e && decide (0 < bfLen b) && a.getLsbD (bfPos b + bfLen b - 1) := by
  have hfield (k : Nat) (hk : k < bfLen b) : (fld a.toNat (bfPos b) (bfLen b)).testBit k = a.getLsbD (bfPos b + k) := by
    rw [testBit_fld, decide_eq_true hk, Bool.true_and]
    rfl
  rw [vbfeLane]
  by_cases hsx : (e && bfLen b != 0) = true
  · obtain ⟨rfl, hne⟩ : e = true ∧ bfLen b ≠ 0 := by simpa using hsx
    have hlen := Nat.pos_of_ne_zero hne
    simp only [if_pos hsx]
    rw [ofNat_sext, BitVec.getLsbD_signExtend, decide_eq_true hi, Bool.true_and]
    refine ite_congr rfl (fun h => ?_) fun _ => ?_
    · rw [BitVec.getLsbD_ofNat, decide_eq_true h, Bool.true_and, hfield i h]
    · rw [BitVec.msb_eq_getLsbD_last, BitVec.getLsbD_ofNat, hfield _ (by omega), decide_eq_true hlen,
        decide_eq_true (by omega : bfLen b - 1 < bfLen b), Nat.add_sub_assoc hlen]
      rfl
  · have hoff : (e && decide (0 < bfLen b)) = false := by
      rw [← Bool.not_eq_true]
      exact fun h => hsx (by simpa [Nat.pos_iff_ne_zero] using h)
    simp only [if_neg hsx, hoff, Bool.false_and]
    rw [BitVec.getLsbD_ofNat, decide_eq_true hi, Bool.true_and]
    split
    next h => exact hfield i h
    next h => rw [testBit_fld, decide_eq_false h, Bool.false_and]

/-- VBFI's value: the low bits of a in the field, and d outside it. -/
theorem getLsbD_vbfiLane (d a b : W32) {i : Nat} (hi : i < 32) :
    (vbfiLane d a b).getLsbD i =
      if bfPos b ≤ i ∧ i < bfPos b + bfLen b then a.getLsbD (i - bfPos b) else d.getLsbD i := by
  have hmask : ((BitVec.ofNat 32 (2 ^ bfLen b - 1)) <<< bfPos b).getLsbD i = decide (bfPos b ≤ i ∧ i < bfPos b + bfLen b) := by
    simp only [BitVec.getLsbD_shiftLeft, BitVec.getLsbD_ofNat, Nat.testBit_two_pow_sub_one]
    grind
  rw [vbfiLane, BitVec.getLsbD_or, BitVec.getLsbD_and, BitVec.getLsbD_not, BitVec.getLsbD_and, hmask, BitVec.getLsbD_shiftLeft]
  split
  next h => simp [h, hi, Nat.not_lt.mpr h.1]
  next h => simp [h, hi]

-- ## Counts

theorem lt_two_pow_of_le {n w : Nat} (h : n ≤ w) : n < 2 ^ w := Nat.lt_of_le_of_lt h Nat.lt_two_pow_self

theorem popCount_le (n x : Nat) : popCount n x ≤ n := by
  have h := List.length_filter_le (bitOf x) (List.range n)
  rwa [List.length_range] at h

theorem popCount_el (w : Nat) (a : W32) (j : Nat) :
    popCount w (Rule.el w a j) = ((List.range w).map fun i => bit (a.getLsbD (w * j + i))).sum := by
  rw [popCount, bitsOf, length_filter_eq_sum]
  refine congrArg List.sum (List.map_congr_left fun i hi => ?_)
  rw [bitOf_eq_testBit, testBit_el (List.mem_range.mp hi)]

/-- Settles O13: logic and fields bit by bit, and the counts of each element. -/
theorem vectorLogicAndBits : Obligations.VectorLogicAndBits := by
  intro s t e p d a b
  refine ⟨vecOp_of_vset _ rfl fun l _ i _ => BitVec.getLsbD_and, vecOp_of_vset _ rfl fun l _ i _ => BitVec.getLsbD_or,
    vecOp_of_vset _ rfl fun l _ i _ => BitVec.getLsbD_xor, vecOp_of_vset _ rfl fun l _ i hi => ?_,
    vecOp_of_vset _ rfl fun l _ i hi => ?_, vecOp_of_vset _ rfl fun l _ i hi => ?_, vecOp_of_vset _ rfl fun l _ j hj => ?_,
    vecOp_of_vset _ rfl fun l _ j hj => ?_⟩
  · rw [BitVec.getLsbD_not, decide_eq_true hi, Bool.true_and]
  · rw [getLsbD_vbfeLane e _ _ hi, bfLen_eq, bfPos_eq]
  · rw [getLsbD_vbfiLane _ _ _ hi, bfLen_eq, bfPos_eq]
  · rw [el_mapElems hj, Nat.mod_eq_of_lt (lt_two_pow_of_le (popCount_le _ _)), popCount_el]
  · obtain ⟨hle, hzeros, hone⟩ := leadZeros_spec t.bits (Rule.el t.bits (s.v a l) j)
    rw [el_mapElems hj, Nat.mod_eq_of_lt (lt_two_pow_of_le hle)]
    refine ⟨hle, fun i hlo hi => ?_, fun hlt => ?_⟩
    · rw [← testBit_el hi]
      exact hzeros i hlo hi
    · rw [← testBit_el (by omega)]
      exact hone hlt

end Sys2Proof.Machine
end

section
/-!
PROOFS. Compares, selects and moves of the vector engine (R237 to R239): a compare writes the active lanes of pD bit by bit.
-/
namespace Sys2Proof.Machine
open State

-- ## A mask built bit by bit

theorem setBit_succ (m i : Nat) (b : Bool) : setBit m (i + 1) b = m % 2 + 2 * setBit (m / 2) i b := by
  have hbit : bitOf m (i + 1) = bitOf (m / 2) i := by rw [bitOf_eq_testBit, bitOf_eq_testBit, Nat.testBit_succ]
  have hpow : 2 ^ (i + 1) = 2 * 2 ^ i := Nat.pow_succ'
  have hle : bitOf (m / 2) i = true → 2 ^ i ≤ m / 2 := fun h => Nat.ge_two_pow_of_testBit ((bitOf_eq_testBit _ _).symm.trans h)
  rw [setBit, setBit, hbit, hpow]
  split
  next h =>
    have hle := hle h
    split <;> omega
  next => split <;> omega

theorem setBit_zero (m : Nat) (b : Bool) : setBit m 0 b = bit b + 2 * (m / 2) := by
  have hbit : bitOf m 0 = decide (m % 2 = 1) := by rw [bitOf_eq_testBit, Nat.testBit_zero]
  rw [setBit, hbit, bit]
  simp only [decide_eq_true_iff]
  split <;> split <;> omega

theorem testBit_setBit (m i : Nat) (b : Bool) (j : Nat) : (setBit m i b).testBit j = if j = i then b else m.testBit j := by
  induction i generalizing m j with
  | zero =>
    rw [setBit_zero]
    cases j with
    | zero => cases b <;> simp [bit, Nat.testBit_zero]
    | succ j =>
      have hhalf : (bit b + 2 * (m / 2)) / 2 = m / 2 := by rw [bit]; split <;> omega
      rw [Nat.testBit_succ, Nat.testBit_succ, hhalf, if_neg (Nat.succ_ne_zero j)]
  | succ i ih =>
    rw [setBit_succ]
    cases j with
    | zero => simp [Nat.testBit_zero]
    | succ j =>
      have hhalf : (m % 2 + 2 * setBit (m / 2) i b) / 2 = setBit (m / 2) i b := by omega
      rw [Nat.testBit_succ, Nat.testBit_succ, hhalf, ih]
      simp

theorem testBit_foldl_setBit (g : Nat → Bool) (ls : List Nat) (m j : Nat) :
    (ls.foldl (fun m l => setBit m l (g l)) m).testBit j = if j ∈ ls then g j else m.testBit j := by
  induction ls generalizing m with
  | nil => simp
  | cons l r ih =>
    rw [List.foldl_cons, ih, testBit_setBit]
    by_cases hr : j ∈ r
    · simp [hr]
    · by_cases hl : j = l <;> simp [hr, hl]

-- ## Writes of the active lanes of a predicate

/-- The lanes of the split's mask below VL whose predicate bit is 1, as a word. -/
def activeWord (s : State) (p : LPred) : W64 := BitVec.ofNat 64 (s.active p &&& s.allOnes)

theorem getLsbD_activeWord (s : State) (p : LPred) {l : Nat} (hl : l < s.vl) :
    (activeWord s p).getLsbD l = Rule.isActive s p l := by
  rw [activeWord, BitVec.getLsbD_ofNat, decide_eq_true (Nat.lt_of_lt_of_le hl (vl_le s)), Bool.true_and, Nat.testBit_and,
    testBit_allOnes hl, Bool.and_true, ← bitOf_eq_testBit, bitOf_active s p hl]

/-- pD with the lanes of `m` taken from `x`. -/
def mergeLanes (old m x : W64) : W64 := (old &&& ~~~m) ||| (x &&& m)

theorem getLsbD_mergeLanes (old m x : W64) {l : Nat} (hl : l < 64) :
    (mergeLanes old m x).getLsbD l = if m.getLsbD l then x.getLsbD l else old.getLsbD l := by
  rw [mergeLanes, BitVec.getLsbD_or, BitVec.getLsbD_and, BitVec.getLsbD_and, BitVec.getLsbD_not, decide_eq_true hl]
  cases m.getLsbD l <;> simp

/-- A merge under a smaller mask stands when it is merged again under a larger one. -/
theorem mergeLanes_mergeLanes {old m n x : W64} (hmn : ∀ l < 64, m.getLsbD l = true → n.getLsbD l = true) :
    mergeLanes old n (mergeLanes old m x) = mergeLanes old m x := by
  refine BitVec.eq_of_getLsbD_eq fun l hl => ?_
  rw [getLsbD_mergeLanes _ _ _ hl, getLsbD_mergeLanes _ _ _ hl]
  cases hm : m.getLsbD l with
  | false => simp
  | true => rw [hmn l hl hm, if_pos rfl]

/-- A write of the active lanes is one of the lanes of the mask, the others with the values they have. -/
theorem setP_active (s : State) (p : LPred) (d : PReg) (x : Nat) :
    s.setP d (s.active p) x =
      s.setP d s.mask (mergeLanes (Sparse.get 0 s.cg.r.p d) (activeWord s p) (BitVec.ofNat 64 x)).toNat := by
  have hmask : ∀ l < 64, (activeWord s p).getLsbD l = true → (BitVec.ofNat 64 (s.mask &&& s.allOnes)).getLsbD l = true := by
    intro l hl h
    simp only [activeWord, State.active, BitVec.getLsbD_ofNat, Nat.testBit_and, Bool.and_eq_true] at h ⊢
    exact ⟨h.1, h.2.1.1, h.2.2⟩
  have hmerge := mergeLanes_mergeLanes (old := Sparse.get 0 s.cg.r.p d) (x := BitVec.ofNat 64 x) hmask
  rw [State.setP, State.setP]
  split
  · rfl
  · simp only [State.modR, State.modG, BitVec.ofNat_toNat, BitVec.setWidth_eq]
    change _ = s.setCg { s.cg with r := { s.cg.r with p := Sparse.set 0 s.cg.r.p d (mergeLanes _ _ _) } }
    rw [hmerge]
    rfl

/-- A write of the active lanes of pD changes these lanes, and nothing else of the machine. -/
theorem writesP_pset (s : State) (p : LPred) (d : PReg) (g : Nat → Bool) :
    Rule.WritesP s (s.pset p d g) d (Rule.isActive s p) g := by
  have hset : s.pset p d g = s.setP d s.mask _ := setP_active s p d _
  have hbits (l : Nat) (hl : l < s.vl) :
      (mergeLanes (Sparse.get 0 s.cg.r.p d) (activeWord s p)
        (BitVec.ofNat 64 ((s.lanes p).foldl (fun m l => setBit m l (g l)) 0))).toNat.testBit l =
      if Rule.isActive s p l then g l else (Sparse.get 0 s.cg.r.p d).getLsbD l := by
    have hl64 := Nat.lt_of_lt_of_le hl (vl_le s)
    refine (getLsbD_mergeLanes _ _ _ hl64).trans ?_
    rw [getLsbD_activeWord s p hl]
    refine ite_congr rfl (fun h => ?_) fun _ => rfl
    rw [BitVec.getLsbD_ofNat, decide_eq_true hl64, Bool.true_and, testBit_foldl_setBit,
      if_pos ((isActive_iff_mem_lanes s p l).mp h)]
  obtain ⟨hlane, hframe⟩ := writesP_setP d hbits
  rw [hset]
  refine ⟨fun l hl => (hlane l hl).trans ?_, hframe⟩
  have hact : Rule.isActive s p l = true → bitOf s.mask l = true := fun h => by
    simp only [Rule.isActive, Bool.and_eq_true] at h
    exact h.1.2
  by_cases hd : (d : Nat) = 0
  · simp [hd]
  · simp only [Rule.pNow, hd, ne_eq, not_false_eq_true, true_and, if_false]
    by_cases h : Rule.isActive s p l = true
    · simp [h, hact h]
    · simp [h]

/-- A compare is known by the condition it writes. -/
theorem compare_of_pset {i : Instr} {s : State} {p : LPred} {d : PReg} {f g : Nat → Bool}
    (hexec : exec i s = .next (s.pset p d g)) (hg : ∀ l, g l = f l) :
    ∃ t, exec i s = .next t ∧ Rule.WritesP s t d (Rule.isActive s p) f :=
  ⟨_, hexec, funext hg ▸ writesP_pset s p d g⟩

-- ## Conditions

theorem el_32 (x : W32) : Rule.el 32 x 0 = x.toNat := by
  rw [Rule.el, Nat.mul_zero, Nat.pow_zero, Nat.div_one, Nat.mod_eq_of_lt x.isLt]

theorem ei_32 (u : Bool) (x : W32) : Rule.ei 32 (!u) x 0 = if u then (x.toNat : Int) else x.toInt := by
  cases u with
  | true => rw [← el_32]; rfl
  | false =>
    rw [Bool.not_false, ← signedOf_el, signedOf_eq_toInt, el_32, BitVec.ofNat_toNat, BitVec.setWidth_eq]
    rfl

section
variable (u : Bool) (a b : W32)

theorem icond_eq : icond .eq u a b = decide (Rule.ei 32 (!u) a 0 = Rule.ei 32 (!u) b 0) := by
  rw [ei_32, ei_32, icond, Bool.beq_eq_decide_eq]
  cases u with
  | true => exact decide_eq_decide.mpr (BitVec.toNat_inj.symm.trans Int.natCast_inj.symm)
  | false => exact decide_eq_decide.mpr BitVec.toInt_inj.symm

theorem icond_lt : icond .lt u a b = decide (Rule.ei 32 (!u) a 0 < Rule.ei 32 (!u) b 0) := by
  rw [ei_32, ei_32, icond]
  cases u with
  | true => exact decide_eq_decide.mpr Int.ofNat_lt.symm
  | false => rfl

theorem icond_ne : icond .ne u a b = decide (Rule.ei 32 (!u) a 0 ≠ Rule.ei 32 (!u) b 0) := by
  rw [decide_not, ← icond_eq]
  rfl

/-- `x ≤ y` is the model's `y < x` denied. -/
theorem not_icond_lt : (!icond .lt u b a) = decide (Rule.ei 32 (!u) a 0 ≤ Rule.ei 32 (!u) b 0) := by
  rw [icond_lt, ← decide_not]
  exact decide_eq_decide.mpr Int.not_lt

end

theorem lt_nan_right (z : Bool) (x : Val) : Val.lt z x .nan = false := by cases x <;> rfl

/-- No order holds of a NaN. -/
theorem ordered_and_lt (x y : Val) :
    (!(decide (x = .nan) || decide (y = .nan)) && Val.lt false x y) = Val.lt false x y := by
  by_cases hx : x = .nan
  · rw [hx]; rfl
  · by_cases hy : y = .nan
    · rw [hy, lt_nan_right, Bool.and_false]
    · simp [hx, hy]

theorem fcond_lt (a b : Nat) : fcond .lt a b =
    (!(decide (f32.decode a = .nan) || decide (f32.decode b = .nan)) && Val.lt false (f32.decode a) (f32.decode b)) :=
  (ordered_and_lt _ _).symm

theorem fcond_gt (a b : Nat) : fcond .gt a b =
    (!(decide (f32.decode a = .nan) || decide (f32.decode b = .nan)) && Val.lt false (f32.decode b) (f32.decode a)) := by
  rw [Bool.or_comm]
  exact (ordered_and_lt _ _).symm

-- ## Lanes written

/-- Only the values of the lanes that are written matter. -/
theorem writesV_congr {s t : State} {d : Nat} {w : Nat → Bool} {f g : Nat → W32} (h : Rule.WritesV s t d w f)
    (hfg : ∀ l, w l = true → f l = g l) : Rule.WritesV s t d w g := by
  obtain ⟨hlane, hframe⟩ := h
  refine ⟨fun l hl => (hlane l hl).trans ?_, hframe⟩
  split
  next hw => exact hfg l hw
  next => rfl

theorem inMask_iff_mem_maskLanes (s : State) (l : Nat) : Rule.inMask s l = true ↔ l ∈ s.maskLanes := by
  rw [Rule.inMask, State.maskLanes, bitsOf, List.mem_filter, List.mem_range, Bool.and_eq_true, decide_eq_true_iff]

theorem lt_of_mem_maskLanes {s : State} {l : Nat} (h : l ∈ s.maskLanes) : l < s.vl :=
  List.mem_range.mp (List.mem_filter.mp h).1

/-- A write of the lanes of the split's mask. -/
theorem writesV_maskLanes (s s' : State) (d : Nat) (f : Nat → W32) :
    Rule.WritesV s' (s'.setLanes d s.maskLanes f) d (Rule.inMask s) f :=
  writesV_setLanes s' d (inMask_iff_mem_maskLanes s) (fun _ hl => Nat.lt_of_lt_of_le (lt_of_mem_maskLanes hl) (vl_le s)) f

theorem toNat_zeroExtend_shiftLeft (i : BitVec 13) {n : Nat} (hn : n ≤ 19) :
    ((i.zeroExtend 32) <<< n).toNat = i.toNat * 2 ^ n := by
  have hlt : i.toNat * 2 ^ n < 2 ^ 32 :=
    Nat.lt_of_lt_of_le (Nat.mul_lt_mul_of_pos_right i.isLt (Nat.two_pow_pos n)) (by
      rw [← Nat.pow_add]
      exact Nat.pow_le_pow_right Nat.two_pos (by omega))
  rw [BitVec.toNat_shiftLeft, BitVec.toNat_setWidth, Nat.shiftLeft_eq,
    Nat.mod_eq_of_lt (Nat.lt_trans i.isLt (by decide) : i.toNat < 2 ^ 32), Nat.mod_eq_of_lt hlt]

theorem toNat_moviVal_t16 (i : BitVec 13) : (moviVal .t16 i).toNat = i.toNat * 2 ^ 19 + i.toNat * 2 ^ 3 := by
  have hlow : i.toNat * 2 ^ 3 < 2 ^ 19 := by omega
  rw [moviVal, BitVec.toNat_or, toNat_zeroExtend_shiftLeft i (by decide), toNat_zeroExtend_shiftLeft i (by decide),
    ← Nat.shiftLeft_eq i.toNat 19, Nat.shiftLeft_add_eq_or_of_lt hlow]

/-- Settles O14: a compare writes its condition to the active lanes of pD, the others write lanes of vD. -/
theorem vectorCompareSelectMove : Obligations.VectorCompareSelectMove := by
  intro s u hi p pd d a b acc i
  refine ⟨compare_of_pset rfl fun l => icond_eq u _ _, compare_of_pset rfl fun l => icond_ne u _ _,
    compare_of_pset rfl fun l => icond_lt u _ _, compare_of_pset rfl fun l => not_icond_lt u _ _,
    compare_of_pset rfl fun l => icond_lt u _ _, compare_of_pset rfl fun l => not_icond_lt u _ _,
    ⟨compare_of_pset rfl fun _ => rfl, compare_of_pset rfl fun _ => rfl, compare_of_pset rfl fun _ => fcond_lt _ _,
      compare_of_pset rfl fun _ => rfl, compare_of_pset rfl fun _ => fcond_gt _ _, compare_of_pset rfl fun _ => rfl,
      compare_of_pset rfl fun _ => rfl, compare_of_pset rfl fun _ => rfl⟩,
    ⟨_, rfl, writesV_congr (writesV_maskLanes s s d _) fun l hl => ?_⟩, vecOp_of_vset _ rfl fun _ _ => rfl,
    vecOp_of_vset _ rfl fun l _ => ?_, vecOp_of_vset _ rfl fun _ _ => rfl,
    vecOp_of_vset _ rfl fun _ _ => toNat_zeroExtend_shiftLeft i (by decide), vecOp_of_vset _ rfl fun _ _ => toNat_moviVal_t16 i⟩
  · rw [bitOf_p s p (lt_of_mem_maskLanes ((inMask_iff_mem_maskLanes s l).mp hl))]
  · rw [State.acc, Nat.add_assoc]
    rfl

end Sys2Proof.Machine
end

section
/-!
PROOFS. VBALLOT (R254) in a state whose masks hold a bit at or above VL, where the model's word and the lanes of the group differ.
-/
namespace Sys2Proof.Machine
open State

-- ## A bit above VL

/-- A group of a shading core, VL 32, whose split's mask and p1 both hold the bits 0 and 32. -/
def highBitGroup : Group :=
  { Group.zero with r := { Regs.zero with p := [(1, 0x100000001#64)] }, splits := [(0, { Split.zero with mask := 0x100000001 })] }

/-- The state in which this group issues. -/
def highBitState : State := { State.reset with groups := [(0, highBitGroup)], cur := State.idleCur }

theorem isActive_highBitState : Rule.isActive highBitState 1 0 = true := by decide

theorem ballot_highBitState : fld (highBitState.p 1 &&& highBitState.active 1) 32 32 = 1 := by decide

/-- Refutes O21: VBALLOT.hi writes the bits 63 to 32 of the active mask as the state holds it, so that in `highBitState` it writes 1
though the group has no lane 32: the statement's list of active lanes ends at VL. -/
theorem not_vectorCrossLaneMoves : ¬ Obligations.VectorCrossLaneMoves := by
  intro h
  obtain ⟨-, -, -, -, -, -, -, hballot, -⟩ := h highBitState 1 0 0 0 0 (.v 0) 0 1 0
  obtain ⟨t, f, hexec, ⟨hlane, -⟩, hword⟩ := hballot
  have ht : highBitState.vset 1 0 (fun _ => BitVec.ofNat 32 (fld (highBitState.p 1 &&& highBitState.active 1) 32 32)) = t :=
    Host.Outcome.next.inj hexec
  obtain ⟨hmodel, -⟩ := writesV_setLanes highBitState 0 (isActive_iff_mem_lanes highBitState 1)
    (fun l hl => Nat.lt_of_lt_of_le (List.mem_range.mp (List.mem_filter.mp hl).1) (vl_le highBitState))
    (fun _ => BitVec.ofNat 32 (fld (highBitState.p 1 &&& highBitState.active 1) 32 32))
  have hwritten : f 0 = 1 := by
    have hf := hlane 0 (by decide)
    have hm := hmodel 0 (by decide)
    rw [if_pos isActive_highBitState] at hf hm
    rw [← hf, ← ht]
    exact hm.trans (congrArg _ ballot_highBitState)
  have hbit := hword 0 isActive_highBitState 0 (by decide)
  rw [hwritten] at hbit
  have hmem : 32 + 0 ∈ List.range highBitState.vl :=
    (List.mem_filter.mp (List.mem_filter.mp (of_decide_eq_true hbit.symm)).1).1
  exact absurd (List.mem_range.mp hmem) (by decide)

end Sys2Proof.Machine
end

section
/-!
PROOFS. Conversions (R246 to R248, R251): the elements of a lane draw from the lane's LFSR in ascending order, lanes are converted
independently, and the model's row of R247 is the rule's.
-/
namespace Sys2Proof.Machine
open State

-- ## Drawing for the elements of a lane (R91, R251)

theorem rounding_sr (st : W32) (i : Nat) : Rule.rounding .sr st i = .sr (lfsrDraw (lfsrSteps i st)) := by
  rw [Rule.rounding, iter_lfsrStep]
  rfl

theorem rounding_sr_succ (st : W32) (i : Nat) : Rule.rounding .sr st (i + 1) = Rule.rounding .sr (lfsrStep st) i := by
  rw [rounding_sr, rounding_sr]
  rfl

theorem foldl_draw (cv : Rnd → Nat → Nat) (xs ys : List Nat) (st : W32) :
    xs.foldl (fun p x => (p.1 ++ [cv (.sr (lfsrDraw p.2)) x], lfsrStep p.2)) (ys, st) =
      (ys ++ xs.mapIdx fun i x => cv (Rule.rounding .sr st i) x, lfsrSteps xs.length st) := by
  induction xs generalizing ys st with
  | nil => simp [lfsrSteps]
  | cons x r ih =>
    rw [List.foldl_cons, ih, List.mapIdx_cons, rounding_sr st 0, List.append_assoc]
    simp only [rounding_sr_succ]
    rfl

/-- Element i is converted with the rounding of the state stepped i times. -/
theorem drawList_fst (r : RMode) (st : W32) (xs : List Nat) (cv : Rnd → Nat → Nat) :
    (drawList r st xs cv).1 = xs.mapIdx fun i x => cv (Rule.rounding r st i) x := by
  cases r with
  | det m => exact List.ext_getElem (by simp [drawList]) fun i _ _ => by simp [drawList, Rule.rounding]
  | sr => rw [drawList, foldl_draw, List.nil_append]

theorem drawList_snd (r : RMode) (st : W32) (xs : List Nat) (cv : Rnd → Nat → Nat) :
    (drawList r st xs cv).2 = if r = .sr then Rule.iter lfsrStep xs.length st else st := by
  cases r with
  | det m => rw [if_neg (by simp)]; rfl
  | sr => rw [drawList, foldl_draw, if_pos rfl, iter_lfsrStep]

-- ## States that differ in the LFSRs of the issuing group

/-- `t` is `u` but for the LFSR states of the issuing group. -/
def SameButLfsr (u t : State) : Prop :=
  { t.cg with r := { t.cg.r with lfsr := u.cg.r.lfsr } } = u.cg ∧ (∀ key, key ≠ u.cur.grp → t.group key = u.group key) ∧
    { t with groups := u.groups } = u

theorem sameButLfsr_refl (s : State) : SameButLfsr s s := ⟨rfl, fun _ _ => rfl, rfl⟩

theorem SameButLfsr.cur {u t : State} (h : SameButLfsr u t) : t.cur = u.cur := by
  obtain ⟨-, -, hrest⟩ := h
  have hcur := congrArg State.cur hrest
  exact hcur

theorem SameButLfsr.vNow {u t : State} (h : SameButLfsr u t) (n l : Nat) : Rule.vNow t n l = Rule.vNow u n l := by
  obtain ⟨hcg, -, -⟩ := h
  have hv := congrArg (fun g : Group => Sparse.get 0 g.r.v (64 * n + l)) hcg
  exact hv

/-- Changes of the issuing group that agree but for the LFSRs keep such an agreement. -/
theorem SameButLfsr.modG {u t : State} (h : SameButLfsr u t) {f g : Group → Group}
    (hfg : { g t.cg with r := { (g t.cg).r with lfsr := (f u.cg).r.lfsr } } = f u.cg) : SameButLfsr (u.modG f) (t.modG g) := by
  have hcur := h.cur
  obtain ⟨-, hgroup, hrest⟩ := h
  refine ⟨by rw [cg_modG, cg_modG, hfg], fun key hkey => ?_, ?_⟩
  · have hkey' : key ≠ u.cur.grp := hkey
    rw [group_modG, group_modG, if_neg hkey', if_neg (hcur ▸ hkey'), hgroup key hkey']
  · exact congrArg (fun s : State => { s with groups := (u.modG f).groups }) hrest

theorem SameButLfsr.setV {u t : State} (h : SameButLfsr u t) (n l : Nat) (x : W32) : SameButLfsr (u.setV n l x) (t.setV n l x) := by
  refine h.modG ?_
  obtain ⟨hcg, -, -⟩ := h
  exact congrArg (fun g : Group => g.putV n l x) hcg

theorem SameButLfsr.modLfsr {u t : State} (h : SameButLfsr u t) (f : Sparse W32 → Sparse W32) :
    SameButLfsr u (t.modR fun r => { r with lfsr := f r.lfsr }) := by
  have hcur := h.cur
  obtain ⟨hcg, hgroup, hrest⟩ := h
  refine ⟨by rw [State.modR, cg_modG]; exact hcg, fun key hkey => ?_, hrest⟩
  rw [State.modR, group_modG, if_neg (hcur ▸ hkey), hgroup key hkey]

-- ## Converting lanes

section
variable (d : Nat) (r : RMode) (xs : Nat → List Nat) (cv : Nat → Rnd → Nat → Nat) (place : W32 → List Nat → W32)
  (old : Nat → W32)

/-- The conversion of one lane: the lane of vD takes the results and the lane's LFSR its steps. -/
def convLane (s : State) (l : Nat) : State :=
  let y := drawList r (Sparse.get 0 s.cg.r.lfsr l) (xs l) (cv l)
  match r with
  | .det _ => s.setV d l (place (old l) y.1)
  | .sr => (s.setV d l (place (old l) y.1)).modR fun g => { g with lfsr := Sparse.insert g.lfsr l y.2 }

/-- What a lane of vD takes, from the LFSR state of the lane. -/
def convVal (st : Nat → W32) (l : Nat) : W32 :=
  place (old l) ((xs l).mapIdx fun i x => cv l (Rule.rounding r (st l) i) x)

theorem convLanes_eq_foldl (s : State) (ls : List Nat) :
    s.convLanes ls d r xs cv place = ls.foldl (convLane d r xs cv place (s.v d)) s := by
  cases r <;> rfl

theorem convLane_lfsr (s : State) (l m : Nat) :
    Sparse.get 0 (convLane d r xs cv place old s l).cg.r.lfsr m =
      if r = .sr ∧ m = l then Rule.iter lfsrStep (xs l).length (Sparse.get 0 s.cg.r.lfsr l) else Sparse.get 0 s.cg.r.lfsr m := by
  cases r with
  | det k => simp [convLane, cg_setV, Group.putV]
  | sr => simp [convLane, State.modR, cg_setV, Group.putV, drawList_snd]

theorem convLane_same {u t : State} (h : SameButLfsr u t) (l : Nat) :
    SameButLfsr (u.setV d l (convVal r xs cv place old (fun l => Sparse.get 0 t.cg.r.lfsr l) l)) (convLane d r xs cv place old t l) := by
  have hset := h.setV d l (convVal r xs cv place old (fun l => Sparse.get 0 t.cg.r.lfsr l) l)
  rw [convVal, ← drawList_fst] at hset ⊢
  cases r with
  | det k => exact hset
  | sr => exact hset.modLfsr fun m => Sparse.insert m l (drawList .sr (Sparse.get 0 t.cg.r.lfsr l) (xs l) (cv l)).2

/-- Distinct lanes are converted as though each were alone. -/
theorem foldl_convLane {u t : State} (h : SameButLfsr u t) {st : Nat → W32} {ls : List Nat} (hnd : ls.Nodup)
    (hst : ∀ l ∈ ls, Sparse.get 0 t.cg.r.lfsr l = st l) :
    SameButLfsr (u.setLanes d ls (convVal r xs cv place old st)) (ls.foldl (convLane d r xs cv place old) t) ∧
      ∀ l, Sparse.get 0 (ls.foldl (convLane d r xs cv place old) t).cg.r.lfsr l =
        if r = .sr ∧ l ∈ ls then Rule.iter lfsrStep (xs l).length (st l) else Sparse.get 0 t.cg.r.lfsr l := by
  induction ls generalizing u t with
  | nil => exact ⟨h, fun l => by simp⟩
  | cons a ls ih =>
    obtain ⟨ha, hnd'⟩ := List.nodup_cons.mp hnd
    have hval : convVal r xs cv place old (fun l => Sparse.get 0 t.cg.r.lfsr l) a = convVal r xs cv place old st a := by
      rw [convVal, convVal, hst a List.mem_cons_self]
    have hstep := hval ▸ convLane_same d r xs cv place old h a
    obtain ⟨hsame, hlfsr⟩ := ih hstep hnd' fun l hl => by
      rw [convLane_lfsr, if_neg fun hla : r = .sr ∧ l = a => ha (hla.2 ▸ hl), hst l (List.mem_cons_of_mem _ hl)]
    refine ⟨hsame, fun l => ?_⟩
    rw [List.foldl_cons, hlfsr, convLane_lfsr]
    by_cases hr : r = .sr
    · by_cases hl : l ∈ ls
      · simp [hr, hl]
      · by_cases hla : l = a
        · subst hla
          rw [if_neg fun h => hl h.2, if_pos ⟨hr, rfl⟩, if_pos ⟨hr, List.mem_cons_self⟩, hst l List.mem_cons_self]
        · simp [hr, hl, hla]
    · simp [hr]

/-- The conversion of distinct lanes of vD. -/
theorem convLanes_spec (s : State) {ls : List Nat} (hnd : ls.Nodup) :
    SameButLfsr (s.setLanes d ls (convVal r xs cv place (s.v d) fun l => Sparse.get 0 s.cg.r.lfsr l))
        (s.convLanes ls d r xs cv place) ∧
      ∀ l, Sparse.get 0 (s.convLanes ls d r xs cv place).cg.r.lfsr l =
        if r = .sr ∧ l ∈ ls then Rule.iter lfsrStep (xs l).length (Sparse.get 0 s.cg.r.lfsr l) else Sparse.get 0 s.cg.r.lfsr l := by
  rw [convLanes_eq_foldl]
  exact foldl_convLane d r xs cv place (s.v d) (sameButLfsr_refl s) hnd fun _ _ => rfl

end

theorem bitsOf_nodup (n m : Nat) : (bitsOf n m).Nodup := List.Pairwise.filter _ List.nodup_range

theorem lanes_nodup (s : State) (p : LPred) : (s.lanes p).Nodup := bitsOf_nodup _ _

theorem setLanes_cur (s : State) (n : Nat) (ls : List Nat) (f : Nat → W32) : (s.setLanes n ls f).cur = s.cur := by
  rw [setLanes_modG]
  split <;> rfl

/-- An instruction that converts the active lanes is known by the values it places. -/
theorem convOp_of_convLanes {i : Instr} {s : State} {p : LPred} {d : VReg} {r : RMode} {n : Nat}
    {P : Nat → W32 → (Nat → Rnd) → Prop} {xs : Nat → List Nat} {cv : Nat → Rnd → Nat → Nat} {place : W32 → List Nat → W32}
    (hexec : exec i s = .next (s.convLanes (s.lanes p) d r xs cv place)) (hlen : ∀ l, (xs l).length = n)
    (hP : ∀ l mo, P l (place (s.v d l) ((xs l).mapIdx fun i x => cv l (mo i) x)) mo) :
    Rule.ConvOp i s (Rule.isActive s p) d r n P := by
  obtain ⟨⟨hcg, hgroup, hrest⟩, hlfsr⟩ := convLanes_spec d r xs cv place s (lanes_nodup s p)
  have hcur := setLanes_cur s d (s.lanes p) (convVal r xs cv place (s.v d) fun l => Sparse.get 0 s.cg.r.lfsr l)
  refine ⟨_, _, _, hexec, writesV_setLanes s d (isActive_iff_mem_lanes s p)
    (fun _ hl => Nat.lt_of_lt_of_le (List.mem_range.mp (List.mem_filter.mp hl).1) (vl_le s)) _, fun l _ => hP l _, fun l => ?_, hcg,
    fun key hkey => hgroup key (hcur ▸ hkey), hrest⟩
  rw [hlfsr, hlen]
  simp only [isActive_iff_mem_lanes]

-- ## Elements taken and placed

theorem length_takeElems (w i n : Nat) (a : W32) : (takeElems w i n a).length = n := by simp [takeElems, upFrom]

/-- Elements of a lane placed from element i on, and the others of the old lane. -/
theorem el_putElems {w j : Nat} (hj : j < 32 / w) (i : Nat) (ys : List Nat) (old : W32) :
    Rule.el w (putElems w i ys old) j =
      if i ≤ j ∧ j < i + ys.length then ys.getD (j - i) 0 % 2 ^ w else Rule.el w old j := by
  rw [putElems, el_packLane _ hj]
  split
  · rfl
  · exact Nat.mod_eq_of_lt (el_lt w old j)

/-- Elements of one lane, each converted, in their places in another. -/
theorem el_converted {w j : Nat} (hj : j < 32 / w) (i w' i' n : Nat) (a old : W32) (g : Nat → Nat → Nat) :
    Rule.el w (putElems w i ((takeElems w' i' n a).mapIdx g) old) j =
      if i ≤ j ∧ j < i + n then g (j - i) (Rule.el w' a (i' + (j - i))) % 2 ^ w else Rule.el w old j := by
  rw [el_putElems hj, List.length_mapIdx, length_takeElems]
  refine ite_congr rfl (fun h => ?_) fun _ => rfl
  have hlt : j - i < n := by omega
  simp [takeElems, upFrom, hlt, elem, Rule.el, fld]

/-- The same where the elements fill the lane. -/
theorem el_converted_all {w j n : Nat} (hj : j < 32 / w) (hn : 32 / w = n) (w' i' : Nat) (a old : W32) (g : Nat → Nat → Nat) :
    Rule.el w (putElems w 0 ((takeElems w' i' n a).mapIdx g) old) j = g j (Rule.el w' a (i' + j)) % 2 ^ w := by
  rw [el_converted hj, if_pos (by omega), Nat.sub_zero]

theorem elems_eq (t : LaneType) : t.elems = 32 / t.bits := by cases t <;> rfl

theorem slotBits_eq (record : Nat) : slotBits record = Rule.recBits record := by
  have hlt : fld record 16 2 < 4 := Nat.mod_lt _ (by decide)
  have hfld : fld record 16 2 = record / 2 ^ 16 % 4 := rfl
  rw [slotBits, recordWidth, Rule.recBits, ← hfld]
  match fld record 16 2, hlt with
  | 0, _ | 1, _ | 2, _ | 3, _ => rfl

theorem laneFmt_eq (f0 : W32) (t : LaneType) : laneFmt f0 t = Rule.fmtOf f0 t := by cases t <;> rfl

/-- The conversion of an element is the row of R247. -/
theorem cvtElem_el (f0 : W32) (dst src : LaneType) (mo : Rnd) (a : W32) (k : Nat) :
    cvtElem f0 dst src mo (Rule.el src.bits a k) = Rule.cvt f0 dst src mo (Rule.el src.bits a k) := by
  have hint := elemInt_el (src != .u32) src.bits a k
  have hdst : (dst != .u32) = decide (dst ≠ .u32) := by cases dst <;> rfl
  simp only [Rule.ei, bne_iff_ne] at hint
  simp only [cvtElem, Rule.cvt, hint, hdst, laneFmt_eq]
  cases Rule.fmtOf f0 src <;> cases Rule.fmtOf f0 dst <;> rfl

/-- Settles O19: the lanes are converted apart from each other, and within a lane the elements taken, converted and placed are the
rule's. -/
theorem vectorConversions : Obligations.VectorConversions := by
  intro s t c r g p d a ft fr g8
  refine ⟨fun hsame => convOp_of_convLanes rfl (fun l => ?_) fun l mo j hj => ?_,
    fun hnarrow => convOp_of_convLanes rfl (fun l => ?_) fun l mo j hj => ?_,
    fun hwide => convOp_of_convLanes rfl (fun l => ?_) fun l mo j hj => ?_,
    convOp_of_convLanes rfl (fun l => length_takeElems _ _ _ _) fun l mo j hj => ?_,
    convOp_of_convLanes rfl (fun l => length_takeElems _ _ _ _) fun l mo j hj => ?_⟩
  · rw [length_takeElems, elems_eq]
  · rw [elems_eq, el_converted_all hj hsame.symm, cvtElem_el, Nat.zero_add]
    rfl
  · rw [length_takeElems, elems_eq]
  · rw [elems_eq, el_converted hj, cvtElem_el, Nat.zero_add]
    rfl
  · rw [length_takeElems, elems_eq]
  · rw [elems_eq, el_converted_all hj rfl, cvtElem_el]
    rfl
  · rw [State.f, slotBits_eq, el_converted hj, Nat.zero_add]
  · rw [State.f, slotBits_eq, el_converted_all hj rfl]

end Sys2Proof.Machine
end

section
/-!
PROOFS. MX blocks of the vector engine (R249, R250): VQMX goes block after block, each lane of vB and of vD belongs to one block, and
VDQMX writes a pair of registers.
-/
namespace Sys2Proof.Machine
open State

-- ## Folds over blocks, of which one touches a thing

section
variable {σ β : Type} (O : σ → β) (F : σ → Nat → σ) (s : σ) {n j : Nat}

theorem foldl_range_unchanged (h : ∀ i < n, ∀ t, O (F t i) = O t) : O ((List.range n).foldl F s) = O s :=
  foldl_keeps (fun t => O t = O s) F _ s rfl fun t i hi ht => (h i (List.mem_range.mp hi) t).trans ht

/-- What only block j touches is what block j makes of it. -/
theorem foldl_range_once (hj : j < n) (h : ∀ i < n, i ≠ j → ∀ t, O (F t i) = O t) :
    O ((List.range n).foldl F s) = O (F ((List.range j).foldl F s) j) := by
  induction n with
  | zero => omega
  | succ n ih =>
    rw [List.range_succ, List.foldl_append, List.foldl_cons, List.foldl_nil]
    by_cases hn : n = j
    · rw [hn]
    · rw [h n (Nat.lt_succ_self n) hn, ih (by omega) fun i hi => h i (Nat.lt_succ_of_lt hi)]

end

-- ## Lanes of the present registers

theorem vNow_setLanes (s : State) (n : Nat) {ls : List Nat} (hls : ∀ l ∈ ls, l < 64) (f : Nat → W32) (k : Nat)
    {l : Nat} (hl : l < 64) : Rule.vNow (s.setLanes n ls f) k l = if k = n ∧ l ∈ ls then f l else Rule.vNow s k l := by
  obtain ⟨hlane, hother, -⟩ := writesV_setLanes s n (w := fun l => decide (l ∈ ls)) (fun _ => decide_eq_true_iff) hls f
  by_cases hk : k = n
  · subst hk
    simpa using hlane l hl
  · rw [hother k hk l hl, if_neg fun h => hk h.1]

theorem vNow_setV (s : State) (n m : Nat) (y : W32) (k : Nat) {l : Nat} (hm : m < 64) (hl : l < 64) :
    Rule.vNow (s.setV n m y) k l = if k = n ∧ l = m then y else Rule.vNow s k l := by
  have h := vNow_setLanes s n (ls := [m]) (fun l hl => by rwa [List.mem_singleton.mp hl]) (fun _ => y) k hl
  simp only [List.mem_singleton] at h
  exact h

/-- Only v registers, LFSRs and poison marks of the issuing group differ. -/
def SameButV (s t : State) : Prop :=
  { t.cg with r := { t.cg.r with v := s.cg.r.v, lfsr := s.cg.r.lfsr }, poison := s.cg.poison } = s.cg ∧
    { t with groups := s.groups } = s

theorem SameButV.setV {s t : State} (h : SameButV s t) (n l : Nat) (y : W32) : SameButV s (t.setV n l y) := by
  obtain ⟨hcg, hrest⟩ := h
  exact ⟨by rw [cg_setV]; exact hcg, hrest⟩

theorem SameButV.of_sameButLfsr {s u t : State} (h : SameButV s u) (hut : SameButLfsr u t) : SameButV s t := by
  obtain ⟨hcg, hrest⟩ := h
  obtain ⟨hcg', -, hrest'⟩ := hut
  constructor
  · refine Eq.trans ?_ hcg
    have h := congrArg (fun g : Group => { g with r := { g.r with v := s.cg.r.v, lfsr := s.cg.r.lfsr }, poison := s.cg.poison }) hcg'
    exact h
  · refine Eq.trans ?_ hrest
    have h := congrArg (fun u : State => { u with groups := s.groups }) hrest'
    exact h

theorem SameButV.setLanes {s t : State} (h : SameButV s t) (n : Nat) (ls : List Nat) (f : Nat → W32) :
    SameButV s (t.setLanes n ls f) :=
  foldl_keeps (SameButV s) _ ls t h fun _ l _ h => h.setV n l (f l)

-- ## One block of VQMX

section
variable (s : State) (q : Fmt × Nat) (sb base d a x : Nat) (sr : Bool)

/-- The scale of block j, and of its elements the power of two. -/
def blockScale (j : Nat) : Option (Nat × Int) := mxScale q.1 ((upFrom (32 * j) 32).map fun i => f32.decode (vqmxSource s a i))

/-- The lanes of vD that the elements of block j go to. -/
def blockLanes (j : Nat) : List Nat :=
  s.maskLanes.filter fun l => decide (base + 32 * j ≤ l * (32 / q.2)) && decide (l * (32 / q.2) < base + 32 * j + 32)

/-- The first half of a block: its scale goes to its lane of vB. -/
def putScale (t : State) (j : Nat) : State :=
  if bitOf s.mask (base / 32 + j) then
    t.setV x (base / 32 + j) (putElems 8 sb [mxScaleCode (blockScale s q a j)] (Rule.vNow t x (base / 32 + j)))
  else t

/-- The rounding of VQMX. -/
def qmxMode : RMode := if sr then .sr else .det .rne

theorem vqmxBlock_eq (t : State) (j : Nat) :
    vqmxBlock s q sb base d a x sr t j =
      (putScale s q sb base a x t j).convLanes (blockLanes s q base j) d (qmxMode sr)
        (fun l => upFrom (l * (32 / q.2) - base) (32 / q.2))
        (fun _ mo i => mxElem q.1 mo (blockScale s q a j) (f32.decode (vqmxSource s a i)))
        (fun old ys => putElems q.2 0 ys old) := rfl

/-- A lane of the mask belongs to the block that its first element's number names. -/
theorem mem_blockLanes (j l : Nat) :
    l ∈ blockLanes s q base j ↔ l ∈ s.maskLanes ∧ base ≤ l * (32 / q.2) ∧ (l * (32 / q.2) - base) / 32 = j := by
  rw [blockLanes, List.mem_filter, Bool.and_eq_true, decide_eq_true_iff, decide_eq_true_iff]
  refine and_congr_right fun _ => ?_
  generalize l * (32 / q.2) = y
  omega

theorem blockLanes_lt {j l : Nat} (h : l ∈ blockLanes s q base j) : l < 64 :=
  Nat.lt_of_lt_of_le (lt_of_mem_maskLanes ((mem_blockLanes s q base j l).mp h).1) (vl_le s)

theorem blockLanes_nodup (j : Nat) : (blockLanes s q base j).Nodup := List.Pairwise.filter _ (bitsOf_nodup _ _)

theorem putScale_lfsr (t : State) (j : Nat) : (putScale s q sb base a x t j).cg.r.lfsr = t.cg.r.lfsr := by
  rw [putScale]
  split
  · rw [cg_setV]; rfl
  · rfl

theorem vNow_putScale (t : State) {j : Nat} (hj : base / 32 + j < 64) (k : Nat) {l : Nat} (hl : l < 64) :
    Rule.vNow (putScale s q sb base a x t j) k l =
      if k = x ∧ l = base / 32 + j ∧ bitOf s.mask l = true then putElems 8 sb [mxScaleCode (blockScale s q a j)] (Rule.vNow t x l)
      else Rule.vNow t k l := by
  rw [putScale]
  split
  next hbit =>
    rw [vNow_setV _ _ _ _ _ hj hl]
    by_cases hlane : k = x ∧ l = base / 32 + j
    · obtain ⟨rfl, rfl⟩ := hlane
      simp [hbit]
    · rw [if_neg hlane, if_neg fun h => hlane ⟨h.1, h.2.1⟩]
  next hbit =>
    rw [if_neg]
    rintro ⟨-, rfl, h⟩
    exact hbit h

/-- What a lane of vD takes of block j, from the LFSR states as they stand. -/
def blockElems (t : State) (j l : Nat) : W32 :=
  putElems q.2 0 ((upFrom (l * (32 / q.2) - base) (32 / q.2)).mapIdx fun m i =>
    mxElem q.1 (Rule.rounding (qmxMode sr) (Sparse.get 0 t.cg.r.lfsr l) m) (blockScale s q a j) (f32.decode (vqmxSource s a i)))
    ((putScale s q sb base a x t j).v d l)

/-- A block puts its scale, and then its elements with a step of the LFSR for each. -/
theorem vqmxBlock_spec (t : State) (j : Nat) :
    SameButLfsr ((putScale s q sb base a x t j).setLanes d (blockLanes s q base j) (blockElems s q sb base d a x sr t j))
        (vqmxBlock s q sb base d a x sr t j) ∧
      ∀ l, Sparse.get 0 (vqmxBlock s q sb base d a x sr t j).cg.r.lfsr l =
        if sr = true ∧ l ∈ blockLanes s q base j then Rule.iter lfsrStep (32 / q.2) (Sparse.get 0 t.cg.r.lfsr l)
        else Sparse.get 0 t.cg.r.lfsr l := by
  obtain ⟨hsame, hlfsr⟩ := convLanes_spec d (qmxMode sr) (fun l => upFrom (l * (32 / q.2) - base) (32 / q.2))
    (fun _ mo i => mxElem q.1 mo (blockScale s q a j) (f32.decode (vqmxSource s a i))) (fun old ys => putElems q.2 0 ys old)
    (putScale s q sb base a x t j) (blockLanes_nodup s q base j)
  have hmode : qmxMode sr = .sr ↔ sr = true := by cases sr <;> simp [qmxMode]
  rw [vqmxBlock_eq]
  simp only [putScale_lfsr, hmode, upFrom, List.length_map, List.length_range] at hsame hlfsr
  exact ⟨hsame, hlfsr⟩

/-- A block writes its lanes of vD, and before them its lane of vB. -/
theorem vNow_vqmxBlock (t : State) (j k : Nat) {l : Nat} (hl : l < 64) :
    Rule.vNow (vqmxBlock s q sb base d a x sr t j) k l =
      if k = d ∧ l ∈ blockLanes s q base j then blockElems s q sb base d a x sr t j l
      else Rule.vNow (putScale s q sb base a x t j) k l := by
  obtain ⟨hsame, -⟩ := vqmxBlock_spec s q sb base d a x sr t j
  rw [hsame.vNow, vNow_setLanes _ _ (fun _ h => blockLanes_lt s q base h) _ _ hl]

theorem vqmxBlock_sameButV {t : State} (h : SameButV s t) (j : Nat) : SameButV s (vqmxBlock s q sb base d a x sr t j) := by
  obtain ⟨hsame, -⟩ := vqmxBlock_spec s q sb base d a x sr t j
  refine SameButV.of_sameButLfsr (SameButV.setLanes ?_ _ _ _) hsame
  rw [putScale]
  split
  · exact h.setV _ _ _
  · exact h

theorem vqmxBlock_lfsr (t : State) (j l : Nat) :
    Sparse.get 0 (vqmxBlock s q sb base d a x sr t j).cg.r.lfsr l =
      if sr = true ∧ l ∈ blockLanes s q base j then Rule.iter lfsrStep (32 / q.2) (Sparse.get 0 t.cg.r.lfsr l)
      else Sparse.get 0 t.cg.r.lfsr l := (vqmxBlock_spec s q sb base d a x sr t j).2 l

/-- A lane that is neither the block's lane of vB nor one of its lanes of vD stays. -/
theorem vNow_vqmxBlock_of_not (t : State) {j : Nat} (hj : base / 32 + j < 64) {k l : Nat} (hl : l < 64)
    (hscale : ¬(k = x ∧ l = base / 32 + j ∧ bitOf s.mask l = true)) (hlanes : ¬(k = d ∧ l ∈ blockLanes s q base j)) :
    Rule.vNow (vqmxBlock s q sb base d a x sr t j) k l = Rule.vNow t k l := by
  rw [vNow_vqmxBlock _ _ _ _ _ _ _ _ _ _ _ hl, if_neg hlanes, vNow_putScale _ _ _ _ _ _ _ hj _ hl, if_neg hscale]

end

-- ## All blocks of a chunk

section
variable (s : State) (q : Fmt × Nat) (sb c : Fin 4) (d a x : Nat) (sr : Bool)

/-- The number of the first value of a chunk. -/
def chunkBase : Nat := c.val * (2 * s.vl)

/-- VQMX after its blocks 0 to k − 1. -/
def vqmxBlocks (k : Nat) : State := (List.range k).foldl (vqmxBlock s q sb (chunkBase s c) d a x sr) s

/-- A chunk is made of whole blocks, and the lanes of vB that take their scales are below VL. -/
theorem chunk_bounds :
    32 * (2 * s.vl / 32) = 2 * s.vl ∧ chunkBase s c / 32 + 2 * s.vl / 32 ≤ s.vl := by
  have hvl : s.vl = 32 ∨ s.vl = 64 := by
    unfold State.vl
    cases s.kind
    · exact .inl rfl
    · exact .inr rfl
  rw [chunkBase]
  rcases hvl with hvl | hvl <;> rw [hvl] <;> omega

/-- The lanes of vD in the chunk, and those of vB in the range of its blocks. -/
def inChunk (l : Nat) : Bool :=
  Rule.inMask s l && decide (chunkBase s c ≤ l * (32 / q.2)) && decide (l * (32 / q.2) < chunkBase s c + 2 * s.vl)
def inScale (l : Nat) : Bool :=
  Rule.inMask s l && decide (chunkBase s c / 32 ≤ l) && decide (l < chunkBase s c / 32 + 2 * s.vl / 32)

/-- The block of a lane of vD in the chunk. -/
theorem mem_blockLanes_of_inChunk {l : Nat} (h : inChunk s q c l = true) :
    (l * (32 / q.2) - chunkBase s c) / 32 < 2 * s.vl / 32 ∧
      ∀ j, l ∈ blockLanes s q (chunkBase s c) j ↔ (l * (32 / q.2) - chunkBase s c) / 32 = j := by
  simp only [inChunk, Bool.and_eq_true, decide_eq_true_iff] at h
  obtain ⟨⟨hmask, hlo⟩, hhi⟩ := h
  refine ⟨?_, fun j => ?_⟩
  · obtain ⟨hwhole, -⟩ := chunk_bounds s c
    generalize l * (32 / q.2) = y at hlo hhi
    omega
  · rw [mem_blockLanes]
    simp [hlo, (inMask_iff_mem_maskLanes s l).mp hmask]

theorem not_mem_blockLanes {l : Nat} (h : inChunk s q c l = false) {j : Nat} (hj : j < 2 * s.vl / 32) :
    l ∉ blockLanes s q (chunkBase s c) j := by
  intro hmem
  obtain ⟨hmask, hlo, hblock⟩ := (mem_blockLanes s q _ j l).mp hmem
  obtain ⟨hwhole, -⟩ := chunk_bounds s c
  have hhi : l * (32 / q.2) < chunkBase s c + 2 * s.vl := by
    generalize l * (32 / q.2) = y at hlo hblock
    omega
  simp [inChunk, (inMask_iff_mem_maskLanes s l).mpr hmask, hlo, hhi] at h

theorem not_scale_lane {l : Nat} (h : inScale s c l = false) {j : Nat} (hj : j < 2 * s.vl / 32) :
    ¬(l = chunkBase s c / 32 + j ∧ bitOf s.mask l = true) := by
  rintro ⟨hl, hbit⟩
  obtain ⟨-, hvl⟩ := chunk_bounds s c
  have hmask : Rule.inMask s l = true := by rw [Rule.inMask, hbit, decide_eq_true (by omega : l < s.vl)]; rfl
  have hrange : chunkBase s c / 32 ≤ l ∧ l < chunkBase s c / 32 + 2 * s.vl / 32 := by omega
  simp [inScale, hmask, hrange] at h

theorem scale_lane_lt {j : Nat} (hj : j < 2 * s.vl / 32) : chunkBase s c / 32 + j < 64 := by
  obtain ⟨-, hvl⟩ := chunk_bounds s c
  have := vl_le s
  omega

/-- A lane of vB outside the scales and a lane of vD outside the chunk stay, and so do all lanes of other registers. -/
theorem vqmxBlocks_of_not {k l : Nat} (hl : l < 64) (hscale : k = x → inScale s c l = false)
    (hchunk : k = d → inChunk s q c l = false) :
    Rule.vNow (vqmxBlocks s q sb c d a x sr (2 * s.vl / 32)) k l = Rule.vNow s k l :=
  foldl_range_unchanged (fun t => Rule.vNow t k l) _ s fun _ hj t =>
    vNow_vqmxBlock_of_not s q _ _ d a x sr t (scale_lane_lt s c hj) hl (fun h => not_scale_lane s c (hscale h.1) hj h.2)
      fun h => not_mem_blockLanes s q c (hchunk h.1) hj h.2

theorem vqmxBlocks_sameButV (k : Nat) : SameButV s (vqmxBlocks s q sb c d a x sr k) :=
  foldl_keeps (SameButV s) _ _ s ⟨rfl, rfl⟩ fun _ j _ h => vqmxBlock_sameButV s q _ _ d a x sr h j

/-- The LFSR of a lane of the chunk stands as before until the lane's block. -/
theorem vqmxBlocks_lfsr_before {l : Nat} (h : inChunk s q c l = true) :
    Sparse.get 0 (vqmxBlocks s q sb c d a x sr ((l * (32 / q.2) - chunkBase s c) / 32)).cg.r.lfsr l = Sparse.get 0 s.cg.r.lfsr l :=
  foldl_range_unchanged (fun t : State => Sparse.get 0 t.cg.r.lfsr l) _ s fun j hj t => by
    have hblock := (mem_blockLanes_of_inChunk s q c h).2 j
    rw [vqmxBlock_lfsr, if_neg]
    rintro ⟨-, hmem⟩
    have := hblock.mp hmem
    omega

theorem vqmxBlocks_lfsr (l : Nat) :
    Sparse.get 0 (vqmxBlocks s q sb c d a x sr (2 * s.vl / 32)).cg.r.lfsr l =
      if sr = true ∧ inChunk s q c l = true then Rule.iter lfsrStep (32 / q.2) (Sparse.get 0 s.cg.r.lfsr l)
      else Sparse.get 0 s.cg.r.lfsr l := by
  by_cases h : sr = true ∧ inChunk s q c l = true
  · obtain ⟨hlt, hblock⟩ := mem_blockLanes_of_inChunk s q c h.2
    refine (foldl_range_once (fun t : State => Sparse.get 0 t.cg.r.lfsr l) _ s hlt fun i _ hi t => ?_).trans ?_
    · rw [vqmxBlock_lfsr, if_neg fun hmem => hi ((hblock i).mp hmem.2).symm]
    · rw [vqmxBlock_lfsr, if_pos ⟨h.1, (hblock _).mpr rfl⟩, if_pos h]
      exact congrArg _ (vqmxBlocks_lfsr_before s q sb c d a x sr h.2)
  · rw [if_neg h]
    refine foldl_range_unchanged (fun t : State => Sparse.get 0 t.cg.r.lfsr l) _ s fun j hj t => ?_
    rw [vqmxBlock_lfsr, if_neg]
    rintro ⟨hsr, hmem⟩
    exact not_mem_blockLanes s q c (Bool.eq_false_iff.mpr fun hc => h ⟨hsr, hc⟩) hj hmem

variable (hxd : x ≠ d)
include hxd

/-- A lane of vD in the chunk takes the elements of its block. -/
theorem vqmxBlocks_elem {l m : Nat} (hl : l < 64) (h : inChunk s q c l = true) (hm : m < 32 / q.2) :
    Rule.el q.2 (Rule.vNow (vqmxBlocks s q sb c d a x sr (2 * s.vl / 32)) d l) m =
      mxElem q.1 (Rule.rounding (qmxMode sr) (Sparse.get 0 s.cg.r.lfsr l) m)
        (blockScale s q a ((l * (32 / q.2) - chunkBase s c) / 32))
        (f32.decode (vqmxSource s a (l * (32 / q.2) - chunkBase s c + m))) % 2 ^ q.2 := by
  obtain ⟨hlt, hblock⟩ := mem_blockLanes_of_inChunk s q c h
  have hone := foldl_range_once (fun t => Rule.vNow t d l) (vqmxBlock s q sb (chunkBase s c) d a x sr) s hlt fun i hi hne t =>
    vNow_vqmxBlock_of_not s q _ _ d a x sr t (scale_lane_lt s c hi) hl (fun hx => hxd hx.1.symm)
      fun hmem => hne ((hblock i).mp hmem.2).symm
  rw [vqmxBlocks, hone, ← vqmxBlocks, vNow_vqmxBlock _ _ _ _ _ _ _ _ _ _ _ hl, if_pos ⟨rfl, (hblock _).mpr rfl⟩, blockElems,
    el_putElems hm, vqmxBlocks_lfsr_before s q sb c d a x sr h]
  simp [upFrom, hm]

/-- A lane of vB in the range takes the scale of its block in its byte, and keeps the others. -/
theorem vqmxBlocks_scale {l m : Nat} (hl : l < 64) (h : inScale s c l = true) (hm : m < 4) :
    Rule.el 8 (Rule.vNow (vqmxBlocks s q sb c d a x sr (2 * s.vl / 32)) x l) m =
      if m = sb.val then mxScaleCode (blockScale s q a (l - chunkBase s c / 32)) % 2 ^ 8 else Rule.el 8 (Rule.vNow s x l) m := by
  simp only [inScale, Rule.inMask, Bool.and_eq_true, decide_eq_true_iff] at h
  obtain ⟨⟨⟨-, hbit⟩, hlo⟩, hhi⟩ := h
  have hlt : l - chunkBase s c / 32 < 2 * s.vl / 32 := by omega
  have hstays (i : Nat) (hi : i < 2 * s.vl / 32) (hne : i ≠ l - chunkBase s c / 32) (t : State) :
      Rule.vNow (vqmxBlock s q sb (chunkBase s c) d a x sr t i) x l = Rule.vNow t x l :=
    vNow_vqmxBlock_of_not s q _ _ d a x sr t (scale_lane_lt s c hi) hl (fun hx => hne (by omega)) fun hx => hxd hx.1
  have hone := foldl_range_once (fun t => Rule.vNow t x l) _ s hlt hstays
  have hbefore : Rule.vNow (vqmxBlocks s q sb c d a x sr (l - chunkBase s c / 32)) x l = Rule.vNow s x l :=
    foldl_range_unchanged (fun t => Rule.vNow t x l) _ s fun i hi => hstays i (by omega) (Nat.ne_of_lt hi)
  rw [vqmxBlocks, hone, ← vqmxBlocks, vNow_vqmxBlock _ _ _ _ _ _ _ _ _ _ _ hl, if_neg fun hx => hxd hx.1,
    vNow_putScale _ _ _ _ _ _ _ (scale_lane_lt s c hlt) _ hl, if_pos ⟨rfl, by omega, hbit⟩, hbefore, el_putElems hm]
  by_cases hms : m = sb.val
  · simp [hms]
  · rw [if_neg (by simp; omega), if_neg hms]

end

-- ## The obligation

theorem qfmt_eq (s : State) (t : QFmt) : qfmt s.f t = Rule.mxFmt s t := by
  cases t <;> simp only [qfmt, Rule.mxFmt, slotBits_eq] <;> rfl

/-- The value of source value i, in lanes of vA and of vA + 1. -/
theorem decode_vqmxSource (s : State) (a i : Nat) :
    f32.decode (vqmxSource s a i) = f32.decode (if i < s.vl then s.v a i else s.v (a + 1) (i - s.vl)).toNat := by
  rw [vqmxSource, apply_ite BitVec.toNat]

theorem blockScale_eq (s : State) (q : Fmt × Nat) (a j : Nat) :
    blockScale s q a j = mxScale q.1 ((List.range 32).map fun i => f32.decode (vqmxSource s a (32 * j + i))) := by
  rw [blockScale, upFrom, List.map_map]
  rfl

theorem exec_vqmx (s : State) (t : QFmt) (sb c : Fin 4) (d a x : VReg) (e : Bool) :
    exec (.vqmx t sb c d a e x) s = .next (vqmxBlocks s (Rule.mxFmt s t) sb c d a x e (2 * s.vl / 32)) := by
  rw [← qfmt_eq]
  rfl

/-- Settles O20: each lane of vB and of vD belongs to at most one block, which finds it as it stood; VDQMX writes one register after
the other. -/
theorem vectorMxBlocks : Obligations.VectorMxBlocks := by
  intro s t sb c d a x e
  refine ⟨fun hxd _ => ⟨_, exec_vqmx s t sb c d a x e, ?_⟩, fun hxd _ => ⟨_, exec_vqmx s t sb c d a x e, ?_⟩, ?_⟩
  · have hne : (x : Nat) ≠ d := fun h => hxd (Fin.ext h)
    obtain ⟨hcg, hrest⟩ := vqmxBlocks_sameButV s (Rule.mxFmt s t) sb c d a x e (2 * s.vl / 32)
    refine ⟨fun l hl hin m hm => ?_, fun l hl hin => ?_, fun l hl hin m hm => ?_, fun l hl hin => ?_, fun k hkx hkd l hl => ?_,
      fun l => ?_, hcg, hrest⟩
    · rw [vqmxBlocks_scale s _ sb c d a x e hne hl hin hm, blockScale_eq]
      simp only [decode_vqmxSource]
      rfl
    · exact vqmxBlocks_of_not s _ sb c d a x e hl (fun _ => hin) fun h => absurd h hne
    · rw [vqmxBlocks_elem s _ sb c d a x e hne hl hin hm, blockScale_eq]
      simp only [decode_vqmxSource]
      rfl
    · exact vqmxBlocks_of_not s _ sb c d a x e hl (fun h => absurd h.symm hne) fun _ => hin
    · exact vqmxBlocks_of_not s _ sb c d a x e hl (fun h => absurd h hkx) fun h => absurd h hkd
    · exact vqmxBlocks_lfsr s _ sb c d a x e l
  · exact ⟨fun l hl hscale hchunk => vqmxBlocks_of_not s _ sb c d a x e hl (fun _ => hscale) fun _ => hchunk,
      fun k hk l hl => vqmxBlocks_of_not s _ sb c d a x e hl (fun h => absurd (hxd ▸ h) hk) fun h => absurd h hk⟩
  · rw [← qfmt_eq]
    exact ⟨_, _, rfl, writesV_maskLanes s s d _, writesV_maskLanes s _ _ _⟩

end Sys2Proof.Machine
end

section
/-!
PROOFS. MPUSH (R283, R319) from a stream whose pattern holds five counts: the model's TOTAL is the product of all five, the statement's
that of the first four.
-/
namespace Sys2Proof.Machine
open State

-- ## A slot that traps, and an MPUSH that completes

theorem takeTrap_status (s : State) (t : Trap) : (s.takeTrap t).cur.status = .killed ∨ (s.takeTrap t).cur.status = .trapped := by
  unfold takeTrap
  dsimp only
  split
  · exact .inl rfl
  · exact .inr rfl

/-- A row that passes the checks of R283 and stands in the buffer with no marked byte is read from there. -/
theorem readRow_of_held {s : State} {i r : Nat} (htrap : rowTrap (s.stream i) .rd r = none)
    (hheld : r / (s.stream i).esize ≤ (s.stream i).held) (hclean : ∀ y ∈ (s.stream i).buf, y.2 = false) :
    ∃ x row, s.readRow i r true = .ok (s.modT fun t => setStream t i x) row := by
  have hfill : fillStream s.rg.tile (s.stream i) (r / (s.stream i).esize - (s.stream i).held) = s.stream i := by
    rw [Nat.sub_eq_zero_of_le hheld]
    rfl
  have hrow : ((s.stream i).buf.take r).any (·.2) = false :=
    List.any_eq_false.mpr fun y hy => Bool.eq_false_iff.mp (hclean y (List.mem_of_mem_take hy))
  unfold readRow
  simp only [htrap, hfill, hrow]
  exact ⟨_, _, rfl⟩

theorem pushRow_cur {s : State} (row : List Byte) (scale : Nat) (m : MIdx) (hxs : mopXs s.mat.mopw = false) :
    (s.pushRow row scale m).cur = s.cur := by
  unfold pushRow scaleRow
  rw [hxs]
  rfl

/-- MPUSH without XS completes when its row stands in the buffer. -/
theorem exec_mpush_of_held {s : State} {r : SReg} (m : MIdx) (hfrozen : s.mat.frozen = false) (hxs : mopXs s.mat.mopw = false)
    (htrap : rowTrap (s.stream r) .rd 256 = none) (hheld : 256 / (s.stream r).esize ≤ (s.stream r).held)
    (hclean : ∀ y ∈ (s.stream r).buf, y.2 = false) : ∃ t, exec (.mpush r m) s = .next t ∧ t.cur = s.cur := by
  obtain ⟨x, row, hrow⟩ := readRow_of_held htrap hheld hclean
  have hxs' : mopXs (s.modT fun t => setStream t r x).mat.mopw = false := by
    rw [State.mat, modT, cg_modG]
    exact hxs
  have hcur := pushRow_cur row (r.val ^^^ 1) m hxs'
  refine ⟨_, ?_, hcur⟩
  change execMpush r m s = _
  rw [execMpush, unfrozen, hfrozen, hrow]
  rfl

-- ## A pattern of five counts

/-- A read stream of 64 elements of 4 bytes, all in its buffer: one row of MPUSH, of which the fifth count alone makes up the 64. -/
def fiveCountStream : Stream := { Stream.zero with dir := .rd, c := [1, 1, 1, 1, 64], buf := List.replicate 256 (0, false) }

/-- A tile with this stream issues. -/
def fiveCountState : State :=
  { State.reset with groups := [(0, { Group.zero with kind := .tensor, tile := { Tile.zero with streams := [(0, fiveCountStream)] } })]
                     cur := State.idleCur }

theorem rowTrap_fiveCountStream : rowTrap fiveCountStream .rd 256 = none := by decide

theorem held_fiveCountStream : fiveCountStream.held = 64 := by
  rw [Stream.held, fiveCountStream, List.length_replicate]
  rfl

theorem mem_fiveCountStream (y : Byte × Bool) (hy : y ∈ fiveCountStream.buf) : y.2 = false :=
  congrArg Prod.snd (List.eq_of_mem_replicate hy)

theorem mpush_fiveCountState : ∃ t, exec (.mpush 0 (.at 0)) fiveCountState = .next t ∧ t.cur = fiveCountState.cur :=
  exec_mpush_of_held (.at 0) rfl rfl rowTrap_fiveCountStream (Nat.le_of_eq held_fiveCountStream.symm) mem_fiveCountStream

/-- Refutes O46: the clause of ILLEGAL 6, unlike those with `Rule.RowReady`, does not ask that the stream be `Rule.Shaped`. For stream 0
of `fiveCountState` the statement's TOTAL is 1, so that it asks for the trap; the model's is 64, and MPUSH completes. -/
theorem not_matrixBeats : ¬ Obligations.MatrixBeats := by
  intro h
  obtain ⟨hstream, -⟩ := h
  obtain ⟨htrap, -⟩ := hstream fiveCountState 0 (.at 0) false rfl
  have hpast : Rule.total fiveCountStream < fiveCountStream.cons + 256 / Rule.esz fiveCountStream := by decide
  obtain ⟨hexec, -⟩ := htrap 6 (.inr (.inr ⟨rfl, by decide, rfl, hpast, rfl⟩))
  obtain ⟨t, ht, hcur⟩ := mpush_fiveCountState
  have htaken := takeTrap_status fiveCountState (Rule.trapOf .illegal 6 0 0)
  rw [← Host.Outcome.next.inj (ht.symm.trans hexec), hcur] at htaken
  exact absurd htaken (by decide)

end Sys2Proof.Machine
end

section
/-!
PROOFS. The decision of the governor (R410): which steps are dropped, in which order, when it stops, and which step it selects.
-/
namespace Sys2Proof.Machine
open State

-- ## The steps that a decision considers

theorem bitIn_iff_testBit (m i : Nat) : Rule.bitIn m i ↔ m.testBit i = true := by
  rw [← bitOf_eq_testBit, bitOf, beq_iff_eq]

theorem bitOf_eq_true_iff (m i : Nat) : bitOf m i = true ↔ Rule.bitIn m i := beq_iff_eq

theorem bitIn_setBit (m i j : Nat) : Rule.bitIn (setBit m i true) j ↔ j = i ∨ Rule.bitIn m j := by
  rw [bitIn_iff_testBit, testBit_setBit, bitIn_iff_testBit]
  by_cases h : j = i <;> simp [h]

theorem eq_of_bitIn_iff {m n : Nat} (h : ∀ i, Rule.bitIn m i ↔ Rule.bitIn n i) : m = n :=
  Nat.eq_of_testBit_eq fun i => Bool.eq_iff_iff.mpr (by simpa only [bitIn_iff_testBit] using h i)

/-- The steps below `n`, from index `b` on, that the mask `D` does not drop (R410). -/
def undropped (n D b : Nat) : List Nat := (List.range n).filter fun i => decide (b ≤ i) && D / 2 ^ i % 2 == 0

theorem mem_undropped {n D b i : Nat} : i ∈ undropped n D b ↔ i < n ∧ b ≤ i ∧ ¬Rule.bitIn D i := by
  rw [undropped, List.mem_filter, List.mem_range, Bool.and_eq_true, decide_eq_true_eq, beq_iff_eq, Rule.bitIn]
  omega

theorem nodup_undropped (n D b : Nat) : (undropped n D b).Nodup := List.nodup_range.filter _

theorem length_undropped_le (n D b : Nat) : (undropped n D b).length ≤ n :=
  Nat.le_trans (List.length_filter_le _ _) (Nat.le_of_eq List.length_range)

/-- A step dropped is one step less to consider. -/
theorem undropped_setBit (n D b i : Nat) : undropped n (setBit D i true) b = (undropped n D b).erase i := by
  rw [(nodup_undropped n D b).erase_eq_filter, undropped, undropped, List.filter_filter]
  refine List.filter_congr fun j _ => ?_
  have hbit := bitIn_setBit D i j
  rw [Rule.bitIn, Rule.bitIn] at hbit
  rw [Bool.eq_iff_iff]
  simp only [Bool.and_eq_true, decide_eq_true_eq, beq_iff_eq, bne_iff_ne]
  omega

section
variable (f : Frame) (D b : Nat)

theorem zipIdx_steps : f.steps.zipIdx = (List.range f.steps.length).map fun i => (Rule.stepAt f i, i) := by
  refine List.ext_getElem (by simp) fun i h _ => ?_
  have hi : i < f.steps.length := by simpa using h
  simp [Rule.stepAt, hi]

theorem zipIdx_filter_steps (p : PlanStep × Nat → Bool) (q : Nat → Bool) (h : ∀ i, p (Rule.stepAt f i, i) = q i) :
    f.steps.zipIdx.filter p = ((List.range f.steps.length).filter q).map fun i => (Rule.stepAt f i, i) := by
  rw [zipIdx_steps, List.filter_map]
  exact congrArg _ (List.filter_congr fun i _ => h i)

theorem planSum_eq : planSum f.steps D b = ((undropped f.steps.length D b).map fun i => (Rule.stepAt f i).est).sum := by
  have hbit : ∀ i, (!bitOf D i) = (D / 2 ^ i % 2 == 0) := fun i => by
    rw [bitOf, Bool.eq_iff_iff, Bool.not_eq_true', beq_eq_false_iff_ne, beq_iff_eq, Nat.mod_two_ne_one]
  rw [planSum, zipIdx_filter_steps f _ (fun i => decide (b ≤ i) && D / 2 ^ i % 2 == 0) fun i => by simp only [hbit],
    List.foldl_map, List.sum_eq_foldl, List.foldl_map]
  rfl

/-- The slack of R410 is what the model subtracts. -/
theorem slackAt_eq (now : Nat) : (f.deadline : Int) - f.margin - now - planSum f.steps D b = Rule.slackAt f D b now := by
  rw [planSum_eq]
  rfl

/-- A step dropped gives its estimate back. -/
theorem slackAt_setBit (now : Nat) {i : Nat} (hi : i ∈ undropped f.steps.length D b) :
    Rule.slackAt f (setBit D i true) b now = Rule.slackAt f D b now + (Rule.stepAt f i).est := by
  have hsum : planSum f.steps D b = (Rule.stepAt f i).est + planSum f.steps (setBit D i true) b := by
    rw [planSum_eq, planSum_eq, undropped_setBit]
    exact ((List.perm_cons_erase hi).map fun i => (Rule.stepAt f i).est).sum_nat
  rw [← slackAt_eq, ← slackAt_eq]
  omega

end

-- ## The step that is dropped next

/-- Keep the step of less rank, the earlier one of equals. -/
def leastRank (o : Option (Nat × PlanStep)) (x : PlanStep × Nat) : Option (Nat × PlanStep) :=
  match o with
  | none => some (x.2, x.1)
  | some y => if x.1.rank < y.2.rank then some (x.2, x.1) else o

theorem foldl_leastRank (l : List (PlanStep × Nat)) (y : Nat × PlanStep) :
    ∃ z, l.foldl leastRank (some y) = some z ∧ (z = y ∨ z.swap ∈ l) ∧ z.2.rank ≤ y.2.rank ∧ ∀ x ∈ l, z.2.rank ≤ x.1.rank := by
  induction l generalizing y with
  | nil => exact ⟨y, rfl, .inl rfl, Nat.le_refl _, fun _ hx => nomatch hx⟩
  | cons x r ih =>
    rw [List.foldl_cons, leastRank]
    split
    case isTrue hlt =>
      obtain ⟨z, hz, hmem, hle, hr⟩ := ih (x.2, x.1)
      refine ⟨z, hz, .inr ?_, Nat.le_trans hle (Nat.le_of_lt hlt), List.forall_mem_cons.mpr ⟨hle, hr⟩⟩
      rcases hmem with rfl | hmem
      · exact List.mem_cons_self
      · exact List.mem_cons_of_mem x hmem
    case isFalse hlt =>
      obtain ⟨z, hz, hmem, hle, hr⟩ := ih y
      exact ⟨z, hz, hmem.imp_right (List.mem_cons_of_mem x), hle, List.forall_mem_cons.mpr ⟨Nat.le_trans hle (Nat.le_of_not_lt hlt), hr⟩⟩

section
variable {f : Frame} {D b : Nat}

/-- The droppable steps in the form in which `nextDrop` folds over them. -/
def droppable (f : Frame) (D b : Nat) : List (PlanStep × Nat) :=
  f.steps.zipIdx.filter fun x => decide (b ≤ x.2) && !bitOf D x.2 && x.1.drop

theorem nextDrop_eq : nextDrop f.steps D b = (droppable f D b).foldl leastRank none := rfl

theorem mem_droppable {x : PlanStep × Nat} : x ∈ droppable f D b ↔ x.1 = Rule.stepAt f x.2 ∧ Rule.mayDrop f D b x.2 := by
  rw [droppable, List.mem_filter, zipIdx_steps, List.mem_map]
  simp only [Bool.and_eq_true, decide_eq_true_eq, Bool.not_eq_true', ← Bool.not_eq_true, bitOf_eq_true_iff, Rule.mayDrop]
  constructor
  · rintro ⟨⟨i, hi, rfl⟩, ⟨hb, hD⟩, hdrop⟩
    exact ⟨rfl, hb, List.mem_range.mp hi, hD, hdrop⟩
  · rintro ⟨hx, hb, hi, hD, hdrop⟩
    exact ⟨⟨x.2, List.mem_range.mpr hi, Prod.ext hx.symm rfl⟩, ⟨hb, hD⟩, hx ▸ hdrop⟩

theorem not_mayDrop_of_nextDrop_none (h : nextDrop f.steps D b = none) (r : Nat) : ¬Rule.mayDrop f D b r := by
  intro hr
  have hmem : (Rule.stepAt f r, r) ∈ droppable f D b := mem_droppable.mpr ⟨rfl, hr⟩
  rw [nextDrop_eq] at h
  cases hl : droppable f D b with
  | nil =>
    rw [hl] at hmem
    exact absurd hmem List.not_mem_nil
  | cons x l =>
    obtain ⟨z, hz, -⟩ := foldl_leastRank l (x.2, x.1)
    rw [hl] at h
    exact absurd (hz.symm.trans h) (Option.some_ne_none z)

theorem nextDrop_some {z : Nat × PlanStep} (h : nextDrop f.steps D b = some z) :
    z.2 = Rule.stepAt f z.1 ∧ Rule.mayDrop f D b z.1 ∧
      ∀ r, Rule.mayDrop f D b r → (Rule.stepAt f z.1).rank ≤ (Rule.stepAt f r).rank := by
  rw [nextDrop_eq] at h
  cases hl : droppable f D b with
  | nil =>
    rw [hl] at h
    exact absurd h.symm (Option.some_ne_none z)
  | cons x l =>
    obtain ⟨z', hz, hmem, hle, hr⟩ := foldl_leastRank l (x.2, x.1)
    rw [hl] at h
    obtain rfl : z' = z := Option.some.inj (hz.symm.trans h)
    have hin : z'.swap ∈ droppable f D b := by
      rw [hl]
      rcases hmem with rfl | hmem
      · exact List.mem_cons_self
      · exact List.mem_cons_of_mem x hmem
    obtain ⟨hstep, hmay⟩ := mem_droppable.mp hin
    refine ⟨hstep, hmay, fun r hmayr => ?_⟩
    have hinr : (Rule.stepAt f r, r) ∈ x :: l := hl ▸ mem_droppable.mpr ⟨rfl, hmayr⟩
    have hall : ∀ y ∈ x :: l, z'.2.rank ≤ y.1.rank := List.forall_mem_cons.mpr ⟨hle, hr⟩
    exact hstep ▸ hall _ hinr

theorem mayDrop_mem_undropped {i : Nat} (h : Rule.mayDrop f D b i) : i ∈ undropped f.steps.length D b := by
  obtain ⟨hb, hi, hD, -⟩ := h
  exact mem_undropped.mpr ⟨hi, hb, hD⟩

theorem mayDrop_of_subset {D' r : Nat} (h : ∀ i, Rule.bitIn D i → Rule.bitIn D' i) (hr : Rule.mayDrop f D' b r) :
    Rule.mayDrop f D b r := by
  obtain ⟨hb, hi, hD, hdrop⟩ := hr
  exact ⟨hb, hi, fun hin => hD (h r hin), hdrop⟩

/-- Unique ranks: two steps that may be dropped and have one rank are one step. -/
theorem mayDrop_rank_inj (hu : Rule.RanksUnique f.steps) {i r : Nat} (hi : Rule.mayDrop f D b i) (hr : Rule.mayDrop f D b r)
    (hrank : (Rule.stepAt f i).rank = (Rule.stepAt f r).rank) : i = r := by
  obtain ⟨-, hi, -, hidrop⟩ := hi
  obtain ⟨-, hr, -, hrdrop⟩ := hr
  have hget : ∀ j (hj : j < f.steps.length), Rule.stepAt f j = f.steps[j] := fun j hj => by simp [Rule.stepAt, hj]
  rw [hget i hi] at hidrop hrank
  rw [hget r hr] at hrdrop hrank
  rcases Nat.lt_trichotomy i r with h | h | h
  · exact absurd hrank (List.pairwise_iff_getElem.mp hu i r hi hr h hidrop hrdrop)
  · exact h
  · exact absurd hrank.symm (List.pairwise_iff_getElem.mp hu r i hr hi h hrdrop hidrop)

end

-- ## Dropping while the slack is negative

/-- Steps go from `D` to `D'` by rising rank, each while the slack is negative (R410). -/
def DropsTo (f : Frame) (b now D D' : Nat) : Prop :=
  (∀ s, Rule.bitIn D s → Rule.bitIn D' s) ∧
  ∀ s, Rule.bitIn D' s → ¬Rule.bitIn D s → Rule.mayDrop f D b s ∧
    (∀ r, Rule.mayDrop f D' b r → (Rule.stepAt f s).rank < (Rule.stepAt f r).rank) ∧
    ((∀ r, Rule.bitIn D' r → ¬Rule.bitIn D r → (Rule.stepAt f r).rank ≤ (Rule.stepAt f s).rank) →
      Rule.slackAt f D' b now < (Rule.stepAt f s).est)

theorem dropsTo_refl (f : Frame) (b now D : Nat) : DropsTo f b now D D :=
  ⟨fun _ h => h, fun _ h hn => absurd h hn⟩

/-- One drop of the least rank before others. -/
theorem DropsTo.cons {f : Frame} {b now D D' i : Nat} (hu : Rule.RanksUnique f.steps) (hneg : Rule.slackAt f D b now < 0)
    (hi : Rule.mayDrop f D b i) (hleast : ∀ r, Rule.mayDrop f D b r → (Rule.stepAt f i).rank ≤ (Rule.stepAt f r).rank)
    (h : DropsTo f b now (setBit D i true) D') : DropsTo f b now D D' := by
  obtain ⟨hsub, hnew⟩ := h
  have hiD' : Rule.bitIn D' i := hsub i ((bitIn_setBit D i i).mpr (.inl rfl))
  have hD1 : ∀ s, Rule.bitIn D s → Rule.bitIn (setBit D i true) s := fun s hs => (bitIn_setBit D i s).mpr (.inr hs)
  have hDD' : ∀ s, Rule.bitIn D s → Rule.bitIn D' s := fun s hs => hsub s (hD1 s hs)
  have hlt : ∀ r, Rule.mayDrop f D b r → r ≠ i → (Rule.stepAt f i).rank < (Rule.stepAt f r).rank := fun r hr hne =>
    Nat.lt_of_le_of_ne (hleast r hr) fun heq => hne (mayDrop_rank_inj hu hi hr heq).symm
  refine ⟨hDD', fun s hs hsD => ?_⟩
  by_cases hsi : s = i
  · subst hsi
    refine ⟨hi, fun r hr => hlt r (mayDrop_of_subset hDD' hr) ?_, fun hmax => ?_⟩
    · rintro rfl
      obtain ⟨-, -, hrD', -⟩ := hr
      exact hrD' hiD'
    · have hlast : D' = setBit D s true := eq_of_bitIn_iff fun r => by
        refine ⟨fun hr => Decidable.byContradiction fun hr1 => ?_, hsub r⟩
        obtain ⟨hmay, -⟩ := hnew r hr hr1
        have hrD : ¬Rule.bitIn D r := fun hrD => hr1 (hD1 r hrD)
        have hrs : r ≠ s := fun heq => hr1 ((bitIn_setBit D s r).mpr (.inl heq))
        exact absurd (hmax r hr hrD) (Nat.not_le.mpr (hlt r (mayDrop_of_subset hD1 hmay) hrs))
      rw [hlast, slackAt_setBit f D b now (mayDrop_mem_undropped hi)]
      omega
  · have hs1 : ¬Rule.bitIn (setBit D i true) s := fun h1 => ((bitIn_setBit D i s).mp h1).elim hsi hsD
    obtain ⟨hmay, hrank, hslack⟩ := hnew s hs hs1
    exact ⟨mayDrop_of_subset hD1 hmay, hrank, fun hmax => hslack fun r hr hr1 => hmax r hr fun hrD => hr1 (hD1 r hrD)⟩

/-- What the loop of R410 answers: drops by rising rank, the slack they leave, and whether it is negative with nothing left to drop. -/
theorem dropLoop_spec {f : Frame} (hu : Rule.RanksUnique f.steps) (b now : Nat) (fuel D : Nat)
    (hfuel : (undropped f.steps.length D b).length < fuel) :
    ∃ D' late, dropLoop f.steps b fuel D (Rule.slackAt f D b now) = (D', Rule.slackAt f D' b now, late) ∧ DropsTo f b now D D' ∧
      (late = true ↔ Rule.slackAt f D' b now < 0) ∧ (Rule.slackAt f D' b now < 0 → ∀ r, ¬Rule.mayDrop f D' b r) := by
  induction fuel generalizing D with
  | zero => exact absurd hfuel (Nat.not_lt_zero _)
  | succ fuel ih =>
    by_cases hneg : 0 ≤ Rule.slackAt f D b now
    · refine ⟨D, false, ?_, dropsTo_refl f b now D, ?_, fun h => absurd hneg (Int.not_le.mpr h)⟩
      · rw [dropLoop, if_pos hneg]
      · simpa using hneg
    cases hnext : nextDrop f.steps D b with
    | none =>
      refine ⟨D, true, ?_, dropsTo_refl f b now D, ?_, fun _ => not_mayDrop_of_nextDrop_none hnext⟩
      · rw [dropLoop, if_neg hneg, hnext]
      · simpa using hneg
    | some z =>
      obtain ⟨hstep, hmay, hleast⟩ := nextDrop_some hnext
      have hmem := mayDrop_mem_undropped hmay
      have hless : (undropped f.steps.length (setBit D z.1 true) b).length < fuel := by
        rw [undropped_setBit, List.length_erase_of_mem hmem]
        have hpos := List.length_pos_of_mem hmem
        omega
      obtain ⟨D', late, hloop, hdrops, hrest⟩ := ih (setBit D z.1 true) hless
      refine ⟨D', late, ?_, hdrops.cons hu (Int.not_le.mp hneg) hmay hleast, hrest⟩
      rw [dropLoop, if_neg hneg, hnext, ← hloop, slackAt_setBit f D b now hmem, ← hstep]

-- ## The answer

theorem mem_upFrom {a n i : Nat} : i ∈ upFrom a n ↔ a ≤ i ∧ i < a + n := by
  rw [upFrom, List.mem_map]
  exact ⟨by rintro ⟨j, hj, rfl⟩; have := List.mem_range.mp hj; omega,
    fun ⟨ha, hi⟩ => ⟨i - a, List.mem_range.mpr (by omega), by omega⟩⟩

theorem upFrom_find?_none {D b n : Nat} (h : (upFrom b (n - b)).find? (fun i => !bitOf D i) = none) (s : Nat) (hb : b ≤ s) (hs : s < n) :
    Rule.bitIn D s := by
  have hbit := List.find?_eq_none.mp h s (mem_upFrom.mpr ⟨hb, by omega⟩)
  simpa [bitOf] using hbit

theorem upFrom_find?_some {D b n i : Nat} (h : (upFrom b (n - b)).find? (fun i => !bitOf D i) = some i) :
    b ≤ i ∧ i < n ∧ ¬Rule.bitIn D i ∧ ∀ s, b ≤ s → s < i → Rule.bitIn D s := by
  rw [upFrom, List.find?_map, Option.map_eq_some_iff] at h
  obtain ⟨j, hj, rfl⟩ := h
  obtain ⟨hbit, hmem, hbefore⟩ := List.find?_range_eq_some.mp hj
  have hjn := List.mem_range.mp hmem
  refine ⟨by omega, by omega, by simpa [bitOf] using hbit, fun s hb hs => ?_⟩
  have hset := hbefore (s - b) (by omega)
  simpa [bitOf, Nat.add_sub_cancel' hb] using hset

/-- The frame with the drops of the decision at boundary b, and whether it is late. -/
def droppedFrame (f : Frame) (b now : Nat) : Frame :=
  let r := dropLoop f.steps b 33 f.dropped ((f.deadline : Int) - f.margin - now - planSum f.steps f.dropped b)
  { f with dropped := r.1, slack := r.2.1, late := f.late || r.2.2 }

/-- The step that a decision selects: the least one from b on that is not dropped. -/
def selected (f : Frame) (b : Nat) : Option Nat := (upFrom b (f.steps.length - b)).find? fun n => !bitOf f.dropped n

/-- Step n selected at `now`, and its step word (R406, R410). -/
def selectStep (f : Frame) (now n : Nat) : Frame × Bool × Nat :=
  ({ f with run := setBit f.run n true, next := n, start := now }, false,
    stepWord f.handle (if 0 < n ∧ bitOf f.dropped (n - 1) then (Rule.stepAt f n).subst else (Rule.stepAt f n).coef) n)

theorem decideFrame_eq (f : Frame) (b now : Nat) :
    decideFrame f b now = (selected (droppedFrame f b now) b).elim (droppedFrame f b now, true, endWord f.handle)
      (selectStep (droppedFrame f b now) now) := by
  change (match selected (droppedFrame f b now) b with | none => _ | some n => _) = _
  cases selected (droppedFrame f b now) b with
  | none => rfl
  | some n => rfl

/-- A frame with the outcome of a decision: only what the decision writes is compared. -/
theorem decided_congr {f g g' : Frame} {b now w : Nat} {ends : Prop} (h : Rule.Decided f g b now w ends)
    (hdropped : g'.dropped = g.dropped) (hlate : g'.late = g.late) (hrun : g'.run = g.run)
    (hstep : ¬ends → g'.next = g.next ∧ g'.start = g.start ∧ g'.slack = g.slack ∧ g'.open_ = g.open_) :
    Rule.Decided f g' b now w ends := by
  obtain ⟨hsub, hnew, hneg, hlate', hends, hclose, hgo⟩ := h
  rw [← hdropped] at hsub hnew hneg hends
  rw [← hdropped, ← hlate] at hlate'
  rw [← hrun] at hclose
  refine ⟨hsub, hnew, hneg, hlate', hends, hclose, fun hn => ?_⟩
  obtain ⟨hnext, hstart, hslack, hopen⟩ := hstep hn
  rw [hnext, hstart, hslack, hopen, hrun, hdropped]
  exact hgo hn

/-- The model's decision is that of R410, where ranks are unique and a plan has at most 32 steps. -/
theorem decideFrame_decided {f : Frame} (b now : Nat) (hu : Rule.RanksUnique f.steps) (hlen : f.steps.length ≤ 32) :
    Rule.Decided f (decideFrame f b now).1 b now (decideFrame f b now).2.2 ((decideFrame f b now).2.1 = true) := by
  have hfuel : (undropped f.steps.length f.dropped b).length < 33 := Nat.lt_of_le_of_lt (length_undropped_le _ _ _) (Nat.lt_succ_of_le hlen)
  obtain ⟨D', late, hloop, ⟨hsub, hnew⟩, hlate, hneg⟩ := dropLoop_spec hu b now 33 f.dropped hfuel
  have hframe : droppedFrame f b now =
      { f with dropped := D', slack := Rule.slackAt f D' b now, late := f.late || late } := by
    rw [droppedFrame, slackAt_eq, hloop]
  have hlate' : (f.late || late) = true ↔ f.late = true ∨ Rule.slackAt f D' b now < 0 := by rw [Bool.or_eq_true, hlate]
  rw [decideFrame_eq, hframe]
  cases hsel : selected { f with dropped := D', slack := Rule.slackAt f D' b now, late := f.late || late } b with
  | none =>
    have hall := upFrom_find?_none hsel
    exact ⟨hsub, hnew, hneg, hlate', ⟨fun _ => hall, fun _ => rfl⟩, fun _ => ⟨rfl, rfl⟩, fun h => absurd rfl h⟩
  | some n =>
    obtain ⟨hb, hn, hnD, hbefore⟩ := upFrom_find?_some hsel
    refine ⟨hsub, hnew, hneg, hlate', ⟨fun h => absurd h Bool.false_ne_true, fun h => absurd (h n hb hn) hnD⟩,
      fun h => absurd h Bool.false_ne_true, fun _ => ?_⟩
    refine ⟨n, hb, hn, hnD, hbefore, fun s => (bitIn_setBit f.run n s).trans Or.comm, rfl, rfl, rfl, rfl, ?_⟩
    simp only [Option.elim_some, selectStep, stepWord, bitOf_eq_true_iff]
    rw [Nat.add_right_comm, Nat.mul_comm (2 ^ 32)]
    rfl

end Sys2Proof.Machine
end

section
/-!
PROOFS. The frames of the governor in the state (R404, R412): what an answer makes of the list of frames, that a close keeps it, the
words of the frame record (R407), and the checks of a plan (R405, R414).
-/
namespace Sys2Proof.Machine
open State

-- ## What the writes of a close leave unchanged

theorem SameButMemory.frames {s t : State} (h : SameButMemory s t) : t.frames = s.frames := (congrArg State.frames h :)

section
variable (s : State)

@[simp] theorem mergeLine_frames (line : Nat) : (s.mergeLine line).frames = s.frames := by
  rw [mergeLine_eq (a := (s.mergeSpan (lineOf line)).1) (n := (s.mergeSpan (lineOf line)).2) rfl]
  exact (sameButMemory_performStores _ _).frames

@[simp] theorem queueStore_frames (src grp split lane pa : Nat) (data : List Byte) (bad : Bool) :
    (s.queueStore src grp split lane pa data bad).frames = s.frames := by
  unfold queueStore
  split <;> rfl

@[simp] theorem storeNow_frames (src pa : Nat) (data : List Byte) (bad : Bool) : (s.storeNow src pa data bad).frames = s.frames :=
  foldl_keeps (·.frames = s.frames) mergeLine _ _ (queueStore_frames s.nextSeq src _ 0 0 pa data bad)
    fun t line _ ht => (mergeLine_frames t line).trans ht

/-- The writes of a close, or the record that stands for them, change no frame (R412). -/
@[simp] theorem closeWrites_frames (f : Frame) : (s.closeWrites f).frames = s.frames := by
  unfold closeWrites
  dsimp only
  split
  · refine foldl_keeps (·.frames = s.frames) _ _ s rfl fun t w _ ht => ?_
    split
    · exact (storeNow_frames t _ _ _ _).trans ht
    · exact ht
  · rfl

end

-- ## The frame after an answer

/-- The answer recorded in the frame: at arm, or as the answer to the report of a step (R409, R411). -/
def recordAnswer (f : Frame) (w : Nat) : Option Nat → Frame
  | none => { f with atArm := w }
  | some st => { f with answers := Sparse.insert f.answers st w }

/-- A frame closed by an END answer (R412). -/
def closedFrame (f : Frame) (vnow now : Nat) : Frame :=
  { f with open_ := false, closet := now, slack := (f.deadline : Int) - f.margin - vnow, abandoned := false, next := 0xFF }

/-- A frame after the decision at boundary b, whose answer is recorded (R409 to R412). -/
def answeredFrame (f : Frame) (at_ : Option Nat) (b vnow now : Nat) : Frame :=
  let r := decideFrame f b vnow
  if r.2.1 then closedFrame (recordAnswer r.1 r.2.2 at_) vnow now else recordAnswer r.1 r.2.2 at_

/-- Two frames of one gang, handle and plan: they differ at most in what decisions, reports and the close write (R404, R410 to R412). -/
def SamePlan (f g : Frame) : Prop :=
  { g with dropped := f.dropped, slack := f.slack, late := f.late, run := f.run, next := f.next, start := f.start, open_ := f.open_,
           closet := f.closet, abandoned := f.abandoned, atArm := f.atArm, answers := f.answers } = f

theorem decideFrame_samePlan (f : Frame) (b now : Nat) : SamePlan f (decideFrame f b now).1 := by
  rw [decideFrame_eq]
  cases selected (droppedFrame f b now) b <;> rfl

theorem decideFrame_answers (f : Frame) (b now : Nat) : (decideFrame f b now).1.answers = f.answers := by
  rw [decideFrame_eq]
  cases selected (droppedFrame f b now) b <;> rfl

theorem SamePlan.recordAnswer {f g : Frame} (h : SamePlan f g) (w : Nat) (at_ : Option Nat) : SamePlan f (recordAnswer g w at_) := by
  cases at_ <;> exact h

section
variable {f g : Frame} (h : SamePlan f g)
include h

theorem SamePlan.no : g.no = f.no := (congrArg Frame.no h :)
theorem SamePlan.plan : g.plan = f.plan := (congrArg Frame.plan h :)
theorem SamePlan.tag : g.tag = f.tag := (congrArg Frame.tag h :)
theorem SamePlan.margin : g.margin = f.margin := (congrArg Frame.margin h :)
theorem SamePlan.steps : g.steps = f.steps := (congrArg Frame.steps h :)
theorem SamePlan.deadline : g.deadline = f.deadline := (congrArg Frame.deadline h :)

end

section
variable (f : Frame) (at_ : Option Nat) (b vnow now : Nat)

theorem answeredFrame_samePlan : SamePlan f (answeredFrame f at_ b vnow now) := by
  have hsame := (decideFrame_samePlan f b vnow).recordAnswer (decideFrame f b vnow).2.2 at_
  unfold answeredFrame
  dsimp only
  split
  · exact hsame
  · exact hsame

theorem answeredFrame_of_ends (h : (decideFrame f b vnow).2.1 = true) : answeredFrame f at_ b vnow now =
    closedFrame (recordAnswer (decideFrame f b vnow).1 (decideFrame f b vnow).2.2 at_) vnow now := if_pos h

theorem answeredFrame_of_goes (h : ¬(decideFrame f b vnow).2.1 = true) : answeredFrame f at_ b vnow now =
    recordAnswer (decideFrame f b vnow).1 (decideFrame f b vnow).2.2 at_ := if_neg h

theorem answeredFrame_atArm : (answeredFrame f none b vnow now).atArm = (decideFrame f b vnow).2.2 := by
  unfold answeredFrame
  dsimp only
  split <;> rfl

theorem answeredFrame_answers (st : Nat) :
    (answeredFrame f (some st) b vnow now).answers = Sparse.insert f.answers st (decideFrame f b vnow).2.2 := by
  rw [← decideFrame_answers f b vnow]
  unfold answeredFrame
  dsimp only
  split <;> rfl

/-- Recording the answer and closing the frame leave what R410 says of the decision. -/
theorem answeredFrame_decided (hu : Rule.RanksUnique f.steps) (hlen : f.steps.length ≤ 32) :
    Rule.Decided f (answeredFrame f at_ b vnow now) b vnow (decideFrame f b vnow).2.2 ((decideFrame f b vnow).2.1 = true) := by
  have hdec := decideFrame_decided b vnow hu hlen
  by_cases h : (decideFrame f b vnow).2.1 = true
  · rw [answeredFrame_of_ends f at_ b vnow now h]
    cases at_ <;> exact decided_congr hdec rfl rfl rfl fun hn => absurd h hn
  · rw [answeredFrame_of_goes f at_ b vnow now h]
    cases at_ <;> exact decided_congr hdec rfl rfl rfl fun _ => ⟨rfl, rfl, rfl, rfl⟩

/-- A frame closed by an END answer: OPEN, CLOSET, NEXT and SLACK as R407 and R412 give them. -/
theorem answeredFrame_closed (h : (decideFrame f b vnow).2.1 = true) :
    (answeredFrame f at_ b vnow now).open_ = false ∧ (answeredFrame f at_ b vnow now).closet = now ∧
      (answeredFrame f at_ b vnow now).next = 0xFF ∧
      (answeredFrame f at_ b vnow now).slack = (f.deadline : Int) - f.margin - vnow := by
  have hsame := (decideFrame_samePlan f b vnow).recordAnswer (decideFrame f b vnow).2.2 at_
  rw [answeredFrame_of_ends f at_ b vnow now h]
  refine ⟨rfl, rfl, rfl, ?_⟩
  rw [closedFrame, hsame.deadline, hsame.margin]

end

-- ## The frames of the state after an answer

theorem mem_putFrame {s : State} {f g : Frame} :
    g ∈ (s.putFrame f).frames ↔ (g = f ∧ ∃ x ∈ s.frames, x.no = f.no) ∨ (g ∈ s.frames ∧ g.no ≠ f.no) := by
  change g ∈ s.frames.map (fun x => if x.no == f.no then f else x) ↔ _
  rw [List.mem_map]
  simp only [beq_iff_eq]
  constructor
  · rintro ⟨x, hx, rfl⟩
    split
    case isTrue h => exact .inl ⟨rfl, x, hx, h⟩
    case isFalse h => exact .inr ⟨hx, h⟩
  · rintro (⟨rfl, x, hx, h⟩ | ⟨hg, h⟩)
    · exact ⟨x, hx, if_pos h⟩
    · exact ⟨g, hg, if_neg h⟩

@[simp] theorem length_putFrame (s : State) (f : Frame) : (s.putFrame f).frames.length = s.frames.length := List.length_map _

/-- The later of two writes of one frame stands. -/
theorem putFrame_putFrame (s : State) {f g : Frame} (h : g.no = f.no) : (s.putFrame f).putFrame g = s.putFrame g := by
  unfold putFrame
  rw [List.map_map]
  congr 2
  funext x
  simp only [Function.comp_apply, beq_iff_eq, h]
  split
  · exact if_pos rfl
  · rfl

/-- An answer puts the answered frame in the place of the frame; while a step is left it changes nothing else. -/
theorem answer_spec (s : State) (f : Frame) (at_ : Option Nat) (b vnow now : Nat) :
    ∃ t, s.answer f at_ b vnow now = .word t (decideFrame f b vnow).2.2 ∧
      t.frames = (s.putFrame (answeredFrame f at_ b vnow now)).frames ∧
      (¬(decideFrame f b vnow).2.1 = true → t = s.putFrame (answeredFrame f at_ b vnow now)) := by
  let g := recordAnswer (decideFrame f b vnow).1 (decideFrame f b vnow).2.2 at_
  have hans : s.answer f at_ b vnow now =
      .word (if (decideFrame f b vnow).2.1 then (s.putFrame g).closeFrame g now vnow false true else s.putFrame g)
        (decideFrame f b vnow).2.2 := by
    cases at_ <;> rfl
  refine ⟨_, hans, ?_, fun h => ?_⟩
  · by_cases h : (decideFrame f b vnow).2.1 = true
    · rw [if_pos h, answeredFrame_of_ends f at_ b vnow now h]
      exact (closeWrites_frames _ _).trans (congrArg State.frames (putFrame_putFrame s (f := g) (g := closedFrame g vnow now) rfl))
    · rw [if_neg h, answeredFrame_of_goes f at_ b vnow now h]
  · rw [if_neg h, answeredFrame_of_goes f at_ b vnow now h]

end Sys2Proof.Machine
end

section
/-!
PROOFS. GOVSTEP and GOVQ (R411, R413): the outcomes of a report, the estimate it measures, and the words of the frame record (R407).
-/
namespace Sys2Proof.Machine
open State

-- ## The words of the frame record

theorem leBytes_append (m n x y : Nat) : leBytes m x ++ leBytes n y = leBytes (m + n) (x % 256 ^ m + 256 ^ m * y) := by
  induction m generalizing x with
  | zero => simp [leBytes, Nat.mod_one]
  | succ m ih =>
    have hbyte : (x % 256 ^ (m + 1) + 256 ^ (m + 1) * y) % 256 = x % 256 := by
      rw [Nat.pow_succ', Nat.mul_assoc, Nat.add_mul_mod_self_left, Nat.mod_mul_right_mod]
    have hrest : (x % 256 ^ (m + 1) + 256 ^ (m + 1) * y) / 256 = x / 256 % 256 ^ m + 256 ^ m * y := by
      rw [Nat.pow_succ', Nat.mul_assoc, Nat.add_mul_div_left _ _ (by decide), Nat.mod_mul_right_div_self]
    rw [Nat.succ_add, leBytes, leBytes, List.cons_append, ih, hrest]
    congr 1
    exact BitVec.eq_of_toNat_eq (by simpa using hbyte.symm)

theorem ofLE_leBytes (n x : Nat) : ofLE (leBytes n x) = x % 256 ^ n := by
  induction n generalizing x with
  | zero => simp [leBytes, ofLE, Nat.mod_one]
  | succ n ih =>
    rw [leBytes, ofLE, ih, Nat.pow_succ', Nat.mod_mul, BitVec.toNat_ofNat]

/-- Word n of a frame's record (R407). -/
def recordWord (f : Frame) : Nat → Nat
  | 0 => f.armt
  | 1 => f.closet
  | 2 => f.deadline
  | 3 => (f.slack % 2 ^ 64).toNat
  | 4 => f.dropped % 2 ^ 32 + 2 ^ 32 * f.run
  | 5 => f.steps.length % 2 ^ 8 + 2 ^ 8 * (f.next % 2 ^ 8) +
      2 ^ 16 * ((if f.open_ then 1 else 0) + (if f.late then 2 else 0) + (if f.ord then 4 else 0) + (if f.abandoned then 8 else 0)) +
      2 ^ 24 * (f.handle % 2 ^ 8) + 2 ^ 32 * (f.tag % 2 ^ 16)
  | _ => 0

theorem flags_mod : ∀ o l r a : Bool, (bit o + 2 * bit l + 4 * bit r + 8 * bit a) % 256 =
    (if o then 1 else 0) + (if l then 2 else 0) + (if r then 4 else 0) + (if a then 8 else 0) := by decide

/-- The record is its eight words one after another. -/
theorem frameRecord_eq (f : Frame) : frameRecord f = (List.range 8).flatMap fun n => leBytes 8 (recordWord f n) := by
  have hzero : leBytes 18 0 = leBytes 2 0 ++ (leBytes 8 0 ++ leBytes 8 0) := by decide
  have hwords : ((List.range 8).flatMap fun n => leBytes 8 (recordWord f n)) =
      leBytes 8 f.armt ++ (leBytes 8 f.closet ++ (leBytes 8 f.deadline ++ (leBytes 8 (wrapTo 64 f.slack) ++
        (leBytes 8 (recordWord f 4) ++ (leBytes 8 (recordWord f 5) ++ (leBytes 8 0 ++ leBytes 8 0)))))) := rfl
  have hdrops : leBytes 8 (recordWord f 4) = leBytes 4 f.dropped ++ leBytes 4 f.run := by
    rw [leBytes_append]
    rfl
  have hstate : leBytes 8 (recordWord f 5) = leBytes 1 f.steps.length ++ (leBytes 1 f.next ++
      (leBytes 1 (bit f.open_ + 2 * bit f.late + 4 * bit f.ord + 8 * bit f.abandoned) ++ (leBytes 1 f.handle ++
        (leBytes 2 f.tag ++ leBytes 2 0)))) := by
    rw [leBytes_append, leBytes_append, leBytes_append, leBytes_append, leBytes_append]
    simp only [Nat.pow_one, flags_mod]
    rw [recordWord]
    congr 1
    omega
  rw [frameRecord, hwords, hdrops, hstate, hzero]
  simp only [List.append_assoc]

theorem drop_take_flatMap_leBytes (g : Nat → Nat) (k n i : Nat) (hi : i < n) :
    ((((List.range' k n).flatMap fun j => leBytes 8 (g j)).drop (8 * i)).take 8) = leBytes 8 (g (k + i)) := by
  induction n generalizing k i with
  | zero => exact absurd hi (Nat.not_lt_zero i)
  | succ n ih =>
    have hlen : ∀ x, (leBytes 8 x).length = 8 := fun _ => rfl
    rw [List.range'_succ, List.flatMap_cons]
    cases i with
    | zero => exact List.take_left' (hlen _)
    | succ i =>
      rw [Nat.mul_succ, Nat.add_comm, ← List.drop_drop, List.drop_left' (hlen _), ih (k + 1) i (by omega), Nat.add_right_comm,
        Nat.add_assoc]

theorem recordWord_read (f : Frame) {n : Nat} (hn : n < 8) :
    BitVec.ofNat 64 (ofLE (((frameRecord f).drop (8 * n)).take 8)) = BitVec.ofNat 64 (recordWord f n) := by
  rw [frameRecord_eq, List.range_eq_range', drop_take_flatMap_leBytes _ 0 8 n hn, ofLE_leBytes, Nat.zero_add]
  exact BitVec.eq_of_toNat_eq (by simp)

-- ## The outcomes of a report

section
variable {s : State} {gang ka now : Nat}

theorem govStep_of_not_kept (h : s.keptFrame gang ka = none) : s.govStep gang ka now = .trap .illegal 19 0 := by
  rw [govStep, h]

theorem govQuery_of_not_kept (h : s.keptFrame gang ka = none) (n : Nat) : s.govQuery gang ka n = .trap .illegal 19 0 := by
  rw [govQuery, h]

theorem govQuery_of_kept {f : Frame} (h : s.keptFrame gang ka = some f) (n : Nat) :
    s.govQuery gang ka n = .word s (ofLE (((frameRecord f).drop (8 * n)).take 8)) := by
  rw [govQuery, h]

/-- A report with END set, or of a step that never ran (R411). -/
def badReport (f : Frame) (ka : Nat) : Bool := bitOf ka 63 || !bitOf f.run (fld ka 0 8) || decide (32 ≤ fld ka 0 8)

theorem badReport_iff (f : Frame) (x : W64) :
    badReport f x.toNat = true ↔
      x.toNat ≥ 2 ^ 63 ∨ ¬Rule.bitIn f.run (x.toNat % 256) ∨ 32 ≤ x.toNat % 256 := by
  have hend : bitOf x.toNat 63 = true ↔ x.toNat ≥ 2 ^ 63 := by
    have hx := x.isLt
    rw [bitOf_eq_true_iff, Rule.bitIn]
    omega
  have hstep : fld x.toNat 0 8 = x.toNat % 256 := fld_zero _ 8
  rw [badReport, hstep, Bool.or_eq_true, Bool.or_eq_true, hend, Bool.not_eq_true', ← Bool.not_eq_true, bitOf_eq_true_iff,
    decide_eq_true_iff, or_assoc]

variable {f : Frame} (h : s.keptFrame gang ka = some f)
include h

theorem govStep_of_bad (hbad : badReport f ka = true) : s.govStep gang ka now = .trap .illegal 20 0 := by
  rw [govStep, h]
  exact if_pos hbad

theorem govStep_of_answered (hok : ¬badReport f ka = true) {x : Nat × Nat} (hx : f.answers.find? (fun x => x.1 == fld ka 0 8) = some x) :
    s.govStep gang ka now = .word s x.2 := by
  rw [govStep, h]
  refine (if_neg hok).trans ?_
  rw [hx]

/-- The estimate of step st after it took m counts (R411). -/
def measureStep (st m : Nat) (x : PlanStep × Nat) : PlanStep :=
  if x.2 = st then { x.1 with est := (7 * x.1.est + m) / 8 } else x.1

/-- The frame with the estimate of step st after it took m counts (R411). -/
def measured (f : Frame) (st m : Nat) : Frame := { f with steps := f.steps.zipIdx.map (measureStep st m) }

theorem govStep_of_first (hok : ¬badReport f ka = true) (hnew : ∀ x ∈ f.answers, x.1 ≠ fld ka 0 8) (hord : f.ord = false) :
    s.govStep gang ka now = s.answer (measured f (fld ka 0 8) (min (now - f.start) (2 ^ 32 - 1))) (some (fld ka 0 8)) (fld ka 0 8 + 1)
      now now := by
  have hfind : f.answers.find? (fun x => x.1 == fld ka 0 8) = none := List.find?_eq_none.mpr fun x hx => by simpa using hnew x hx
  rw [govStep, h]
  refine (if_neg hok).trans ?_
  rw [hfind]
  have hfree : ¬f.ord = true := Bool.eq_false_iff.mp hord
  simp only [if_neg hfree]
  rfl

end

theorem measured_steps (f : Frame) (st m : Nat) : (measured f st m).steps =
    if st < f.steps.length then f.steps.set st { Rule.stepAt f st with est := (7 * (Rule.stepAt f st).est + m) / 8 } else f.steps := by
  have hlen : (measured f st m).steps.length = f.steps.length := by simp [measured]
  have hget : ∀ i (hi : i < f.steps.length), (measured f st m).steps[i]'(hlen ▸ hi) = measureStep st m (f.steps[i], i) := fun i hi => by
    simp [measured]
  split
  case isTrue hst =>
    refine List.ext_getElem (by simpa using hlen) fun i hi _ => ?_
    have hi' : i < f.steps.length := hlen ▸ hi
    rw [hget i hi', List.getElem_set, measureStep]
    by_cases his : i = st
    · subst his
      simp [Rule.stepAt, hi']
    · simp [his, Ne.symm his]
  case isFalse hst =>
    refine List.ext_getElem hlen fun i hi hi' => ?_
    rw [hget i hi', measureStep, if_neg (by omega)]

/-- A measurement changes no rank and no drop flag. -/
theorem ranksUnique_measured {f : Frame} (hu : Rule.RanksUnique f.steps) (st m : Nat) : Rule.RanksUnique (measured f st m).steps := by
  have hkeep : ∀ x, (measureStep st m x).drop = x.1.drop ∧ (measureStep st m x).rank = x.1.rank := fun x => by
    unfold measureStep
    split <;> exact ⟨rfl, rfl⟩
  refine List.pairwise_map.mpr ?_
  simp only [hkeep]
  rw [← List.zipIdx_map_fst 0 f.steps] at hu
  exact List.pairwise_map.mp hu

-- ## The instructions

theorem exec_govstep (stop : Bool) (a b : KReg) (s : State) :
    exec (.govstep stop a b) s = .next (s.govReply (s.govStep s.cg.gang (s.k a).toNat s.sid) b) := rfl
theorem exec_govq (stop : Bool) (a b : KReg) (n : Fin 8) (s : State) :
    exec (.govq stop a b n) s = .next (s.govReply (s.govQuery s.cg.gang (s.k a).toNat n.val) b) := rfl

theorem govReply_trap (s : State) (c : TrapClass) (sub addr : Nat) (b : KReg) :
    s.govReply (.trap c sub addr) b = s.takeTrap (Rule.trapOf c sub 0 addr) := rfl
theorem govReply_word (s t : State) (w : Nat) (b : KReg) : s.govReply (.word t w) b = t.setK b (BitVec.ofNat 64 w) := rfl

/-- The first report of a step outside ordered mode (R411): the step is measured, the decision at the next boundary taken and recorded. -/
theorem govStep_first_spec {s : State} {gang ka : Nat} {f : Frame} (h : s.keptFrame gang ka = some f) (hok : ¬badReport f ka = true)
    (hnew : ∀ x ∈ f.answers, x.1 ≠ fld ka 0 8) (hord : f.ord = false) (hlen : f.steps.length ≤ 32) (hu : Rule.RanksUnique f.steps) :
    let st := fld ka 0 8
    let f1 := measured f st (min (s.sid - f.start) (2 ^ 32 - 1))
    ∃ t f' w ends, s.govStep gang ka s.sid = .word t w ∧ f' ∈ t.frames ∧ Rule.Decided f1 f' (st + 1) s.sid w ends ∧
      Sparse.get 0 f'.answers st = w ∧ f'.steps = f1.steps ∧
      (ends → f'.open_ = false ∧ f'.closet = s.sid ∧ f'.next = 0xFF ∧ f'.slack = (f.deadline : Int) - f.margin - s.sid) ∧
      (¬ends → { t with frames := s.frames } = s) ∧ ∀ g, g.no ≠ f.no → (g ∈ t.frames ↔ g ∈ s.frames) := by
  intro st f1
  obtain ⟨t, hans, hframes, hgoes⟩ := answer_spec s f1 (some st) (st + 1) s.sid s.sid
  have hsame := answeredFrame_samePlan f1 (some st) (st + 1) s.sid s.sid
  have hlen1 : f1.steps.length ≤ 32 := by simpa [f1, measured] using hlen
  refine ⟨t, answeredFrame f1 (some st) (st + 1) s.sid s.sid, _, _, (govStep_of_first h hok hnew hord).trans hans, ?_,
    answeredFrame_decided f1 (some st) (st + 1) s.sid s.sid (ranksUnique_measured hu _ _) hlen1, ?_, hsame.steps,
    answeredFrame_closed f1 (some st) (st + 1) s.sid s.sid, fun hn => ?_, fun g hg => ?_⟩
  · rw [hframes, mem_putFrame]
    exact .inl ⟨rfl, f, List.mem_of_find?_eq_some h, hsame.no.symm⟩
  · rw [answeredFrame_answers, Sparse.get_insert_same]
  · rw [hgoes hn]
    rfl
  · have hno : g.no ≠ (answeredFrame f1 (some st) (st + 1) s.sid s.sid).no := fun heq => hg (heq.trans hsame.no)
    rw [hframes, mem_putFrame]
    exact ⟨fun hmem => hmem.elim (fun hput => absurd (congrArg Frame.no hput.1) hno) And.left, fun hmem => .inr ⟨hmem, hno⟩⟩

/-- Settles O43: the first report is the answer of R410 for the measured frame, every other report leaves the state, and the record is
its eight words. -/
theorem governorStepsAndQueries : Obligations.GovernorStepsAndQueries := by
  intro s stop a b n h st
  have hst : fld (s.k a).toNat 0 8 = st := fld_zero _ 8
  refine ⟨fun hnone => ?_, fun f hf => ⟨fun hbad => ?_, fun hend hrun h32 => ?_, ?_⟩⟩
  · have hkept : s.keptFrame s.cg.gang (s.k a).toNat = none := List.find?_eq_none.mpr fun f hf => by
      rw [Bool.and_eq_true, beq_iff_eq, beq_iff_eq]
      exact hnone f hf
    rw [exec_govstep, exec_govq, govStep_of_not_kept hkept, govQuery_of_not_kept hkept, govReply_trap]
    exact ⟨rfl, rfl⟩
  · rw [exec_govstep, govStep_of_bad hf ((badReport_iff f (s.k a)).mpr hbad), govReply_trap]
  · have hok : ¬badReport f (s.k a).toNat = true := fun hbad =>
      ((badReport_iff f (s.k a)).mp hbad).elim (Nat.not_le.mpr hend) (·.elim (absurd hrun) (Nat.not_le.mpr h32))
    refine ⟨fun x hx => ?_, fun hnew hord hlen hu _ => ?_⟩
    · rw [← hst] at hx
      rw [exec_govstep, govStep_of_answered hf hok hx, govReply_word]
    · intro m f1
      rw [← hst] at hnew
      have hf1 : measured f st m = f1 := congrArg (fun l => { f with steps := l }) (measured_steps f st m)
      obtain ⟨t, f', w, ends, hstep, hrest⟩ := govStep_first_spec hf hok hnew hord hlen hu
      rw [hst, hf1] at hrest
      refine ⟨t, f', w, ends, ?_, hrest⟩
      rw [exec_govstep, hstep, govReply_word]
  · intro x
    have hx : recordWord f n.val = x := rfl
    rw [exec_govq, govQuery_of_kept hf, govReply_word, recordWord_read f n.isLt, hx]

end Sys2Proof.Machine
end

section
/-!
PROOFS. GOVARM (R404, R405, R409, R414): the checks of a plan as R405 states them field by field, the handle of a new frame, and the
outcome of each check in its order.
-/
namespace Sys2Proof.Machine
open State

-- ## Fields of bytes read from memory

theorem bytesAt_eq (s : State) (pa n : Nat) : s.bytesAt pa n = (List.range n).map fun i => s.byteAt (pa + i) := List.map_map

theorem sum_map_mul_left (c : Nat) (g : Nat → Nat) (l : List Nat) : (l.map fun i => c * g i).sum = c * (l.map g).sum := by
  induction l with
  | nil => rfl
  | cons i l ih => rw [List.map_cons, List.map_cons, List.sum_cons, List.sum_cons, ih, Nat.mul_add]

theorem ofLE_take (l : List Byte) (n : Nat) :
    ofLE (l.take n) = ((List.range n).map fun i => (l.getD i 0).toNat * 2 ^ (8 * i)).sum := by
  induction n generalizing l with
  | zero => rfl
  | succ n ih =>
    cases l with
    | nil =>
      rw [List.take_nil]
      exact (List.sum_eq_zero_iff_forall_eq_nat.mpr (List.forall_mem_map.mpr fun i _ => Nat.zero_mul _)).symm
    | cons x l =>
      have hshift : ∀ i, 256 * ((l.getD i 0).toNat * 2 ^ (8 * i)) = ((x :: l).getD (i + 1) 0).toNat * 2 ^ (8 * (i + 1)) := fun i => by
        rw [List.getD_cons_succ, Nat.mul_succ, Nat.pow_add, Nat.mul_left_comm, Nat.mul_comm 256]
      rw [List.take_succ_cons, ofLE, ih, List.range_succ_eq_map, List.map_cons, List.sum_cons, List.map_map, ← sum_map_mul_left]
      simp only [hshift, List.getD_cons_zero, Nat.mul_zero, Nat.pow_zero, Nat.mul_one]
      rfl

theorem ofLE_drop_take (l : List Byte) (o n : Nat) : ofLE ((l.drop o).take n) = Rule.fieldOf l o n := by
  rw [ofLE_take, Rule.fieldOf]
  simp [List.getD_eq_getElem?_getD]

theorem ofLE_drop {l : List Byte} {o n : Nat} (h : l.length = o + n) : ofLE (l.drop o) = Rule.fieldOf l o n := by
  rw [← ofLE_drop_take, List.take_of_length_le (by rw [List.length_drop]; omega)]

theorem fieldOf_eq_zero_iff (l : List Byte) (o n : Nat) : Rule.fieldOf l o n = 0 ↔ ∀ i, o ≤ i → i < o + n → l.getD i 0 = 0 := by
  have hzero : ∀ (x : Byte) (k : Nat), x.toNat * 2 ^ k = 0 ↔ x = 0 := fun x k => by
    rw [Nat.mul_eq_zero, or_iff_left (Nat.ne_of_gt (Nat.pow_pos Nat.two_pos))]
    exact (BitVec.toNat_eq (x := x) (y := 0)).symm
  rw [Rule.fieldOf, List.sum_eq_zero_iff_forall_eq_nat, List.forall_mem_map]
  simp only [List.mem_range, hzero]
  refine ⟨fun h i ho hi => ?_, fun h i hi => h (o + i) (by omega) (by omega)⟩
  have hi := h (i - o) (by omega)
  rwa [Nat.add_sub_cancel' ho] at hi

-- ## The checks of a plan (R405)

/-- A header that R405 refuses, as the model reads it. -/
def BadHeader (h : List Byte) : Prop :=
  ofLE (h.take 1) = 0 ∨ 32 < ofLE (h.take 1) ∨ ofLE ((h.drop 4).take 4) = 0 ∨
    ofLE ((h.drop 1).take 3) + ofLE ((h.drop 0xC).take 4) + ofLE (h.drop 0x18) ≠ 0 ∨ ofLE ((h.drop 0x10).take 8) % 64 ≠ 0

theorem badHeader_iff {h : List Byte} (hlen : h.length = 64) :
    BadHeader h ↔ ¬(1 ≤ Rule.fieldOf h 0 1 ∧ Rule.fieldOf h 0 1 ≤ 32 ∧ Rule.fieldOf h 4 4 ≠ 0 ∧ Rule.fieldOf h 0x10 8 % 64 = 0 ∧
      ∀ i < 64, (1 ≤ i ∧ i < 4) ∨ (12 ≤ i ∧ i < 16) ∨ 0x18 ≤ i → h.getD i 0 = 0) := by
  have hreserved : Rule.fieldOf h 1 3 + Rule.fieldOf h 0xC 4 + Rule.fieldOf h 0x18 40 = 0 ↔
      ∀ i < 64, (1 ≤ i ∧ i < 4) ∨ (12 ≤ i ∧ i < 16) ∨ 0x18 ≤ i → h.getD i 0 = 0 := by
    rw [Nat.add_eq_zero_iff, Nat.add_eq_zero_iff, fieldOf_eq_zero_iff, fieldOf_eq_zero_iff, fieldOf_eq_zero_iff]
    constructor
    · rintro ⟨⟨h1, h2⟩, h3⟩ i hi (⟨ha, hb⟩ | ⟨ha, hb⟩ | ha)
      · exact h1 i ha hb
      · exact h2 i ha hb
      · exact h3 i ha hi
    · exact fun hall => ⟨⟨fun i ha hb => hall i (by omega) (.inl ⟨ha, hb⟩), fun i ha hb => hall i (by omega) (.inr (.inl ⟨ha, hb⟩))⟩,
        fun i ha hb => hall i hb (.inr (.inr ha))⟩
  have hnstep : ofLE (h.take 1) = Rule.fieldOf h 0 1 := ofLE_drop_take h 0 1
  rw [BadHeader, hnstep, ofLE_drop_take, ofLE_drop_take, ofLE_drop_take, ofLE_drop_take, ofLE_drop (n := 40) hlen, ← hreserved]
  omega

theorem planStep_eq {e : List Byte} (h : Rule.fieldOf e 4 1 ≤ 1) : planStep e = Rule.stepOf e := by
  have hest : ofLE (e.take 4) = Rule.fieldOf e 0 4 := ofLE_drop_take e 0 4
  have hdrop : bitOf (Rule.fieldOf e 4 1) 0 = (Rule.fieldOf e 4 1 == 1) := by
    rw [bitOf, Nat.pow_zero, Nat.div_one, Nat.mod_eq_of_lt (Nat.lt_succ_of_le h)]
  rw [planStep, hest, ofLE_drop_take, ofLE_drop_take, ofLE_drop_take, ofLE_drop_take, hdrop]
  rfl

/-- A step entry that R405 accepts by itself. -/
def EntryOk (e : List Byte) : Prop :=
  Rule.fieldOf e 4 1 ≤ 1 ∧ (Rule.fieldOf e 4 1 = 0 → Rule.fieldOf e 5 1 = 0) ∧ Rule.fieldOf e 8 8 = 0

theorem planStepOk_of {e : List Byte} (hlen : e.length = 16) (hok : EntryOk e) : planStepOk e = true := by
  obtain ⟨h, hrank, hzero⟩ := hok
  rw [planStepOk, planStep_eq h, ofLE_drop_take, ofLE_drop (n := 8) hlen, hzero, Bool.and_eq_true, Bool.and_eq_true, Bool.or_eq_true,
    decide_eq_true_iff, Rule.stepOf]
  refine ⟨⟨Nat.lt_succ_of_le h, rfl⟩, ?_⟩
  rcases Nat.le_one_iff_eq_zero_or_eq_one.mp h with h0 | h1
  · exact .inr (beq_iff_eq.mpr (hrank h0))
  · exact .inl (beq_iff_eq.mpr h1)

theorem ranksUnique_iff (l : List PlanStep) : ranksUnique l = true ↔ Rule.RanksUnique l := by
  induction l with
  | nil => exact ⟨fun _ => List.Pairwise.nil, fun _ => rfl⟩
  | cons x l ih =>
    rw [ranksUnique, Rule.RanksUnique, List.pairwise_cons, Bool.and_eq_true, ih]
    refine and_congr_left fun _ => ?_
    rw [Bool.or_eq_true, List.all_eq_true, Bool.not_eq_true', ← Bool.not_eq_true, ← Decidable.imp_iff_not_or]
    simp only [Bool.or_eq_true, Bool.not_eq_true', ← Bool.not_eq_true, ← Decidable.imp_iff_not_or, bne_iff_ne]
    exact ⟨fun h y hy hx hd => (h hx y hy hd).symm, fun h hx y hy hd => (h y hy hx hd).symm⟩

-- ## The new frame

/-- The least handle that no frame has, where one is left (R404). -/
def freeHandle (s : State) : Nat := ((List.range 256).find? fun h => s.frames.all fun f => f.handle != h).getD 0

theorem freeHandle_spec {s : State} (h : s.frames.length < 256) : freeHandle s < 256 ∧ ∀ f ∈ s.frames, f.handle ≠ freeHandle s := by
  cases hfind : (List.range 256).find? fun h => s.frames.all fun f => f.handle != h with
  | none =>
    have hsub : List.range 256 ⊆ s.frames.map (·.handle) := fun n hn => by
      simpa using List.find?_eq_none.mp hfind n hn
    have hle := List.nodup_range.length_le_of_subset hsub
    rw [List.length_range, List.length_map] at hle
    exact absurd h (Nat.not_lt.mpr hle)
  | some n =>
    have hfree := List.find?_some hfind
    rw [freeHandle, hfind, Option.getD_some]
    exact ⟨List.mem_range.mp (List.mem_of_find?_eq_some hfind), fun f hf => bne_iff_ne.mp (List.all_eq_true.mp hfree f hf)⟩

/-- The frame that GOVARM opens for a plan with header `h` and these steps (R409). -/
def newFrame (s : State) (gang ctx ka now : Nat) (ord : Bool) (h : List Byte) (steps : List PlanStep) : Frame :=
  { gang := gang, ctx := ctx, handle := freeHandle s, no := s.frameNo, plan := fld ka 0 52, tag := fld ka 52 12
    budget := ofLE ((h.drop 4).take 4), margin := ofLE ((h.drop 8).take 4), recaddr := ofLE ((h.drop 0x10).take 8), steps := steps
    armt := now, closet := 0, deadline := now + ofLE ((h.drop 4).take 4), slack := 0, dropped := 0, run := 0, next := 0, start := now
    open_ := true, late := false, ord := ord, abandoned := false, atArm := 0, answers := [] }

/-- The state in which a frame is opened: the frame is the last one, and its number is used. -/
def withFrame (s : State) (f : Frame) : State := { s with frames := s.frames ++ [f], frameNo := s.frameNo + 1 }

theorem makePlace_of_room {s : State} {gang : Nat} (hgang : (s.frames.filter fun f => f.gang == gang).length < 4)
    (hall : s.frames.length < 256) : s.makePlace gang = some s := by
  unfold makePlace
  exact (if_neg (Nat.not_le.mpr hgang)).trans (if_neg (Nat.not_le.mpr hall))

-- ## The outcomes of GOVARM, in the order of its checks (R414)

/-- The kept frame that GOVARM finds (R409). -/
def keptPlan (s : State) (gang ka : Nat) : Option Frame :=
  s.frames.find? fun f => f.gang == gang && f.plan == fld ka 0 52 && f.tag == fld ka 52 12

/-- The bytes of a step entry; none where its page is not ordinary. -/
def entryBytes (s : State) (ctx a : Nat) : List Byte :=
  match s.ordinary ctx a with
  | some pa => s.bytesAt pa 16
  | none => []

/-- What GOVARM does once the pages are found ordinary, with the bytes of the step entries. -/
def armPlan (s : State) (gang ctx ka now : Nat) (ord : Bool) (h : List Byte) (raw : List (List Byte)) : GovRes :=
  if !(raw.all planStepOk && ranksUnique (raw.map planStep)) then .trap .illegal 18 0
  else match s.makePlace gang with
  | none => .trap .illegal 19 0
  | some t =>
    (withFrame t (newFrame t gang ctx ka now ord h (raw.map planStep))).answer (newFrame t gang ctx ka now ord h (raw.map planStep)) none 0
      now now

theorem armPlan_of_ok {s : State} {gang : Nat} {raw : List (List Byte)} (hsteps : ∀ e ∈ raw, planStepOk e = true)
    (hranks : ranksUnique (raw.map planStep) = true) (hroom : s.makePlace gang = some s) (ctx ka now : Nat) (ord : Bool) (h : List Byte) :
    let f := newFrame s gang ctx ka now ord h (raw.map planStep)
    armPlan s gang ctx ka now ord h raw = (withFrame s f).answer f none 0 now now := by
  rw [armPlan, List.all_eq_true.mpr hsteps, hranks, hroom]
  rfl

section
variable {s : State} {gang ctx ka now : Nat} {ord : Bool}

theorem govArm_of_misaligned (h : fld ka 0 52 % 64 ≠ 0) : s.govArm gang ctx ka now ord = .trap .align 4 (fld ka 0 52) := if_pos h

variable (halign : fld ka 0 52 % 64 = 0)
include halign

theorem govArm_of_kept {f : Frame} (h : keptPlan s gang ka = some f) : s.govArm gang ctx ka now ord = .word s f.atArm := by
  rw [keptPlan] at h
  unfold govArm
  dsimp only
  rw [if_neg (Decidable.not_not.mpr halign), h]

variable (hnew : keptPlan s gang ka = none)
include hnew

theorem govArm_of_no_page (hpage : s.ordinary ctx (fld ka 0 52) = none) :
    s.govArm gang ctx ka now ord = .trap .perm 8 (fld ka 0 52) := by
  rw [keptPlan] at hnew
  unfold govArm
  dsimp only
  rw [if_neg (Decidable.not_not.mpr halign), hnew, hpage]

variable {pa : Nat} (hpage : s.ordinary ctx (fld ka 0 52) = some pa)
include hpage

theorem govArm_of_bad_header (hbad : BadHeader (s.bytesAt pa 64)) : s.govArm gang ctx ka now ord = .trap .illegal 18 0 := by
  rw [keptPlan] at hnew
  unfold govArm
  dsimp only
  rw [if_neg (Decidable.not_not.mpr halign), hnew, hpage]
  exact if_pos hbad

/-- Where every page is ordinary, what is left are the step entries and the room. -/
theorem govArm_of_pages {pe : Nat → Nat} (hok : ¬BadHeader (s.bytesAt pa 64))
    (hents : ∀ i < ofLE ((s.bytesAt pa 64).take 1), s.ordinary ctx (fld ka 0 52 + 0x40 + 16 * i) = some (pe i))
    (hrec : (s.ordinary ctx (ofLE (((s.bytesAt pa 64).drop 0x10).take 8))).isSome = true) :
    s.govArm gang ctx ka now ord = armPlan s gang ctx ka now ord (s.bytesAt pa 64)
      ((List.range (ofLE ((s.bytesAt pa 64).take 1))).map fun i => s.bytesAt (pe i) 16) := by
  let ents := (List.range (ofLE ((s.bytesAt pa 64).take 1))).map fun i => fld ka 0 52 + 0x40 + 16 * i
  have hraw : ents.map (entryBytes s ctx) = (List.range (ofLE ((s.bytesAt pa 64).take 1))).map fun i => s.bytesAt (pe i) 16 := by
    rw [List.map_map]
    refine List.map_congr_left fun i hi => ?_
    rw [Function.comp_apply, entryBytes, hents i (List.mem_range.mp hi)]
  have hent : ∀ a ∈ ents, (s.ordinary ctx a).isSome = true := List.forall_mem_map.mpr fun i hi => by
    rw [hents i (List.mem_range.mp hi), Option.isSome_some]
  have hneed : (if ofLE (((s.bytesAt pa 64).drop 0x10).take 8) ≤ fld ka 0 52 then ofLE (((s.bytesAt pa 64).drop 0x10).take 8) :: ents
      else ents ++ [ofLE (((s.bytesAt pa 64).drop 0x10).take 8)]).find? (fun a => (s.ordinary ctx a).isNone) = none := by
    refine List.find?_eq_none.mpr fun a ha => ?_
    have hmem : a = ofLE (((s.bytesAt pa 64).drop 0x10).take 8) ∨ a ∈ ents := by
      split at ha
      · exact List.mem_cons.mp ha
      · exact (List.mem_append.mp ha).symm.imp_left List.mem_singleton.mp
    rw [Option.isNone_eq_false_iff.mpr (hmem.elim (fun heq => heq ▸ hrec) (hent a))]
    exact Bool.false_ne_true
  rw [← hraw]
  rw [keptPlan] at hnew
  unfold govArm
  dsimp only
  rw [if_neg (Decidable.not_not.mpr halign), hnew, hpage]
  refine (if_neg hok).trans ?_
  rw [hneed]
  rfl

/-- Where every check passes and there is room, GOVARM opens the frame and answers with the decision at boundary 0 (R409). -/
theorem govArm_opens {pe : Nat → Nat} (hok : ¬BadHeader (s.bytesAt pa 64))
    (hents : ∀ i < ofLE ((s.bytesAt pa 64).take 1), s.ordinary ctx (fld ka 0 52 + 0x40 + 16 * i) = some (pe i))
    (hrec : (s.ordinary ctx (ofLE (((s.bytesAt pa 64).drop 0x10).take 8))).isSome = true)
    (hentries : ∀ i < ofLE ((s.bytesAt pa 64).take 1), EntryOk (s.bytesAt (pe i) 16))
    (hu : Rule.RanksUnique ((List.range (ofLE ((s.bytesAt pa 64).take 1))).map fun i => Rule.stepOf (s.bytesAt (pe i) 16)))
    (hroom : s.makePlace gang = some s) :
    let f := newFrame s gang ctx ka now ord (s.bytesAt pa 64)
      ((List.range (ofLE ((s.bytesAt pa 64).take 1))).map fun i => Rule.stepOf (s.bytesAt (pe i) 16))
    s.govArm gang ctx ka now ord = (withFrame s f).answer f none 0 now now := by
  have hraw : ∀ x ∈ (List.range (ofLE ((s.bytesAt pa 64).take 1))).map (fun i => s.bytesAt (pe i) 16), planStepOk x = true :=
    List.forall_mem_map.mpr fun i hi => planStepOk_of (by simp [bytesAt_eq]) (hentries i (List.mem_range.mp hi))
  have hsteps : ((List.range (ofLE ((s.bytesAt pa 64).take 1))).map fun i => s.bytesAt (pe i) 16).map planStep =
      (List.range (ofLE ((s.bytesAt pa 64).take 1))).map fun i => Rule.stepOf (s.bytesAt (pe i) 16) := by
    rw [List.map_map]
    exact List.map_congr_left fun i hi => planStep_eq (hentries i (List.mem_range.mp hi)).1
  rw [govArm_of_pages halign hnew hpage hok hents hrec, ← hsteps]
  exact armPlan_of_ok hraw (by rwa [hsteps, ranksUnique_iff]) hroom ctx ka now ord _

end

-- ## The instruction

theorem exec_govarm (stop : Bool) (a b : KReg) (s : State) :
    exec (.govarm stop a b) s = .next (s.govReply (s.govArm s.cg.gang s.gg.ctx (s.k a).toNat s.sid s.orderedHere) b) := rfl

theorem planTag_eq (x : W64) : fld x.toNat 52 12 = x.toNat / 2 ^ 52 := by
  have hx := x.isLt
  rw [fld]
  omega

/-- A frame opened in a package with room: it stands among the old ones with the decision at boundary 0 recorded as its answer. -/
theorem openedFrame_spec {s : State} {f : Frame} (hno : f.no = s.frameNo) (hold : ∀ g ∈ s.frames, g.no < s.frameNo)
    (hlen : f.steps.length ≤ 32) (hu : Rule.RanksUnique f.steps) (now : Nat) :
    ∃ t f' w ends, (withFrame s f).answer f none 0 now now = .word t w ∧ f' ∈ t.frames ∧ f'.atArm = w ∧
      Rule.Decided f f' 0 now w ends ∧ t.frames.length = s.frames.length + 1 ∧ (∀ g ∈ s.frames, g ∈ t.frames) ∧ SamePlan f f' := by
  obtain ⟨t, hans, hframes, -⟩ := answer_spec (withFrame s f) f none 0 now now
  have hsame := answeredFrame_samePlan f none 0 now now
  refine ⟨t, answeredFrame f none 0 now now, _, _, hans, ?_, answeredFrame_atArm f 0 now now,
    answeredFrame_decided f none 0 now now hu hlen, ?_, fun g hg => ?_, hsame⟩
  · rw [hframes, mem_putFrame]
    exact .inl ⟨rfl, f, List.mem_append_right _ List.mem_cons_self, hsame.no.symm⟩
  · rw [hframes, length_putFrame]
    exact List.length_append
  · rw [hframes, mem_putFrame, hsame.no, hno]
    exact .inr ⟨List.mem_append_left _ hg, Nat.ne_of_lt (hold g hg)⟩

/-- Settles O42: the checks of GOVARM refuse what R405 and R414 name, in their order, and what passes them opens a frame. -/
theorem governorArmsAFrame : Obligations.GovernorArmsAFrame := by
  intro s stop a b p tag
  have hp : fld (s.k a).toNat 0 52 = p := fld_zero _ 52
  have htag : fld (s.k a).toNat 52 12 = tag := planTag_eq (s.k a)
  have hkept : keptPlan s s.cg.gang (s.k a).toNat =
      s.frames.find? fun f => f.gang == s.cg.gang && f.plan == p && f.tag == tag := by rw [keptPlan, hp, htag]
  rw [exec_govarm]
  refine ⟨fun halign => ?_, fun f halign hf => ?_, fun halign hnone => ?_⟩
  · rw [← hp] at halign
    rw [govArm_of_misaligned halign, hp, govReply_trap]
  · rw [← hp] at halign
    rw [govArm_of_kept halign (hkept.trans hf), govReply_word]
  have hnew : keptPlan s s.cg.gang (s.k a).toNat = none := hkept.trans <| List.find?_eq_none.mpr fun f hf => by
    rw [Bool.and_eq_true, Bool.and_eq_true, beq_iff_eq, beq_iff_eq, beq_iff_eq, and_assoc]
    exact hnone f hf
  rw [← hp] at halign
  refine ⟨fun hpage => ?_, fun pa hpage => ?_⟩
  · rw [← hp] at hpage
    rw [govArm_of_no_page halign hnew hpage, hp, govReply_trap]
  intro h nstep rec_ okHeader
  have hh : s.bytesAt pa 64 = h := bytesAt_eq s pa 64
  have hbad : BadHeader (s.bytesAt pa 64) ↔ ¬okHeader := by
    rw [hh]
    exact badHeader_iff (by simp [h])
  rw [← hp] at hpage
  refine ⟨fun hrefused => ?_, fun pe hok hents hrec => ?_⟩
  · rw [govArm_of_bad_header halign hnew hpage (hbad.mpr hrefused), govReply_trap]
  intro e steps hentries hu hgang hall hold
  have he : ∀ i, s.bytesAt (pe i) 16 = e i := fun i => bytesAt_eq s (pe i) 16
  have hnstep : ofLE ((s.bytesAt pa 64).take 1) = nstep := hh ▸ ofLE_drop_take _ 0 1
  have hrec_ : ofLE (((s.bytesAt pa 64).drop 0x10).take 8) = rec_ := hh ▸ ofLE_drop_take _ 0x10 8
  have hopen := govArm_opens (now := s.sid) (ord := s.orderedHere) (pe := pe) halign hnew hpage (fun hb => hbad.mp hb hok)
    (by rw [hnstep, hp]; exact hents) (by rw [hrec_]; exact hrec) (fun i hi => (he i).symm ▸ hentries i (hnstep ▸ hi))
    (by simpa only [hnstep, he] using hu) (makePlace_of_room hgang hall)
  simp only [hnstep, he] at hopen
  rw [hh] at hopen
  obtain ⟨-, hn32, -⟩ := hok
  obtain ⟨t, f', w, ends, hans, hin, hatArm, hdec, hlength, hkeep, hsame⟩ := openedFrame_spec
    (f := newFrame s s.cg.gang s.gg.ctx (s.k a).toNat s.sid s.orderedHere h steps) rfl hold (by simpa [newFrame, steps] using hn32) hu s.sid
  obtain ⟨hhandle, hfree⟩ := freeHandle_spec hall
  refine ⟨t, _, f', w, ends, ?_, hin, hatArm, hdec, hlength, fun f hf => ⟨hkeep f hf, hfree f hf⟩, hhandle, rfl, hp, htag, rfl, rfl,
    ofLE_drop_take h 8 4, ofLE_drop_take h 0x10 8, ?_, rfl, rfl, rfl, rfl, rfl, hsame.steps, hsame.deadline, hsame.plan.trans hp,
    hsame.tag.trans htag⟩
  · rw [hopen, hans, govReply_word]
  · exact congrArg (s.sid + ·) (ofLE_drop_take h 4 4)

-- ## The hypotheses can be met

/-- A frame of one step, which runs. -/
def lastStepFrame : Frame :=
  { newFrame State.reset 0 0 0 0 false [] [{ est := 8, drop := false, rank := 0, coef := 0, subst := 0 }] with run := 1 }

/-- The report of its last step closes the frame. -/
theorem govstep_lastStepFrame : ∃ t w f',
    exec (.govstep false 0 1) { State.reset with frames := [lastStepFrame] } = .next (State.setK t 1 w) ∧ f' ∈ t.frames ∧ f'.open_ = false := by
  obtain ⟨-, hkept⟩ := governorStepsAndQueries { State.reset with frames := [lastStepFrame] } false 0 1 0
  obtain ⟨-, hreport, -⟩ := hkept lastStepFrame rfl
  obtain ⟨-, hfirst⟩ := hreport (by decide) (by decide) (by decide)
  obtain ⟨t, f', w, ends, hexec, hin, hdec, -, -, hclosed, -⟩ :=
    hfirst (fun _ hx => nomatch hx) rfl (by decide) (List.pairwise_singleton _ _) rfl
  obtain ⟨-, -, -, -, hends, -⟩ := hdec
  obtain ⟨hopen, -⟩ := hclosed (hends.mpr fun s h1 h2 => absurd h2 (Nat.not_lt.mpr h1))
  exact ⟨t, _, f', hexec, hin, hopen⟩

/-- A package in which address 0 of context 0 is in an ordinary page that holds a plan of two steps, the second of which may be dropped. -/
def planState : State :=
  { State.reset with
    ctxs := [(0, { Ctx.zero with ptroot := 0x10000 })]
    mem := [(0, 2), (4, 5), (0x11, 0x10), (0x40, 4), (0x50, 3), (0x54, 1), (0x10000, 1), (0x10002, 2),
            (0x20000, 1), (0x20002, 3), (0x30000, 0xB3)] }

/-- GOVARM with plan 0 and tag 0 passes every check and opens the only frame. -/
theorem govarm_planState : ∃ t w, exec (.govarm false 0 1) planState = .next (State.setK t 1 w) ∧ t.frames.length = 1 := by
  obtain ⟨-, -, hchecks⟩ := governorArmsAFrame planState false 0 1
  obtain ⟨-, hpage⟩ := hchecks (by decide) (fun _ hf => nomatch hf)
  obtain ⟨-, hopens⟩ := hpage 0 (by decide)
  obtain ⟨t, f0, f', w, ends, hexec, -, -, -, hlength, -⟩ := hopens (fun i => 0x40 + 16 * i) (by decide) (by decide) (by decide)
    (by decide) ((ranksUnique_iff _).mp (by decide)) (by decide) (by decide) (fun _ hf => nomatch hf)
  exact ⟨t, _, hexec, hlength⟩

end Sys2Proof.Machine
end
